-- ==== Sys2Proof/Word.lean ====
section
/-!
DEFINITION. Word.lean: the byte of the module's memories, and the plain modular arithmetic that
every counter and register of the spec uses (00_scope.md R5; 02, 13: "wraps at 2^64", "saturating").
-/
namespace Sys2Proof

/-- One byte of HBM, Loft, flash, the host's memory or a peer's window. -/
abbrev Byte := BitVec 8

/-- Addition that wraps at `2^w`, as the 64-bit counters of the register tables do. -/
def addWrap (w a b : Nat) : Nat := (a + b) % 2 ^ w

/-- Addition that saturates at `2^w - 1`, as the counters marked "saturating" do. -/
def addSat (w a b : Nat) : Nat := min (a + b) (2 ^ w - 1)

/-- The least multiple of `m` that is at least `a` (`a` itself for `m = 0`). -/
def alignUp (a m : Nat) : Nat := if m = 0 then a else (a + (m - 1)) / m * m

/-- Division rounding up; 0 for a zero divisor. -/
def ceilDiv (a m : Nat) : Nat := if m = 0 then 0 else (a + (m - 1)) / m

end Sys2Proof
end

