-- ==== Sys2Proof/Syntax.lean ====
section
/-!
DEFINITION. Syntax.lean: the commands of the block, one constructor for each row of the operation and event table,
with the row's operands: `q` a submission queue whose running command is meant, `i` an entry of its KERNEL, and
what the outside (host, link partner, memory, sensors) supplies with an event.
Where the spec is silent or is read by inference: DESIGN CHOICE log 74 (notes/assumptions).
-/
namespace Sys2Proof

/-- What the owner of a peer object answers to a MAP REMOTE: its size, page size, EXPORT and key. -/
structure PeerObj where
  size : Nat
  small : Bool
  exportMode : Nat
  key : Nat
  deriving DecidableEq, Repr

/-- What every frame that arrives carries beside its content (15 R427, R432): the port it came in on, its source device, that
device's INCARNATION and its end-to-end sequence number. -/
structure FrameHdr where
  port : Nat
  src : Nat
  inc : Nat
  seq : Nat
  deriving DecidableEq, Repr

/-- A rank's report to the coordinator of a switch (11 R307): its failure with its status, or that it is ready, with what it is ready
for; for an underlay BLOCKED in bit 0 and DUE in bit 1 of `flags` (19 R523). -/
structure AgreeReport where
  rank : Nat
  fail : Option Nat
  sheaf : Nat
  time : Nat
  crc : Nat
  flags : Nat := 0
  deriving DecidableEq, Repr

/-- A local mapping of an object that an underlay set holds (19 R521). -/
structure UlMap where
  va : Nat
  bytes : Nat
  off : Nat
  write : Bool
  prefetch : Bool
  deriving DecidableEq, Repr

/-- An object of an underlay set (19 R521): its attributes, its mappings and the CRC-64 of its bytes. -/
structure UlAttr where
  id : Nat
  size : Nat
  small : Bool
  pin : Bool
  exportMode : Nat
  key : Nat
  firstStack : Nat
  runLog2 : Nat
  maps : List UlMap
  crc : Nat
  deriving DecidableEq, Repr

/-- What arrives at the mirror rank of an underlay set (19 R527, R531, R534): a page of it, with the set's STEP, CUT_TIME and objects;
an update of its record (DONE_TIME, objects with their CRCs, LOSS_VALID, LOSS and TOKENS); a read of all of it. -/
inductive MirrorMsg where
  | page (step cut : Nat) (objs : List UlAttr) (obj page data : Nat)
  | update (done : Nat) (objs : List UlAttr) (lossValid : Bool) (loss tokens : Nat)
  | read
  deriving DecidableEq, Repr

/-- What a mirror rank answers to the read of a set: its STEP, CUT_TIME, objects and their bytes. -/
structure MirrorSet where
  step : Nat
  cut : Nat
  objs : List (UlAttr × Nat)
  deriving DecidableEq, Repr

/-- What bring-up finds on an NVMe root port (16 R467): the port's state (0 ABSENT, 2 READY, 3 FAILED) and link; the SSD's IDs; whether
its controller was ready within 10 s; whether its namespace offers the LBA format; the namespace's bytes; MDTS in bytes (0: no limit);
the queue pairs it grants and their entries. -/
structure SsdInfo where
  state : Nat
  speed : Nat
  width : Nat
  vid : Nat
  did : Nat
  inTime : Bool
  lba : Bool
  bytes : Nat
  mdts : Nat
  pairs : Nat
  entries : Nat
  deriving DecidableEq, Repr

/-- What the work of a bring-up step found (17 Table 17-3): whether GD1 started; its spare cores and GD0's (GABLE_SPARE); the defective
physical units; the spare lanes of the channels of each stack; the root ports. -/
structure StepWork where
  gd1 : Bool := true
  spare0 : Nat := 0
  spare1 : Nat := 0
  defects : List Nat := []
  lanes : List Nat := []
  ssds : List SsdInfo := []
  deriving DecidableEq, Repr


/-- Who makes a request for a stack (07 R193): its tag, and the unit identifier of the NI that sends it over the Batten network; none for a
request that arrives at the Eave unit. -/
structure Requester where
  tag : Nat
  ni : Option Nat
  deriving DecidableEq, Repr

/-- The commands, each one whole step of the module. -/
inductive Instr where
  /-- NOP (R380): Command that does nothing and completes OK with result 0. -/
  | nop (q : Nat)
  /-- FENCE (R376): Command that completes once every command the named SQs had started or accepted before it has completed. -/
  | fence (q : Nat)
  /-- WAIT_EVENT (R377): Command that completes when its event counter reaches VALUE. -/
  | waitEvent (q : Nat)
  /-- SIGNAL_EVENT (R377): Command that sets, adds to or raises to a maximum one event counter, atomically. -/
  | signalEvent (q : Nat)
  /-- COPY (R186): Command that runs one LINEAR or STRIDED copy descriptor on the copy engines. -/
  | copy (q : Nat)
  /-- FILL (R187): Command that writes a repeated 8-byte pattern over a destination on all copy engines. -/
  | fill (q : Nat)
  /-- CONVERT (R66): Command that converts a tensor between two format descriptors on a copy engine. -/
  | convert (q : Nat)
  /-- GATHER (R209): Command or Eave operation that copies or sums indexed table rows into an output. -/
  | gather (q : Nat) (e : Option Nat)
  /-- SCATTER_ADD (R211): Command or Eave operation that adds source rows into indexed FP32 destination rows in ascending index order. -/
  | scatterAdd (q : Nat) (e : Option Nat)
  /-- KERNEL (R381): Command that reads a kernel image, runs the issue checks of every entry and starts its entries. -/
  | kernel (q : Nat)
  /-- STEP (R342): Command that runs up to REPEAT serving steps of the bay. -/
  | step (q : Nat)
  /-- REDUCE_BIND (R271): REDUCE with OP BIND binds a reduction handle to an accumulator. -/
  | reduceBind (q : Nat)
  /-- REDUCE_UNBIND (R271): REDUCE with OP UNBIND releases a reduction handle. -/
  | reduceUnbind (q : Nat)
  /-- REDUCE_RUN (R288): REDUCE with OP RUN runs this module's part of the second and third courses of a reduction plan. -/
  | reduceRun (q : Nat)
  /-- ALLGATHER (R292): Collective part that gathers every rank's block to every participant. -/
  | allgather (q : Nat)
  /-- ALLTOALL (R292): Collective part that exchanges blocks between every pair of ranks, optionally with counts. -/
  | alltoall (q : Nat)
  /-- CHAIN_BROADCAST (R320): Collective part that runs chains outside a TURN, from local memory or network storage. -/
  | chainBroadcast (q : Nat)
  /-- TURN_TO_GENERATE (R312): TURN that quantises the masters into a new sheaf, carries it by chains, verifies it and switches to it at a Purlin time. -/
  | turnToGenerate (q : Nat)
  /-- TURN_TO_LEARN (R313): TURN that agrees on a switch time and requests SPLIT at it. -/
  | turnToLearn (q : Nat)
  /-- SHEAF_OPEN (R325): SHEAF_PUBLISH OPEN makes a sheaf BUILDING from its manifest. -/
  | sheafOpen (q : Nat)
  /-- SHEAF_PUBLISH (R302): SHEAF_PUBLISH PUBLISH verifies a sheaf and makes it PUBLISHED. -/
  | sheafPublish (q : Nat)
  /-- SHEAF_HOLD (R325): SHEAF_PUBLISH HOLD takes one pin on a sheaf. -/
  | sheafHold (q : Nat)
  /-- SHEAF_RELEASE (R325): SHEAF_PUBLISH RELEASE releases one HOLD pin on a sheaf. -/
  | sheafRelease (q : Nat)
  /-- SHEAF_QUERY (R325): SHEAF_PUBLISH QUERY writes one entry per resident sheaf of the bay. -/
  | sheafQuery (q : Nat)
  /-- SHEAF_SWITCH (R326): Agreement part that makes a PUBLISHED MAIN sheaf CURRENT at a Purlin time. -/
  | sheafSwitch (q : Nat)
  /-- SHEAF_RETIRE (R327): Command that retires a BUILDING sheaf or drains a PUBLISHED one. -/
  | sheafRetire (q : Nat)
  /-- SEQ_OPEN (R333): Command that opens a sequence and allocates its directories and page tables. -/
  | seqOpen (q : Nat)
  /-- SEQ_SUBMIT (R336): Deferred command that appends tokens to a sequence's token list. -/
  | seqSubmit (q : Nat)
  /-- SEQ_GENERATE (R337): Deferred command that asks for up to MAX_TOKENS generated tokens. -/
  | seqGenerate (q : Nat)
  /-- SEQ_CLOSE (R340): Command that closes a sequence, aborts its requests and frees its pages. -/
  | seqClose (q : Nat)
  /-- PREFIX_BUILD (R357): Deferred command that builds a prefix handle's caches on a sheaf. -/
  | prefixBuild (q : Nat)
  /-- PREFIX_DROP (R359): Command that drops a prefix handle. -/
  | prefixDrop (q : Nat)
  /-- OBJ_CREATE (R401): OBJ_CREATE with OP CREATE allocates a new object in its home tier. -/
  | objCreate (q : Nat) (hint : Nat)
  /-- OBJ_DESTROY (R418): OBJ_CREATE with OP DESTROY unmaps an object and frees both copies. -/
  | objDestroy (q : Nat)
  /-- OBJ_QUERY (R402): OBJ_CREATE with OP QUERY writes the object state record, optionally clearing its fault. -/
  | objQuery (q : Nat)
  /-- OBJ_PLACE (R406): Command that sets an object's home, backing and stack placement and moves its data. -/
  | objPlace (q : Nat) (hint : Nat)
  /-- OBJ_FLUSH (R409): Command that writes dirty granules of a range back to the backing tier. -/
  | objFlush (q : Nat)
  /-- MAP (R403): Command that maps part of a local object into the bay's virtual space. -/
  | map (q : Nat)
  /-- MAP_REMOTE (R414): MAP with REMOTE set maps a peer module's exported object. -/
  | mapRemote (q : Nat) (ans : Option PeerObj)
  /-- UNMAP (R418): Command that removes the mapping pages of a virtual range. -/
  | unmap (q : Nat)
  /-- UNDERLAY_TAKE (R523): UNDERLAY_TAKE with OP TAKE runs the cut agreement and completes under the bound on steps lost. -/
  | underlayTake (q : Nat)
  /-- UNDERLAY_QUERY (R530): UNDERLAY_TAKE with OP QUERY writes the records of the bay's sets. -/
  | underlayQuery (q : Nat)
  /-- UNDERLAY_DISCARD (R530): UNDERLAY_TAKE with OP DISCARD discards a named set. -/
  | underlayDiscard (q : Nat)
  /-- UNDERLAY_RESTORE (R532): Collective part that restores a set's objects and mappings from a local or mirrored set. -/
  | underlayRestore (q : Nat) (ans : Option MirrorSet) (hint : Nat)
  /-- REPLAY_RECORD (R534): REPLAY_CHECK with OP RECORD stores the system loss and tokens in a set record. -/
  | replayRecord (q : Nat)
  /-- REPLAY_CHECK (R534): REPLAY_CHECK with OP CHECK compares a replayed loss with the recorded one. -/
  | replayCheck (q : Nat)
  /-- STAT_READ (R92): Command that copies statistics or layer slots at one point in merge order, optionally clearing them. -/
  | statRead (q : Nat)
  /-- STAT_RESET (R93): STAT_RESET with ACTION RESET resets record or layer slots. -/
  | statReset (q : Nat)
  /-- STAT_CLOSE (R93): STAT_RESET with ACTION CLOSE closes the open step of layer slots. -/
  | statClose (q : Nat)
  /-- SET_LIMITS (R515): SET_LIMITS with OP SET applies a clock limit and power limit atomically. -/
  | setLimits (q : Nat)
  /-- SARKING_ENTER (R518): SET_LIMITS with OP SARKING_ENTER enters Sarking mode with cause HOST. -/
  | sarkingEnter (q : Nat)
  /-- SARKING_EXIT (R519): SET_LIMITS with OP SARKING_EXIT leaves Sarking mode when every recorded cause allows it. -/
  | sarkingExit (q : Nat)
  /-- SELFTEST (R540): Command that runs a SCAN, PATROL, LINK or FULL test on one unit. -/
  | selftest (q : Nat) (found : List Nat)
  /-- CALIBRATE (R542): Command that recalibrates thermal or voltage monitors or retrains one stack's PHY. -/
  | calibrate (q : Nat) (lanes : Nat) (worst : Nat)
  /-- BAY_CONFIG (R384): BAY_CONFIG with OP SET applies ranges, grants, weight, limits and quotas to a bay as one change. -/
  | bayConfig (q : Nat)
  /-- BAY_RESET (R385): BAY_CONFIG with OP RESET resets a bay to its ranges, grants and limits. -/
  | bayReset (q : Nat)
  /-- GRANT_BASE (R386): BAY_CONFIG with OP GRANT_BASE maps a bay 0 sheaf region read-only into another bay. -/
  | grantBase (q : Nat)
  /-- REVOKE_BASE (R386): BAY_CONFIG with OP REVOKE_BASE removes a base grant and its pin. -/
  | revokeBase (q : Nat)
  /-- QUEUE_CREATE (R372): Command that creates an SQ or CQ of the bay. -/
  | queueCreate (q : Nat)
  /-- QUEUE_DELETE (R372): Command that deletes an SQ or CQ and aborts the SQ's unstarted commands. -/
  | queueDelete (q : Nat)
  /-- FW_COMMIT (R504): Command that schedules a rise of the module's protocol floor at COMMIT_TIME. -/
  | fwCommit (q : Nat)
  /-- FW_RELAY (R499): Collective part that carries a staged Gable image into other modules' staging windows by chains. -/
  | fwRelay (q : Nat)
  /-- PACKET_READ (R362): The command processor reads one packet from an SQ and applies the header checks. -/
  | packetRead (q : Nat)
  /-- COMMAND_START (R374): A read command starts, or a deferred one is accepted, once the previous command of its SQ allows it. -/
  | commandStart (q : Nat)
  /-- REQUEST_ACTIVATE (R338): The next accepted deferred request of a sequence becomes active. -/
  | requestActivate (b : Nat) (seg : Nat)
  /-- COMPLETION_WRITE (R364): A completion entry is written to its CQ ring once the CQ has room. -/
  | completionWrite (c : Nat)
  /-- SQ_HEAD_WRITE (R369): The Bylliroth writes an SQ's head to its head address. -/
  | sqHeadWrite (q : Nat)
  /-- CQ_COALESCE_TIMER (R372): COAL_US expires after the first unsignalled entry and the CQ's vector is signalled. -/
  | cqCoalesceTimer (c : Nat)
  /-- EVQ_COALESCE_TIMER (R388): The event queue's 10 us coalescing window ends and vector 0 is signalled. -/
  | evqCoalesceTimer (b : Nat)
  /-- SQ_TAIL_WRITE (R368): A doorbell write with TAIL_VALID sets an SQ's tail, or is rejected and counted. -/
  | sqTailWrite (b : Nat) (q : Nat) (v : Nat) (wide : Bool)
  /-- CQ_HEAD_WRITE (R370): A doorbell write with HEAD_VALID marks CQ slots as read. -/
  | cqHeadWrite (b : Nat) (q : Nat) (v : Nat)
  /-- EVQ_HEAD_WRITE (R388): A write to BAY_EVQ_HEAD marks event entries as read. -/
  | evqHeadWrite (b : Nat) (h : Nat)
  /-- ADMIN_ENABLE (R399): Setting BAY_ADMIN_CTRL.ENABLE starts the admin pair at head 0, tail 0 and PHASE 1. -/
  | adminEnable (b : Nat) (v : Nat)
  /-- ADMIN_DISABLE (R399): Clearing BAY_ADMIN_CTRL.ENABLE deletes the admin SQ and disables the admin CQ. -/
  | adminDisable (b : Nat) (v : Nat)
  /-- EVQ_ENABLE (R399): Setting BAY_EVQ_CTRL.ENABLE starts the event queue at entry 0 with PHASE 1. -/
  | evqEnable (b : Nat) (v : Nat)
  /-- EVQ_DISABLE (R390): Clearing BAY_EVQ_CTRL.ENABLE stops event writes, so later events are lost. -/
  | evqDisable (b : Nat) (v : Nat)
  /-- QUEUE_INSPECT (R397): A write to QUEUE_INSPECT_SEL loads the selected queue's state into QUEUE_INSPECT_STS. -/
  | queueInspect (v : Nat)
  /-- TRAP_CLEAR (R62): Writing BAY_TRAP_CTRL.CLEAR clears the bay's NaN trap. -/
  | trapClear (b : Nat)
  /-- NUMSTAT_ENABLE (R68): ENABLE going from 0 to 1 allocates and initialises the bay's statistics table. -/
  | numstatEnable (b : Nat) (v : Nat)
  /-- NUMSTAT_DISABLE (R68): ENABLE going from 1 to 0 discards the statistics table and returns its memory. -/
  | numstatDisable (b : Nat) (v : Nat)
  /-- PFSTAT_RESET (R189): Writing PFSTAT_CTRL.RESET zeroes the bay's prefetch counters. -/
  | pfstatReset (b : Nat)
  /-- ARRAY_REQ_JOINED (R109): A bay 0 write of THATCH_ARRAY_CTRL.REQ 1 requests the JOINED configuration. -/
  | arrayReqJoined
  /-- ARRAY_REQ_SPLIT (R109): A bay 0 write of THATCH_ARRAY_CTRL.REQ 2 requests the SPLIT configuration. -/
  | arrayReqSplit
  /-- ARRAY_SWITCH_START (R110): A pending configuration switch starts once neither engine runs an operation. -/
  | arraySwitchStart
  /-- ARRAY_SWITCH_END (R110): A configuration switch ends after its path check, and operations are admitted again. -/
  | arraySwitchEnd (failed : Option Nat)
  /-- PEER_ADD (R430): REEDLINE_PEER_OP ADD enters a remote peer in the peer table. -/
  | peerAdd (v : Nat)
  /-- PEER_REMOVE (R430): REEDLINE_PEER_OP REMOVE removes a peer with PEER_LEAVE reason REMOVED. -/
  | peerRemove (v : Nat)
  /-- ROUTE_WRITE (R434): A write to REEDLINE_ROUTE_DATA sets the selected destination's route entry. -/
  | routeWrite (v : Nat)
  /-- PORT_RETRAIN (R424): Writing REEDLINE_PORT_CTRL.RETRAIN retrains a Reedline port. -/
  | portRetrain (p : Nat) (v : Nat)
  /-- CONN_ALLOC (R439): ETH_CONN_CTRL ALLOC takes a FREE connection handle to INIT and assigns its QPN. -/
  | connAlloc (v : Nat)
  /-- CONN_CONNECT (R439): ETH_CONN_CTRL CONNECT takes a connection to RTS. -/
  | connConnect (v : Nat)
  /-- CONN_DESTROY (R439): ETH_CONN_CTRL DESTROY returns a connection to FREE. -/
  | connDestroy (v : Nat)
  /-- PURLIN_SET (R441): A write to PURLIN_SET sets the master's Purlin time before READY. -/
  | purlinSet (v : Nat)
  /-- HOLD_GO (R447): Writing PURLIN_HOLD_CTRL.GO sends a HOLD frame to the LIVE peers. -/
  | holdGo (v : Nat)
  /-- HOLD_RELEASE (R447): Writing PURLIN_HOLD_CTRL.RELEASE sets END of the last HOLD_ID. -/
  | holdRelease (v : Nat)
  /-- TRIP_CLEAR (R514): Writing POWER_TRIP_CTRL.CLEAR clears a thermal trip when temperatures allow. -/
  | tripClear (v : Nat)
  /-- HOST_LINK_RETRAIN (R482): Writing HOSTIF_LINK_CTRL.RETRAIN retrains the PCIe host link. -/
  | hostLinkRetrain (v : Nat)
  /-- STAGE_WRITE (R487): A host write to the firmware staging window stores bytes and clears BRING_STAGE_STS.VALID. -/
  | stageWrite (off : Nat) (n : Nat) (data : Nat)
  /-- BAR4_READ (R462): A host read through BAR4 of a byte of bay 0's virtual space. -/
  | bar4Read (off : Nat) (n : Nat)
  /-- BAR4_WRITE (R462): A host write through BAR4 to a byte of bay 0's virtual space. -/
  | bar4Write (off : Nat) (n : Nat) (v : Nat)
  /-- UNSUPPORTED_REQUEST (R456): A host request that matches no BAR or breaks R6 is answered as Unsupported Request. -/
  | unsupportedRequest
  /-- REGISTER_WRITE (R9): A write to a register field that has no row of its own, by the register type rules. -/
  | registerWrite (fn : Nat) (off : Nat) (size : Nat) (v : Nat)
  /-- REGISTER_READ_CLEAR (R9): A read of an RC register returns its value and clears it. -/
  | registerReadClear (fn : Nat) (off : Nat)
  /-- REGISTER_LOW_HALF_READ (R7): A 32-bit read of a 64-bit register's low half latches its upper half. -/
  | registerLowHalfRead (fn : Nat) (off : Nat)
  /-- LOAD_GABLE (R488): Bring-up step that validates the staged image and starts the Gable code. -/
  | loadGable
  /-- IDENTIFY (R475): Bring-up step that regenerates the PUF key and verifies the chain and variant record. -/
  | identify
  /-- DIE_TEST (R492): Bring-up step that self-tests every die and base die and lists defects. -/
  | dieTest
  /-- FLASHING (R493): Bring-up step that builds the flashing map and programs it into every NI. -/
  | flashing
  /-- MEM_TRAIN (R488): Bring-up step that trains the HBM4 PHY of every stack. -/
  | memTrain
  /-- MEM_INIT (R494): Bring-up step that zeroes every granule and every Loft slice. -/
  | memInit
  /-- BRING_CALIBRATE (R488): Bring-up step CALIBRATE that calibrates sensors, monitors and clocks and starts the governor. -/
  | bringCalibrate
  /-- PEG_LOAD (R495): Bring-up step that broadcasts peg microcode to every site. -/
  | pegLoad
  /-- FABRIC (R488): Bring-up step that draws an INCARNATION and trains the Reedline ports. -/
  | fabric
  /-- ETHERNET (R488): Bring-up step that brings up Ethernet and the NVMe root ports and forms the stripe set. -/
  | ethernet
  /-- LIMITS (R489): Bring-up step that sets the host clock and power caps. -/
  | limits
  /-- OPEN (R497): Bring-up step that joins the array, sets READY and lifts early-service limits. -/
  | openStep
  /-- RELOAD (R501): BRING_CMD RELOAD replaces the running firmware while keeping HBM contents. -/
  | reload
  /-- BRING_STEP_DONE (R488): A running bring-up step finishes its work and becomes DONE. -/
  | bringStepDone (c : Nat) (w : StepWork)
  /-- BRING_STEP_FAILED (R490): A bring-up step cannot finish or exceeds its bound and ends FAILED. -/
  | bringStepFailed (c : Nat) (code : Nat)
  /-- STACK_READY (R494): A stack's MEM_INIT fill ends and its ready flag sets. -/
  | stackReady (k : Nat)
  /-- PEG_ACK (R495): A site acknowledges its microcode with a matching SHA-256. -/
  | pegAck (stack : Bool) (n : Nat)
  /-- RELOAD_END (R501): The stacks retrain after reload, queues resume and RELOADING clears. -/
  | reloadEnd
  /-- RELOAD_TIMEOUT (R503): A reload fails or self-refresh exceeds 8 s; HBM is lost and READY clears. -/
  | reloadTimeout (failed : Bool)
  /-- FLOOR_RISE (R436): At COMMIT_TIME the module raises its FLOOR and drops peers below it. -/
  | floorRise (q : Nat)
  /-- PWR_EN_HIGH (R478): PWR_EN rises and power conversion starts. -/
  | pwrEnHigh
  /-- RAILS_GOOD (R478): Rails reach regulation, PGOOD is released, SLOT_ID is sampled and the boot ROM starts. -/
  | railsGood (slot : Nat)
  /-- PWR_EN_LOW (R479): PWR_EN falls; clocks stop, PGOOD falls and all contents are lost. -/
  | pwrEnLow
  /-- PERST_ASSERT (R479): PERST_N low resets every die and base die and clears READY. -/
  | perstAssert
  /-- PERST_RELEASE (R453): PERST_N rises and the boot ROM trains the host link and answers configuration. -/
  | perstRelease (speed : Nat) (width : Nat)
  /-- VF_FLR (R458): A Function Level Reset of a VF acts as RESET of its bay. -/
  | vfFlr (b : Nat)
  /-- VF_DISABLE (R458): Clearing VF Enable acts as RESET of bays 1 to 15. -/
  | vfDisable
  /-- HOST_LINK_DOWN (R457): The host data link goes down while PERST_N is high. -/
  | hostLinkDown
  /-- HOST_LOSS (R538): The host link stays down 1 ms; HOST_LOSS sets and host-memory queues stop. -/
  | hostLoss
  /-- HOST_CPL_TIMEOUT (R456): A host completion fails to arrive within HOSTIF_CPL_TIMEOUT_US and the access is uncorrectable. -/
  | hostCplTimeout (q : Nat)
  /-- SUPPLY_OVERVOLTAGE (R508): The input rises above 60 V and power conversion stops. -/
  | supplyOvervoltage (mv : Nat)
  /-- POWER_HOLD_ENTER (R509): The input falls below 46 V and the engines' clocks are gated. -/
  | powerHoldEnter (mv : Nat)
  /-- SUPPLY_RELEASE (R510): The input rises above 47.5 V and the resume count starts or restarts. -/
  | supplyRelease (mv : Nat)
  /-- POWER_HOLD_RESUME (R510): The input stays above 47.5 V for 2 ms and the engines resume. -/
  | powerHoldResume
  /-- POWER_HOLD_TIMEOUT (R510): Power hold lasts over 500 ms and the module enters Sarking mode with cause HOLD_LONG. -/
  | powerHoldTimeout
  /-- SUPPLY_RESET (R508): The input falls below 42 V; PGOOD falls and every die resets. -/
  | supplyReset (mv : Nat)
  /-- GOVERNOR_SAMPLE (R511): A 10 us power sample; the governor lowers the clock if power exceeds the ceiling and updates the apex windows. -/
  | governorSample (mv : Nat) (da : Nat) (w : Nat)
  /-- GOVERNOR_RAISE (R511): Power stays below 98 % of the ceiling for 100 us and the clock rises one step. -/
  | governorRaise
  /-- ELEC_WINDOW_USED (R512): 20 ms above H in the trailing 100 ms is used and the apex ceiling becomes H. -/
  | elecWindowUsed
  /-- APEX_EXHAUSTED (R512): The thermal credit reaches zero and the ceiling becomes S. -/
  | apexExhausted
  /-- THERMAL_SAMPLE (R513): A 1 ms temperature sample drives throttling and trips. -/
  | thermalSample (junction : Nat) (stack : Nat) (inlet : Nat) (sensor : Nat)
  /-- INLET_TRIP_TIMER (R514): The coolant inlet stays above 45 C for 10 s and trips. -/
  | inletTripTimer
  /-- HOLD_PIN_ASSERT (R445): HOLD_IN_N sampled low: the module enters pin hold and drives HOLD_ACK_N low. -/
  | holdPinAssert
  /-- HOLD_PIN_RELEASE (R445): HOLD_IN_N sampled high: the module releases HOLD_ACK_N and leaves pin hold. -/
  | holdPinRelease
  /-- PPS_EDGE (R441): A rising edge of PURLIN_PPS is recorded and, on the master, slewed to. -/
  | ppsEdge
  /-- HOLD_FRAME_RX (R447): A HOLD frame arrives, is forwarded once and scheduled, or counted late. -/
  | holdFrameRx (h : FrameHdr) (id : Nat) (origin : Nat) (scope : Nat) (domain : Nat) (start : Nat) (stop : Nat) (release : Bool)
  /-- FABRIC_HOLD_START (R447): A fabric hold's START beat arrives and the module is held. -/
  | fabricHoldStart (id : Nat)
  /-- FABRIC_HOLD_END (R448): A fabric hold's END beat arrives and the module is released if nothing else holds it. -/
  | fabricHoldEnd (id : Nat)
  /-- FLIT_RX (R424): A Reedline flit arrives; CRC, sequence, acknowledgement and credits are processed, or replay is asked. -/
  | flitRx (p : Nat) (flit : Nat) (corr : Nat) (uncorr : Nat) (nack : Bool)
  /-- PORT_DOWN (R424): A Reedline port goes DOWN and its destinations are rerouted. -/
  | portDown (p : Nat)
  /-- PORT_UP (R424): A Reedline port finishes training, comes UP and starts sending DISCOVER. -/
  | portUp (p : Nat) (rtt : Nat)
  /-- DISCOVER_RESEND (R429): DISCOVER is repeated every 10 us until the partner's arrives. -/
  | discoverResend (p : Nat)
  /-- DISCOVER_RX (R429): A DISCOVER frame arrives and the link is accepted or REFUSED. -/
  | discoverRx (p : Nat) (frame : Nat) (viaSwitch : Bool)
  /-- HEARTBEAT_TIMER (R431): Every 10 us a HEARTBEAT is sent to every LIVE peer. -/
  | heartbeatTimer
  /-- HEARTBEAT_RX (R431): A HEARTBEAT arrives and keeps or makes a peer LIVE. -/
  | heartbeatRx (port : Nat) (frame : Nat)
  /-- PEER_LOSS_TIMEOUT (R431): 30 us pass with no frame from a peer, which is declared LOST. -/
  | peerLossTimeout (dev : Nat)
  /-- LOSS_NOTICE_RX (R431): A LOSS notice arrives and declares a LIVE peer LOST, forwarded once. -/
  | lossNoticeRx (h : FrameHdr) (dev : Nat) (inc : Nat)
  /-- E2E_ACK_RX (R427): An end-to-end acknowledgement of a frame arrives. -/
  | e2eAckRx (h : FrameHdr) (vc : Nat) (seq : Nat)
  /-- FRAME_RESEND_TIMEOUT (R427): A frame is unacknowledged after 50 us and is resent, or fails after 4 sends. -/
  | frameResendTimeout (dst : Nat) (vc : Nat) (seq : Nat)
  /-- PEER_REQUEST_RX (R414): A peer memory request arrives and is served from T1. -/
  | peerRequestRx (h : FrameHdr) (tag : Nat) (op : Nat) (bay : Nat) (obj : Nat) (key : Nat) (off : Nat) (len : Nat) (data : Nat)
  /-- PEER_RESPONSE_RX (R414): A peer memory response arrives for a T2 access. -/
  | peerResponseRx (h : FrameHdr) (obj : Nat) (off : Nat) (len : Nat) (data : Nat) (err : Bool)
  /-- TIME_REQ_TIMER (R442): Every 125 us a follower sends TIME_REQ to its parent. -/
  | timeReqTimer (t1 : Nat)
  /-- TIME_REQ_RX (R442): A parent receives TIME_REQ and answers with TIME_RESP. -/
  | timeReqRx (h : FrameHdr) (t2 : Nat) (t3 : Nat) (corr : Int)
  /-- TIME_RESP_RX (R442): A follower receives TIME_RESP, computes its offset and slews or steps. -/
  | timeRespRx (h : FrameHdr) (t2 : Nat) (t3 : Nat) (t4 : Nat) (cReq : Int) (cResp : Int)
  /-- PURLIN_HOLDOVER (R443): No time exchange succeeds for 1 ms and the follower enters HOLDOVER. -/
  | purlinHoldover
  /-- READY_REPORT_RX (R307): The coordinator receives a ready or fail report of an agreement. -/
  | readyReportRx (h : FrameHdr) (b : Nat) (tag : Nat) (m : AgreeReport)
  /-- AGREEMENT_CUTOFF (R307): The cutoff passes without all ready reports and the coordinator decides abort. -/
  | agreementCutoff (q : Nat)
  /-- DECISION_RX (R307): A part receives an agreement decision and forwards it to its children. -/
  | decisionRx (h : FrameHdr) (b : Nat) (tag : Nat) (commit : Bool) (status : Nat)
  /-- SWITCH_ACT (R308): At the switch beat a committed action applies: sheaf becomes CURRENT or the array request is made. -/
  | switchAct (q : Nat)
  /-- DECISION_TIMEOUT (R309): A part holds no decision at SWITCH_TIME plus guard and completes PEER_LOST or DEADLINE_MISSED. -/
  | decisionTimeout (q : Nat)
  /-- PART_REPORT_RX (R290): A collective part receives a failure or success report from another participant. -/
  | partReportRx (h : FrameHdr) (b : Nat) (tag : Nat) (rank : Nat) (status : Nat)
  /-- CHAIN_CHUNK_RX (R318): A chain member receives a chunk, checks its CRC, stores and forwards it. -/
  | chainChunkRx (h : FrameHdr) (b : Nat) (tag : Nat) (chain : Nat) (k : Nat) (len : Nat) (data : Nat) (crc : Nat) (pieceCrc : Nat)
  /-- CHAIN_RESEND_REQUEST (R319): A member asks its predecessor for a chunk again after a mismatch. -/
  | chainResendRequest (h : FrameHdr) (b : Nat) (tag : Nat) (chain : Nat) (k : Nat)
  /-- ROCE_READ_RESPONSE (R321): RDMA READ data arrives from network storage for a chain head. -/
  | roceReadResponse (c : Nat) (b : Nat) (tag : Nat) (chain : Nat) (len : Nat) (data : Nat)
  /-- CONN_ERROR (R439): A connection exhausts its retries or gets a fatal NAK and moves to ERROR. -/
  | connError (c : Nat) (syndrome : Nat)
  /-- RING_PARTIAL_RX (R279): A second-course partial sum arrives and the member adds its own value. -/
  | ringPartialRx (h : FrameHdr) (b : Nat) (tag : Nat) (r : Nat) (seg : Nat) (t : Nat) (data : Nat) (final : Bool)
  /-- REDUCE_FORM_RX (R283): An owner receives a third-course form and combines it in domain order. -/
  | reduceFormRx (h : FrameHdr) (b : Nat) (tag : Nat) (r : Nat) (seg : Nat) (t : Nat) (dom : Nat) (data : Nat)
  /-- FIRST_COURSE_PASS (R273): A first-course pass of BF16 values reaches a die on the ring or the accumulator's stack. -/
  | firstCoursePass (n : Nat)
  /-- THATCH_OP_START (R121): A Thatch operation starts, reads its group table and runs its start checks. -/
  | thatchOpStart (q : Nat) (i : Nat)
  /-- THATCH_PASS_END (R122): A pass's block drains through the store path or to the reduction, advancing drain counters. -/
  | thatchPassEnd (q : Nat) (i : Nat) (n : Nat) (parity : Option (Nat × Nat))
  /-- KERNEL_ENTRY_END (R549): A KERNEL entry ends or fails; the KERNEL completes once all have ended. -/
  | kernelEntryEnd (q : Nat) (i : Nat)
  /-- PROGRAM (R141): Lath operation that runs a compiled program image over its instances. -/
  | program (q : Nat) (i : Nat)
  /-- SOFTMAX (R147): Lath operation that computes a scaled softmax of each row. -/
  | softmax (q : Nat) (i : Nat)
  /-- SOFTMAX_BWD (R147): Lath operation that computes the softmax gradient of each row. -/
  | softmaxBwd (q : Nat) (i : Nat)
  /-- RMSNORM (R148): Lath operation that RMS-normalises each row. -/
  | rmsnorm (q : Nat) (i : Nat)
  /-- RMSNORM_BWD (R148): Lath operation that computes the RMS normalisation gradients. -/
  | rmsnormBwd (q : Nat) (i : Nat)
  /-- LAYERNORM (R148): Lath operation that layer-normalises each row. -/
  | layernorm (q : Nat) (i : Nat)
  /-- LAYERNORM_BWD (R148): Lath operation that computes the layer normalisation gradients. -/
  | layernormBwd (q : Nat) (i : Nat)
  /-- TOPK (R139): Lath operation that selects the K largest values of each row. -/
  | topk (q : Nat) (i : Nat)
  /-- SAMPLE (R150): Lath operation that samples one token per sequence table entry. -/
  | sample (q : Nat) (i : Nat)
  /-- ACCEPT (R151): Lath operation that runs the speculative acceptance test per entry. -/
  | accept (q : Nat) (i : Nat)
  /-- OPTIM (R154): Lath operation that updates masters and moments of a shard in place. -/
  | optim (q : Nat) (i : Nat)
  /-- SCALE_GRAD (R157): Lath operation that computes learned-scale gradients per block. -/
  | scaleGrad (q : Nat) (i : Nat)
  /-- COPY_DESC_START (R178): A copy descriptor of a KERNEL starts once its wait counter allows. -/
  | copyDescStart (q : Nat) (i : Nat)
  /-- STREAM_FETCH (R181): A STREAM fetches the next chunk when the consumer counter and distance allow. -/
  | streamFetch (q : Nat) (i : Nat)
  /-- STREAM_CHUNK_LANDED (R184): A fetched stream chunk lands; lateness and adaptive distance are updated. -/
  | streamChunkLanded (q : Nat) (i : Nat) (n : Nat)
  /-- PF_DROP_SUMMARY (R185): At the end of a summary interval with uncounted drops, the drop summary event is raised. -/
  | pfDropSummary (b : Nat)
  /-- GEMV (R213): Eave operation that computes a product of a few rows against W held on the stacks. -/
  | gemv (q : Nat) (i : Nat)
  /-- ATTEND (R219): Eave operation that computes decode attention partials for a list of work items. -/
  | attend (q : Nat) (i : Nat)
  /-- EAVE_READ (R195): A READ request for one granule, from an NI over the Batten network, or arriving at an Eave unit. -/
  | eaveRead (k : Nat) (g : Nat) (src : Requester) (bay : Option Nat) (own : Bool)
  /-- EAVE_WRITE (R193): A masked WRITE request for one granule, as for EAVE_READ. -/
  | eaveWrite (k : Nat) (g : Nat) (mask : Nat) (data : Nat) (src : Requester) (bay : Option Nat) (own : Bool)
  /-- EAVE_ADD32 (R193): An ADD32 request to add sixteen FP32 addends to a granule, as for EAVE_READ. -/
  | eaveAdd32 (k : Nat) (g : Nat) (mask : Nat) (data : Nat) (src : Requester) (bay : Option Nat) (own : Bool)
  /-- EAVE_WINDOW_LEAVE (R196): A request leaves the window with its row mates and takes a slot, an overflow entry or returns. -/
  | eaveWindowLeave (k : Nat)
  /-- EAVE_BANK_ISSUE (R198): A bank that can accept a command issues the next access or refresh by priority. -/
  | eaveBankIssue (k : Nat) (bank : Nat)
  /-- EAVE_ACCESS_DONE (R196): An access finishes and frees its slot, which the overflow head takes. -/
  | eaveAccessDone (k : Nat) (bank : Nat) (corr : Bool)
  /-- HOT_BANK (R201): A bank's overflow list stays above THRESH for 10 us and the bank becomes hot. -/
  | hotBank (k : Nat) (bank : Nat)
  /-- REFRESH_DUE (R221): A bank's refresh interval expires and a refresh becomes due. -/
  | refreshDue (k : Nat) (bank : Nat)
  /-- SCRUB_TIMER (R223): Patrol scrub issues its next granule read within the scrub period. -/
  | scrubTimer (k : Nat)
  /-- SCHED_PICK (R392): At a unit boundary or idle slot the scheduler chooses the next Thatch unit. -/
  | schedPick (slot : Nat)
  /-- STEP_BUILD (R345): A serving step begins: the builder chooses the sheaf, sequences and rows and takes pins. -/
  | stepBuild (q : Nat)
  /-- DEADLINE_CHECK (R352): Before drafting and each main layer the deadline monitor masks sequences whose keys passed. -/
  | deadlineCheck (q : Nat)
  /-- FALLBACK_PHASE (R353): Masked sequences with fallback get one token from the fallback sheaf. -/
  | fallbackPhase (q : Nat)
  /-- STEP_COMMIT (R343): A step commits: COMMITTED advances, records and PRODUCED are written and counters update. -/
  | stepCommit (q : Nat)
  /-- SPEC_REJECT_SUMMARY (R351): At the end of an interval in which rejections grew, the summary event is raised. -/
  | specRejectSummary (b : Nat)
  /-- TILE_LANDED (R406): A placement tile's last byte lands and the tile changes home. -/
  | tileLanded (q : Nat) (k : Nat) (err : Bool)
  /-- UNDERLAY_CUT (R524): At the cut beat the module is held for the cut window. -/
  | underlayCut (q : Nat)
  /-- UNDERLAY_PROTECT (R524): Once earlier writes land, every page of every UNDERLAY object is protected. -/
  | underlayProtect (q : Nat)
  /-- UNDERLAY_SEAL (R526): The writer seals the next page by reading it into the flash write path. -/
  | underlaySeal (b : Nat)
  /-- FIRST_TOUCH_COPY (R527): A write to a protected unsealed page copies the page to the staging pool. -/
  | firstTouchCopy (b : Nat) (obj : Nat) (off : Nat)
  /-- UNDERLAY_PAGE_STORED (R522): A page's flash write completes; the set becomes COMPLETE when all are stored. -/
  | underlayPageStored (b : Nat) (obj : Nat) (page : Nat) (ok : Bool)
  /-- NVME_COMPLETION (R466): A polled NVMe completion arrives for an outstanding command. -/
  | nvmeCompletion (port : Nat) (id : Nat) (status : Nat)
  /-- NVME_TIMEOUT (R468): An NVMe command exceeds NVME_TIMEOUT_MS and is aborted. -/
  | nvmeTimeout (port : Nat) (id : Nat)
  /-- NVME_RESET_TIMEOUT (R468): An aborted NVMe command is still outstanding after 1 s and the controller is reset. -/
  | nvmeResetTimeout (port : Nat) (id : Nat)
  /-- NVME_SMART_REFRESH (R484): Every 60 s the SMART log values are refreshed. -/
  | nvmeSmartRefresh (port : Nat) (pct : Nat) (units : Nat)
  /-- GABLE_CHECK (R394): Every 10 us each Gable die checks the other. -/
  | gableCheck (die : Nat) (ok : Bool)
  /-- GABLE_TAKEOVER (R394): After five missed checks the survivor takes over every queue. -/
  | gableTakeover
  /-- BATTEN_MODULE_FAULT (R20): Lane faults exceed a UCIe module's spares; the link drops the module or fails. -/
  | battenModuleFault (die : Nat) (link : Nat) (working : Nat)
  /-- DEFERRED_SELFTEST (R541): A deferred FULL test runs when the next TURN completes on the module. -/
  | deferredSelftest (q : Nat) (found : List Nat)
  /-- SENSOR_REFRESH (R472): PLDM sensor readings are refreshed every 10 ms or faster. -/
  | sensorRefresh (readings : List Nat)
  /-- SET_ENDPOINT_ID (R469): MCTP control command that assigns the endpoint's EID on a binding. -/
  | setEndpointId (i3c : Bool) (eid : Nat)
  /-- GET_ENDPOINT_ID (R469): MCTP control command that returns the endpoint's EID. -/
  | getEndpointId (i3c : Bool)
  /-- GET_MCTP_VERSION_SUPPORT (R469): MCTP control command that returns supported versions. -/
  | getMctpVersionSupport (i3c : Bool) (ty : Nat)
  /-- GET_MESSAGE_TYPE_SUPPORT (R469): MCTP control command that returns supported message types. -/
  | getMessageTypeSupport (i3c : Bool)
  /-- GET_ENDPOINT_UUID (R469): MCTP control command that returns the endpoint UUID. -/
  | getEndpointUuid (i3c : Bool)
  /-- GET_VERSION (R471): SPDM request that returns the supported version 1.2. -/
  | getVersion (i3c : Bool)
  /-- GET_CAPABILITIES (R471): SPDM request that returns the responder's capabilities. -/
  | getCapabilities (i3c : Bool)
  /-- NEGOTIATE_ALGORITHMS (R471): SPDM request that negotiates P-256 and SHA-256. -/
  | negotiateAlgorithms (i3c : Bool) (asym : Nat) (hash : Nat)
  /-- GET_DIGESTS (R471): SPDM request that returns certificate chain digests. -/
  | getDigests (i3c : Bool)
  /-- GET_CERTIFICATE (R471): SPDM request that returns the certificate chain of slot 0. -/
  | getCertificate (i3c : Bool) (slot : Nat) (off : Nat) (len : Nat)
  /-- CHALLENGE (R471): SPDM request answered with a response signed by the PUF-derived key. -/
  | challenge (i3c : Bool) (slot : Nat) (nonce : Nat)
  /-- GET_MEASUREMENTS (R471): SPDM request that returns the measurements of Table 16-7. -/
  | getMeasurements (i3c : Bool) (index : Nat) (sign : Bool) (nonce : Nat)
  /-- GET_PDR_REPOSITORY_INFO (R472): PLDM request that returns PDR repository information. -/
  | getPdrRepositoryInfo (i3c : Bool)
  /-- GET_PDR (R472): PLDM request that returns a platform descriptor record. -/
  | getPdr (i3c : Bool) (handle : Nat)
  /-- GET_SENSOR_READING (R472): PLDM request that returns a numeric sensor reading. -/
  | getSensorReading (i3c : Bool) (id : Nat)
  /-- GET_STATE_SENSOR_READINGS (R472): PLDM request that returns the module state sensor. -/
  | getStateSensorReadings (i3c : Bool) (id : Nat)
  /-- ENTDAA (R470): I3C broadcast by which the module takes a dynamic address. -/
  | entdaa (addr : Nat)
  /-- BYPASS (R476): JTAG instruction that selects the bypass register. -/
  | bypass
  /-- IDCODE (R476): JTAG instruction that selects the IDCODE register. -/
  | idcode
  /-- SAMPLE_PRELOAD (R476): JTAG instruction that samples or preloads the sideband boundary register. -/
  | samplePreload (bits : Nat)
  /-- EXTEST (R476): JTAG instruction that drives sideband pins, acting as BYPASS while READY. -/
  | extest
  /-- CLAMP (R476): JTAG instruction that clamps the sideband pins, acting as BYPASS while READY. -/
  | clamp
  /-- HIGHZ (R476): JTAG instruction that floats the sideband pins, acting as BYPASS while READY. -/
  | highz
  /-- COLLECTIVE_BLOCK_RX (R292): An ALLGATHER or ALLTOALL block arrives at a participant and is written to its destination and, for ALLGATHER, forwarded along the ring. -/
  | collectiveBlockRx (h : FrameHdr) (b : Nat) (tag : Nat) (src : Nat) (len : Nat) (data : Nat)
  /-- PART_DEADLINE_PASSED (R287): The header deadline of a collective part that waits for its peers passes and the part completes DEADLINE_MISSED. -/
  | partDeadlinePassed (q : Nat)
  /-- MIRROR_PAGE_RX (R527): A page, record update or restore read of a mirrored underlay set arrives at the mirror rank, which stores or serves it. -/
  | mirrorPageRx (h : FrameHdr) (b : Nat) (rank : Nat) (id : Nat) (m : MirrorMsg)
  /-- COPY_UNIT_DONE (R179): A LINEAR or STRIDED copy work unit is fully written and the copy's DONE counter advances, ending the copy after its last unit. -/
  | copyUnitDone (q : Nat) (i : Nat) (n : Nat)
  /-- ROCE_PACKET_RX (R438): A RoCEv2 congestion notification or inbound request packet arrives; the injection rate is reduced or a remote access NAK is returned. -/
  | rocePacketRx (e : Nat) (c : Nat) (psn : Nat) (cnp : Bool)
  /-- SSD_DMA_REQUEST (R465): An SSD issues a DMA request on an NVMe root port, admitted into an outstanding command's buffer or answered as Unsupported Request and counted. -/
  | ssdDmaRequest (port : Nat) (inBuffer : Bool)
  /-- HOST_LINK_UP (R457): The host data link returns after going down, within 1 ms with no effect beyond the retrain, or after host loss. -/
  | hostLinkUp (speed : Nat) (width : Nat)
  /-- ETH_LINK_CHANGE (R451): An Ethernet port's link goes up or down, updating ETH_PORT_STS.LINK and FASCIA_PORTS. -/
  | ethLinkChange (e : Nat) (up : Bool)
  /-- LANE_BLOCK_LOCK (R423): A Reedline lane gains or loses block lock and the port runs at k/8 of its rate while it keeps 4 to 8 lanes. -/
  | laneBlockLock (p : Nat) (lane : Nat) (lock : Bool)
  /-- RAIL_FAILURE (R477): An internal rail leaves regulation and PGOOD is driven low within 10 us. -/
  | railFailure
  /-- GABLE_LOSS (R491): GD0 loses command processing while GD1 is out of service, and the module enters Sarking mode with cause GABLE_LOSS. -/
  | gableLoss
  /-- HOST_COMPLETION_RX (R456): A completion for a module read of host memory arrives; a poisoned or error completion makes the access uncorrectable. -/
  | hostCompletionRx (q : Nat) (bytes : Nat) (bad : Bool)
  /-- D3HOT_TRANSITION (R454): A function moves between D0 and D3hot; in D3hot it does not respond on its BARs, and D0 restores them. -/
  | d3hotTransition (fn : Nat) (d3 : Bool)
  /-- RESIZABLE_BAR_WRITE (R454): The host resizes BAR4 of the PF, and HOSTIF_BAR4_SIZE follows. -/
  | resizableBarWrite (log2 : Nat)
  deriving DecidableEq, Repr

end Sys2Proof
end

