-- ==== Sys2Proof/Decode.lean ====
section
/-!
DEFINITION. Decode.lean: the command that a word of the operation and event table spells. No row of the table gives bits
(spec/opcode_table.json), so no word spells a command.
Where the spec is silent or is read by inference: DESIGN CHOICE log 1 (notes/assumptions).
-/
namespace Sys2Proof

/-- The command spelled by an `nbits`-bit word: none, for the table gives no row any bits. -/
def decodeTableWord (_nbits _w : Nat) : Option Instr := none

end Sys2Proof
end

