-- ==== Sys2Proof/Machine/Bits.lean ====
section
/-!
DEFINITION. Machine/Bits.lean: bit fields and little-endian structures.
Every structure of the spec (packets, descriptors, entries, frames) is little-endian (00_scope.md R5)
and is read here as one number whose bit `8 * byte + bit` is that bit of that byte.
-/
namespace Sys2Proof.Machine

/-- Bits `lo + w - 1` down to `lo` of `n`. -/
def fld (n lo w : Nat) : Nat := n / 2 ^ lo % 2 ^ w

/-- `n` with its bits `lo + w - 1` down to `lo` replaced by the low `w` bits of `v`. -/
def setFld (n lo w v : Nat) : Nat := n - fld n lo w * 2 ^ lo + v % 2 ^ w * 2 ^ lo

/-- Bit `i` of `n`. -/
def bitAt (n i : Nat) : Bool := n / 2 ^ i % 2 == 1

/-- The `k` bytes from byte `b` of a little-endian structure (R5). -/
def bytesAt (n b k : Nat) : Nat := fld n (8 * b) (8 * k)

/-- `true` when every bit of the `bits`-bit structure `n` outside the listed (position, width) fields
is zero: the reserved-field check of R8 and R545. -/
def onlyFields (n bits : Nat) (used : List (Nat × Nat)) : Bool :=
  used.foldl (fun m f => setFld m f.1 f.2 0) (n % 2 ^ bits) == 0

/-- The first `k` bytes of `n`, least significant first (R5). -/
def toLe : Nat → Nat → List Byte
  | 0, _ => []
  | k + 1, n => BitVec.ofNat 8 n :: toLe k (n / 256)

/-- The number that little-endian bytes spell (R5). -/
def ofLe : List Byte → Nat
  | [] => 0
  | b :: r => b.toNat + 256 * ofLe r

/-- A structure built from (position, width, value) fields, all other bits zero. -/
def mkFields (fs : List (Nat × Nat × Nat)) : Nat :=
  fs.foldl (fun n f => setFld n f.1 f.2.1 f.2.2) 0

/-- The number of set bits among the low `w` bits. -/
def popCount : Nat → Nat → Nat
  | 0, _ => 0
  | w + 1, n => n % 2 + popCount w (n / 2)

/-- A signed field of `w` bits as an integer. -/
def signed (w n : Nat) : Int := if n % 2 ^ w < 2 ^ (w - 1) then (n % 2 ^ w : Nat) else (n % 2 ^ w : Nat) - 2 ^ w

/-- An integer as a two's complement field of `w` bits. -/
def unsigned (w : Nat) (i : Int) : Nat := (i % 2 ^ w).toNat

/-- `lo ≤ n ≤ hi`, the spec's "inclusive" ranges. -/
def inRange (lo hi n : Nat) : Bool := lo ≤ n && n ≤ hi

/-- `2^k` divides `n`. -/
def aligned (n k : Nat) : Bool := n % 2 ^ k == 0

/-- Does `[a, a + n)` meet `[b, b + m)`? -/
def overlap (a n b m : Nat) : Bool := decide (a < b + m) && decide (b < a + n) && n != 0 && m != 0

end Sys2Proof.Machine
end

