-- ==== Sys2Proof/Machine/Sparse.lean ====
section
/-!
DEFINITION. Machine/Sparse.lean: sparse data by key, in one canonical form: keys strictly rising and
no entry equal to what an unlisted key reads as. Memories, register files, the event counters and the
contexts by number are all held so; equal contents are equal lists.
-/
namespace Sys2Proof.Machine

/-- Entries (key, value), keys strictly rising. -/
abbrev SMap (α : Type) := List (Nat × α)

/-- The entry of a key, if it is listed. -/
def smFind {α : Type} : SMap α → Nat → Option α
  | [], _ => none
  | (k, v) :: r, a => if a = k then some v else smFind r a

/-- The value a key reads as: its entry, or `d` where it is not listed. -/
def smGet {α : Type} (d : α) (m : SMap α) (a : Nat) : α := (smFind m a).getD d

/-- Remove a key. -/
def smDel {α : Type} (m : SMap α) (a : Nat) : SMap α := m.filter fun e => e.1 != a

/-- Insert or replace a key's entry, keeping the keys rising. -/
def smPut {α : Type} : SMap α → Nat → α → SMap α
  | [], a, x => [(a, x)]
  | (k, v) :: r, a, x =>
    if a < k then (a, x) :: (k, v) :: r else if a = k then (a, x) :: r else (k, v) :: smPut r a x

/-- Write a key: the value an unlisted key reads as removes the entry, any other is listed. -/
def smSet {α : Type} [DecidableEq α] (d : α) (m : SMap α) (a : Nat) (x : α) : SMap α :=
  if x = d then smDel m a else smPut m a x

/-- Every key of `m` lies above `a`. -/
def smAbove {α : Type} (a : Nat) : SMap α → Bool
  | [] => true
  | (k, _) :: _ => decide (a < k)

/-- The canonical form: keys strictly rising, no entry equal to the unlisted value `d`. -/
def smWf {α : Type} [DecidableEq α] (d : α) : SMap α → Bool
  | [] => true
  | (k, v) :: r => smAbove k r && decide (v ≠ d) && smWf d r

/-- Keys strictly rising (the form of a table that has no unlisted value). -/
def smSorted {α : Type} : SMap α → Bool
  | [] => true
  | (k, _) :: r => smAbove k r && smSorted r

/-- Apply `f` to the entry of a key, if it is listed. -/
def smMod {α : Type} (m : SMap α) (a : Nat) (f : α → α) : SMap α :=
  match smFind m a with
  | none => m
  | some x => smPut m a (f x)

/-- Replace the `i`-th member of a list (unchanged where there is none). -/
def modAt {α : Type} : List α → Nat → (α → α) → List α
  | [], _, _ => []
  | x :: r, 0, f => f x :: r
  | x :: r, n + 1, f => x :: modAt r n f

/-- The numbers `a, a+1, …, a+n-1`. -/
def upFrom (a : Nat) : Nat → List Nat
  | 0 => []
  | n + 1 => a :: upFrom (a + 1) n

/-- The sum of a list. -/
def sumN (l : List Nat) : Nat := l.foldl (· + ·) 0

/-- Insert into an ordered list, after equal members. -/
def insertBy {α : Type} (le : α → α → Bool) (x : α) : List α → List α
  | [] => [x]
  | y :: r => if le y x then y :: insertBy le x r else x :: y :: r

/-- A list in order; equal members keep theirs. -/
def sortBy {α : Type} (le : α → α → Bool) (l : List α) : List α := l.foldl (fun acc x => insertBy le x acc) []

end Sys2Proof.Machine
end

