-- ==== Sys2Proof/Machine/Fp.lean ====
section
/-!
DEFINITION. Machine/Fp.lean: the floating-point formats of 02_number_formats.md (R31 to R33), their
exact values, the roundings of R51 and the FP32 and FP64 arithmetic the engines use: every operation
is computed exactly on integers and rounded once.
-/
namespace Sys2Proof.Machine

/-- The formats of Table 2-1, and FP64, in which statistics are summed (R71). -/
inductive Fmt where
  | fp32 | bf16 | fp16 | e4m3 | e5m2 | e3m2 | e2m3 | e2m1 | ue4m3 | e8m0 | fp64
  deriving DecidableEq, Repr

/-- Mantissa bits (Table 2-1). -/
def Fmt.mbits : Fmt → Nat
  | .fp32 => 23 | .bf16 => 7 | .fp16 => 10 | .e4m3 => 3 | .e5m2 => 2 | .e3m2 => 2
  | .e2m3 => 3 | .e2m1 => 1 | .ue4m3 => 3 | .e8m0 => 0 | .fp64 => 52

/-- Exponent bias (Table 2-1). -/
def Fmt.bias : Fmt → Nat
  | .fp32 => 127 | .bf16 => 127 | .fp16 => 15 | .e4m3 => 7 | .e5m2 => 15 | .e3m2 => 3
  | .e2m3 => 1 | .e2m1 => 1 | .ue4m3 => 7 | .e8m0 => 127 | .fp64 => 1023

/-- Storage bits of a code (Table 2-1). -/
def Fmt.bits : Fmt → Nat
  | .fp32 => 32 | .bf16 => 16 | .fp16 => 16 | .e4m3 => 8 | .e5m2 => 8 | .e3m2 => 6
  | .e2m3 => 6 | .e2m1 => 4 | .ue4m3 => 8 | .e8m0 => 8 | .fp64 => 64

/-- The sign bit's weight: codes at or above it are negative. -/
def Fmt.signBit (f : Fmt) : Nat := 2 ^ (f.bits - 1)

/-- Does the format have infinity (Table 2-1)? -/
def Fmt.hasInf : Fmt → Bool
  | .fp32 | .bf16 | .fp16 | .e5m2 | .fp64 => true
  | _ => false

/-- The magnitude code of the largest finite value (Table 2-2). -/
def Fmt.maxCode : Fmt → Nat
  | .fp32 => 0x7F7FFFFF | .bf16 => 0x7F7F | .fp16 => 0x7BFF | .e4m3 => 0x7E | .e5m2 => 0x7B
  | .e3m2 => 0x1F | .e2m3 => 0x1F | .e2m1 => 0x7 | .ue4m3 => 0x7E | .e8m0 => 0xFE
  | .fp64 => 0x7FEFFFFFFFFFFFFF

/-- The NaN the Bylliroth writes (R33, Table 2-2); `none` where the format has none. -/
def Fmt.nanCode : Fmt → Option Nat
  | .fp32 => some 0x7FC00000 | .bf16 => some 0x7FC0 | .fp16 => some 0x7E00 | .e4m3 => some 0x7F
  | .e5m2 => some 0x7E | .e8m0 => some 0xFF | .fp64 => some 0x7FF8000000000000 | _ => none

/-- Is the element format one of the wide three (FP32, BF16, FP16)? -/
def Fmt.wide : Fmt → Bool
  | .fp32 | .bf16 | .fp16 => true
  | _ => false

/-- The format of an ELEM_FMT code (Table 2-1); codes 0x8 to 0xF are reserved. -/
def Fmt.ofCode : Nat → Option Fmt
  | 0 => some .fp32 | 1 => some .bf16 | 2 => some .fp16 | 3 => some .e4m3 | 4 => some .e5m2
  | 5 => some .e3m2 | 6 => some .e2m3 | 7 => some .e2m1 | _ => none

/-- A value: NaN, an infinity, or `(-1)^neg * m * 2^e` exactly. -/
inductive Fv where
  | nan
  | inf (neg : Bool)
  | num (neg : Bool) (m : Nat) (e : Int)
  deriving DecidableEq, Repr

/-- The decoding of R32 and Table 2-2. UE4M3 codes 0x7F and 0x80 to 0xFF are invalid scales (R39) and
decode to NaN here; their users check them first. -/
def decode (f : Fmt) (c : Nat) : Fv :=
  match f with
  | .e8m0 => if c = 0xFF then .nan else .num false 1 ((c : Int) - 127)
  | .ue4m3 =>
    if c ≥ 0x7F then .nan
    else if c / 8 = 0 then .num false (c % 8) (-9)
    else .num false (8 + c % 8) ((c / 8 : Nat) - 10)
  | _ =>
    let neg := decide (f.signBit ≤ c)
    let mag := c % f.signBit
    if mag > f.maxCode then
      if f.hasInf && mag == f.maxCode + 1 then .inf neg else .nan
    else
      let ex := mag / 2 ^ f.mbits
      let man := mag % 2 ^ f.mbits
      if ex = 0 then .num neg man (1 - (f.bias : Int) - f.mbits)
      else .num neg (2 ^ f.mbits + man) ((ex : Int) - f.bias - f.mbits)

/-- Is the code a NaN (or an invalid scale)? -/
def isNan (f : Fmt) (c : Nat) : Bool :=
  match decode f c with
  | .nan => true
  | _ => false

/-- Is the code a finite value? -/
def isFinite (f : Fmt) (c : Nat) : Bool :=
  match decode f c with
  | .num _ _ _ => true
  | _ => false

/-- Is the code a zero of either sign? -/
def isZero (f : Fmt) (c : Nat) : Bool := c % f.signBit == 0 && f != .e8m0

/-- Is the code a non-zero subnormal? -/
def isSubnormal (f : Fmt) (c : Nat) : Bool :=
  let mag := c % f.signBit
  mag != 0 && mag < 2 ^ f.mbits && f != .e8m0

/-- The rounding modes of R51; SR carries the 16-bit draw `r` of the generator (R104). -/
inductive Rnd where
  | rne | rtz | sr (r : Nat)
  deriving DecidableEq, Repr

/-- Numerator and denominator of `m / d * 2^e` as naturals. -/
def scaleFrac (m d : Nat) (e : Int) : Nat × Nat :=
  match e with
  | .ofNat k => (m * 2 ^ k, d)
  | .negSucc k => (m, d * 2 ^ (k + 1))

/-- floor(log2(n / d)) for positive `n` and `d`. -/
def log2Floor (n d : Nat) : Int :=
  let g : Int := (n.log2 : Int) - (d.log2 : Int)
  let (a, b) := scaleFrac n d (-g)
  if b ≤ a then g else g - 1

/-- The magnitude code that the positive rational `n / d` rounds to in `f`, with no upper bound: a code
above `f.maxCode` has overflowed (R51, R53). -/
def roundMag (f : Fmt) (r : Rnd) (n d : Nat) : Nat :=
  if n = 0 ∨ d = 0 then 0
  else
    let umin : Int := 1 - (f.bias : Int) - f.mbits
    let u : Int := max (log2Floor n d - f.mbits) umin
    let (a, b) := scaleFrac n d (-u)
    let q := a / b
    let rem := a % b
    let up : Bool := match r with
      | .rne => decide (b < 2 * rem) || (2 * rem == b && q % 2 == 1)
      | .rtz => false
      | .sr x => decide (x < rem * 65536 / b)
    (if up then q + 1 else q) + (u - umin).toNat * 2 ^ f.mbits

/-- The sign bit of a code. -/
def withSign (f : Fmt) (neg : Bool) (mag : Nat) : Nat := if neg then mag + f.signBit else mag

/-- The infinity of a format that has one (the code above the largest finite). -/
def infCode (f : Fmt) (neg : Bool) : Nat := withSign f neg (f.maxCode + 1)

/-- Encode a rational magnitude with sign in IEEE manner: overflow gives infinity. -/
def roundIeee (f : Fmt) (r : Rnd) (neg : Bool) (n d : Nat) : Nat :=
  withSign f neg (min (roundMag f r n d) (f.maxCode + 1))

/-- The canonical NaN of a format that has one. -/
def nanOf (f : Fmt) : Nat := f.nanCode.getD 0

/-- Round a value to `f` (one of FP32, BF16, FP16, E5M2, FP64) with RNE, overflow to infinity. -/
def encodeIeee (f : Fmt) (v : Fv) : Nat :=
  match v with
  | .nan => nanOf f
  | .inf s => infCode f s
  | .num s m e => let (a, b) := scaleFrac m 1 e; roundIeee f .rne s a b

/-- The exact product (IEEE special cases). -/
def Fv.mul : Fv → Fv → Fv
  | .nan, _ | _, .nan => .nan
  | .inf s, .inf t => .inf (s != t)
  | .inf s, .num t m _ => if m = 0 then .nan else .inf (s != t)
  | .num s m _, .inf t => if m = 0 then .nan else .inf (s != t)
  | .num s m e, .num t n g => .num (s != t) (m * n) (e + g)

/-- The exact sum (IEEE special cases, zero signs for round to nearest). -/
def Fv.add : Fv → Fv → Fv
  | .nan, _ | _, .nan => .nan
  | .inf s, .inf t => if s = t then .inf s else .nan
  | .inf s, _ => .inf s
  | _, .inf t => .inf t
  | .num s m e, .num t n g =>
    let k := min e g
    let a : Int := (if s then -1 else 1) * (m * 2 ^ (e - k).toNat : Nat)
    let b : Int := (if t then -1 else 1) * (n * 2 ^ (g - k).toNat : Nat)
    let c := a + b
    if c = 0 then .num (s && t) 0 k else .num (decide (c < 0)) c.natAbs k

/-- Negation. -/
def Fv.neg : Fv → Fv
  | .nan => .nan
  | .inf s => .inf (!s)
  | .num s m e => .num (!s) m e

/-- Magnitude. -/
def Fv.abs : Fv → Fv
  | .nan => .nan
  | .inf _ => .inf false
  | .num _ m e => .num false m e

/-- Three-way comparison of two values that are not NaN: -1, 0 or 1. -/
def Fv.cmp (x y : Fv) : Int :=
  match x, y with
  | .nan, _ | _, .nan => 0
  | .inf s, .inf t => if s = t then 0 else if s then -1 else 1
  | .inf s, _ => if s then -1 else 1
  | _, .inf t => if t then 1 else -1
  | .num s m e, .num t n g =>
    let k := min e g
    let a : Int := (if s then -1 else 1) * (m * 2 ^ (e - k).toNat : Nat)
    let b : Int := (if t then -1 else 1) * (n * 2 ^ (g - k).toNat : Nat)
    if a < b then -1 else if a = b then 0 else 1

/-- `x < y`, false for NaN. -/
def Fv.lt (x y : Fv) : Bool := x != .nan && y != .nan && x.cmp y == -1

/-- `x ≤ y`, false for NaN. -/
def Fv.le (x y : Fv) : Bool := x != .nan && y != .nan && x.cmp y != 1

/-- The value of an FP32 code. -/
def f32 (c : Nat) : Fv := decode .fp32 c

/-- FP32 rounding of R36: round to nearest even. -/
def fp32Rne (v : Fv) : Nat := encodeIeee .fp32 v

/-- FP32 addition, one rounding. -/
def f32Add (a b : Nat) : Nat := fp32Rne ((f32 a).add (f32 b))

/-- FP32 subtraction, one rounding. -/
def f32Sub (a b : Nat) : Nat := fp32Rne ((f32 a).add (f32 b).neg)

/-- FP32 multiplication, one rounding. -/
def f32Mul (a b : Nat) : Nat := fp32Rne ((f32 a).mul (f32 b))

/-- The quotient rounded to `f` with RNE, IEEE special cases. -/
def divIeee (f : Fmt) (x y : Fv) : Nat :=
  match x, y with
  | .nan, _ | _, .nan => nanOf f
  | .inf _, .inf _ => nanOf f
  | .inf s, .num t _ _ => infCode f (s != t)
  | .num s _ _, .inf t => withSign f (s != t) 0
  | .num s m e, .num t n g =>
    if n = 0 then (if m = 0 then nanOf f else infCode f (s != t))
    else let (a, b) := scaleFrac m n (e - g); roundIeee f .rne (s != t) a b

/-- FP32 division, one rounding. -/
def f32Div (a b : Nat) : Nat := divIeee .fp32 (f32 a) (f32 b)

/-- Integer square root by descending bits: the largest `r < 2^k` with `r * r ≤ n`, added to `acc`. -/
def isqrtFrom (n : Nat) : Nat → Nat → Nat
  | 0, acc => acc
  | k + 1, acc => let t := acc + 2 ^ k; isqrtFrom n k (if t * t ≤ n then t else acc)

/-- floor(sqrt(n)). -/
def isqrt (n : Nat) : Nat := isqrtFrom n (n.log2 / 2 + 1) 0

/-- Square root of the rational `n / d` (a power of two times a natural) rounded to `f` with RNE: the
square root to 2 × (mantissa + 3) extra bits with a sticky bit below. -/
def sqrtIeee (f : Fmt) (v : Fv) : Nat :=
  match v with
  | .nan => nanOf f
  | .inf s => if s then nanOf f else infCode f false
  | .num s m e =>
    if m = 0 then withSign f s 0
    else if s then nanOf f
    else
      let e0 : Int := if e % 2 = 0 then e else e - 1
      let m0 := if e % 2 = 0 then m else 2 * m
      let k := f.mbits + 3
      let big := m0 * 4 ^ k
      let r := isqrt big
      let r' := if r * r = big then 2 * r else 2 * r + 1
      let (a, b) := scaleFrac r' 1 (e0 / 2 - k - 1)
      roundIeee f .rne false a b

/-- The flush of R55 for one wide code: a zero of the same sign, and whether a non-zero value was replaced. -/
def flushCode (on : Bool) (f : Fmt) (c : Nat) : Nat × Bool :=
  if on && f.wide && isSubnormal f c then (withSign f (decide (f.signBit ≤ c)) 0, true) else (c, false)

/-- Is an FP32 code a positive, finite, normal number (R39's valid coarse scale)? -/
def posNormal32 (c : Nat) : Bool := 0x00800000 ≤ c && c ≤ 0x7F7FFFFF

/-- The FP32 code of a natural number, RNE. -/
def f32OfNat (n : Nat) : Nat := fp32Rne (.num false n 0)

/-- The FP32 code of an FP64 code, RNE. -/
def f32OfF64 (c : Nat) : Nat := fp32Rne (decode .fp64 c)

/-- FP64 addition, one rounding. -/
def f64Add (a b : Nat) : Nat := encodeIeee .fp64 ((decode .fp64 a).add (decode .fp64 b))

/-- The FP64 code of an FP32 code (exact). -/
def f64OfF32 (c : Nat) : Nat := encodeIeee .fp64 (f32 c)

end Sys2Proof.Machine
end

