-- ==== Sys2Proof/Machine/Formats.lean ====
section
/-!
DEFINITION. Machine/Formats.lean: format descriptors (02, R40, R41), two-level scales (R36 to R39), the
scale search (R43 to R46), the load path (R52, R39, R50) and the store path of Table 2-6 with the
measurements of 03 R74 and R77.
Where the spec is silent or is read by inference: DEDUCED logs 14, 38, 47, 76 (notes/assumptions).
-/
namespace Sys2Proof.Machine

/-- The scale modes of Table 2-4. -/
inductive ScaleMode where
  | none | mse | absmax | learned | mx
  deriving DecidableEq, Repr

/-- A mode that stores UE4M3 fine scales at SCALE_VA (R38). -/
def ScaleMode.fine : ScaleMode → Bool
  | .mse | .absmax | .learned => true
  | _ => false

/-- The code of a scale mode (Table 2-4, Table 3-1). -/
def ScaleMode.code : ScaleMode → Nat
  | .none => 0 | .mse => 1 | .absmax => 2 | .learned => 3 | .mx => 4

/-- The code of an element format (Table 2-1). -/
def Fmt.code : Fmt → Nat
  | .fp32 => 0 | .bf16 => 1 | .fp16 => 2 | .e4m3 => 3 | .e5m2 => 4 | .e3m2 => 5 | .e2m3 => 6 | .e2m1 => 7
  | .ue4m3 => 8 | .e8m0 => 9 | .fp64 => 10

/-- A format descriptor that passed Table 2-5 (R40). -/
structure FmtDesc where
  elem : Fmt
  mode : ScaleMode
  block : Nat
  round : Nat
  ovfIeee : Bool
  coarseSrc : Bool
  stats : Bool
  tensorId : Nat
  coarse : Nat
  rowLen : Nat
  sliceBlocks : Nat
  scaleVa : Nat
  coarseVa : Nat
  deriving DecidableEq, Repr

/-- The multiple that ROW_LEN must keep (R34). -/
def Fmt.rowMultiple : Fmt → Nat
  | .e2m1 => 2
  | .e3m2 | .e2m3 => 4
  | _ => 1

/-- Read and check the 40-byte format descriptor `n` (Tables 2-4 and 2-5). `src`: a source descriptor,
whose ROUND and OVF are ignored (R41). `none`: the command completes BAD_PARAM. -/
def parseFmt (src : Bool) (n0 : Nat) : Option FmtDesc :=
  let n := if src then setFld (setFld n0 14 2 0) 16 1 0 else n0
  match Fmt.ofCode (fld n 0 4) with
  | none => none
  | some f =>
    let modeCode := fld n 8 3
    let mode? : Option ScaleMode := match modeCode with
      | 0 => some .none | 1 => some .mse | 2 => some .absmax | 3 => some .learned | 4 => some .mx | _ => none
    match mode? with
    | none => none
    | some mode =>
      let blk := fld n 11 2
      let csrc := bitAt n 17
      let d : FmtDesc :=
        { elem := f, mode := mode, block := 16 * 2 ^ blk, round := fld n 14 2, ovfIeee := bitAt n 16,
          coarseSrc := csrc, stats := bitAt n 18, tensorId := bytesAt n 4 4, coarse := bytesAt n 8 4,
          rowLen := bytesAt n 12 4, sliceBlocks := bytesAt n 16 4, scaleVa := bytesAt n 24 8,
          coarseVa := bytesAt n 32 8 }
      let ok :=
        onlyFields n 320 [(0, 4), (8, 3), (11, 2), (14, 2), (16, 1), (17, 1), (18, 1), (32, 32), (64, 32),
          (96, 32), (128, 32), (192, 48), (256, 64)]
        && d.round != 3
        && (!d.ovfIeee || f.hasInf)                      -- R545: OVF only for formats that have infinity
        && (csrc || (d.sliceBlocks == 0 && d.coarseVa == 0))
        && (!csrc || d.coarse == 0)                      -- R545: COARSE when COARSE_SRC is 0
        && (!f.wide || mode == .none)
        && (mode != .mx || blk == 1)
        && inRange 1 16777216 d.rowLen && d.rowLen % f.rowMultiple == 0
        && (csrc || mode == .mx || posNormal32 d.coarse)
        && (!csrc || (d.sliceBlocks != 0 && d.coarseVa != 0))
        && (!mode.fine || d.scaleVa != 0)
      if ok then some d else none

/-- Blocks of a row (R35). -/
def FmtDesc.blocksPerRow (d : FmtDesc) : Nat := ceilDiv d.rowLen d.block

/-- Bytes of a row of elements (R34). -/
def FmtDesc.rowBytes (d : FmtDesc) : Nat := d.rowLen * d.elem.bits / 8

/-- Bytes of `n` elements packed as one bit stream (R34). -/
def elemBytes (f : Fmt) (n : Nat) : Nat := ceilDiv (n * f.bits) 8

/-- Bytes of the fine-scale array of `rows` rows (R35): one per block in the modes that store scales. -/
def FmtDesc.scaleBytes (d : FmtDesc) (rows : Nat) : Nat :=
  if d.mode.fine || d.mode == .mx then rows * d.blocksPerRow else 0

/-- Bytes of the slice table that covers `rows` rows (R36). -/
def FmtDesc.sliceBytes (d : FmtDesc) (rows : Nat) : Nat :=
  if d.coarseSrc then 4 * ceilDiv (rows * d.blocksPerRow) d.sliceBlocks else 0

/-- The codes of a packed bit stream (R34): the `k` codes of `w` bits from the number `n`. -/
def unpackCodes (w : Nat) : Nat → Nat → List Nat
  | 0, _ => []
  | k + 1, n => n % 2 ^ w :: unpackCodes w k (n / 2 ^ w)

/-- The packed bit stream of codes of `w` bits (R34). -/
def packCodes (w : Nat) : List Nat → Nat
  | [] => 0
  | c :: r => c % 2 ^ w + 2 ^ w * packCodes w r

/-- `l` cut into pieces of `n` members, the last one shorter; `fuel` bounds the pieces. -/
def chunksOf {α : Type} (n : Nat) : Nat → List α → List (List α)
  | 0, _ => []
  | _ + 1, [] => []
  | fuel + 1, l => l.take n :: chunksOf n fuel (l.drop n)

/-- Is a supplied fine-scale code invalid (R39)? -/
def badFine (k : Nat) : Bool := k ≥ 0x7F

/-- d = fp32_rne(value(k) * c) of R36 for a UE4M3 code `k` and an FP32 coarse scale `c`. -/
def scaleD (k c : Nat) : Nat := fp32Rne ((decode .ue4m3 k).mul (f32 c))

/-- The FP32 code of 2^(E - 127) (R36, MX mode); E = 0 is a subnormal. -/
def mxD (e : Nat) : Nat := fp32Rne (.num false 1 ((e : Int) - 127))

/-- The multiplicative Philox draw of R104: (round state) after one round. -/
def srRound (x0 x1 k0 k1 : Nat) : Nat × Nat :=
  let p := x0 * 0xD2511F53
  (Nat.xor (Nat.xor (p / 2 ^ 32) x1) k0, Nat.xor (p % 2 ^ 32) k1)

/-- The rounds of R104. -/
def srRounds : Nat → Nat → Nat → Nat → Nat → Nat
  | 0, x0, _, _, _ => x0 % 2 ^ 16
  | n + 1, x0, x1, k0, k1 =>
    let (y0, y1) := srRound x0 x1 k0 k1
    srRounds n y0 y1 ((k0 + 0x9E3779B9) % 2 ^ 32) ((k1 + 0xBB67AE85) % 2 ^ 32)

/-- sr_draw of R104. -/
def srDraw (step tensorId tile elem : Nat) : Nat :=
  srRounds 10 (tile % 2 ^ 32) (elem % 2 ^ 32) (step % 2 ^ 32) (tensorId % 2 ^ 32)

/-- The rounding mode of a descriptor for one element (R51). -/
def rndOf (round draw : Nat) : Rnd := if round = 0 then .rne else if round = 1 then .rtz else .sr draw

/-- Encode `x / d` for FP32 codes `x` and positive finite `d` (R52 to R54): the code, and whether it counts as a saturation. -/
def encodeElem (f : Fmt) (r : Rnd) (ieee : Bool) (x d : Nat) : Nat × Bool :=
  match f32 x, f32 d with
  | .nan, _ => (nanOf f, false)
  | .inf s, _ => if ieee && f.hasInf then (infCode f s, false) else (withSign f s f.maxCode, true)
  | .num s m e, .num _ n g =>
    let (a, b) := scaleFrac m n (e - g)
    let k := roundMag f r a b
    let sat : Bool := match decode f f.maxCode with
      | .num _ mm me => let (ma, mb) := scaleFrac mm 1 me; decide (ma * b < a * mb)
      | _ => false
    let code := if k > f.maxCode then (if ieee && f.hasInf then f.maxCode + 1 else f.maxCode) else k
    (withSign f s code, sat)
  | .num s _ _, _ => (withSign f s 0, false)

/-- The FP32 error term r of R43: fp32_rne(q * d - x). -/
def errTerm (f : Fmt) (q d x : Nat) : Nat := fp32Rne (((decode f q).mul (f32 d)).add (f32 x).neg)

/-- One step of the error sum of R43: e + r * r in FP32. -/
def errAdd (e r : Nat) : Nat := f32Add e (f32Mul r r)

/-- The largest finite magnitude among FP32 codes, as a code (0 if none is finite); R43's amax. -/
def amaxOf (x : List Nat) : Nat :=
  x.foldl (fun a c => if isFinite .fp32 c then max a (c % 2 ^ 31) else a) 0

/-- Every member is finite. -/
def allFinite (x : List Nat) : Bool := x.all (isFinite .fp32)

/-- A constant block (R46): all finite, equal and non-zero. -/
def constBlock (x : List Nat) : Bool :=
  match x with
  | [] => false
  | a :: r => allFinite x && r.all (· == a) && a % 2 ^ 31 != 0

/-- The smallest code k in `k..0x7E` with value(k) at least `n / d`, by ascending search (R43); 0x7E if none. -/
def leastScale (n d : Nat) : Nat → Nat → Nat
  | 0, k => min k 0x7E
  | fuel + 1, k =>
    match decode .ue4m3 k with
    | .num _ m e => let (a, b) := scaleFrac m 1 e
      if n * b ≤ a * d then k else leastScale n d fuel (k + 1)
    | _ => 0x7E

/-- The error of a candidate of R43 over the finite elements. -/
def candError (f : Fmt) (d : Nat) (x : List Nat) : Nat :=
  x.foldl (fun e c => if isFinite .fp32 c then errAdd e (errTerm f (encodeElem f .rne false c d).1 d c) else e) 0

/-- The loop over candidates of R43: (best, best error). -/
def bestScale (f : Fmt) (c : Nat) (x : List Nat) (cands : List Nat) : Nat :=
  (cands.foldl (fun (b : Nat × Nat) k =>
    let d := scaleD k c
    if !posNormal32 d then b
    else
      let e := candError f d x
      if (f32 e).le (f32 b.2) then (k, e) else b) (0x38, 0x7F800000)).1

/-- choose_fine_scale of R43 (MSE) and R44 (ABSMAX): the fine-scale code of a block. -/
def chooseScale (f : Fmt) (abs : Bool) (c : Nat) (x : List Nat) : Nat :=
  let amax := amaxOf x
  if amax = 0 then (if allFinite x then 0 else 0x38)
  else
    match f32 amax, decode f f.maxCode, f32 c with
    | .num _ m e, .num _ fm fe, .num _ cm ce =>
      let (n, d) := scaleFrac m (fm * cm) (e - fe - ce)
      let c0 := leastScale n d 126 1
      if abs then c0
      else if constBlock x then bestScale f c x (upFrom 1 126)
      else
        let lo := max 1 (c0 - 6)
        let hi := min 0x7E (c0 + 1)
        bestScale f c x (upFrom lo (hi + 1 - lo))
    | _, _, _ => 0x38

/-- The unbiased exponent of the largest normal of an MX element format (R49). -/
def mxEmax : Fmt → Int
  | .e4m3 => 8 | .e5m2 => 15 | .e3m2 => 4 | _ => 2

/-- The E8M0 code of a block on MX export (R49). -/
def mxScale (f : Fmt) (x : List Nat) : Nat :=
  let amax := amaxOf x
  if amax = 0 then 0x7F
  else match f32 amax with
    | .num _ m e => (max 0 (min 0xFE ((m.log2 : Int) + e - mxEmax f + 127))).toNat
    | _ => 0x7F

/-- The measurements of one store command for one record (R69, R74, R77, R78). FP64 and FP32 sums are codes.
`hist` counts elements by 0 (zero), 1 (not finite) or exponent + 200. -/
structure Contrib where
  tensorId : Nat := 0
  elemFmt : Nat := 0
  block : Nat := 0
  mode : Nat := 0
  elements : Nat := 0
  /-- The blocks' squared errors (FP64 codes), each with its place in the order of R71. -/
  errs : List (Nat × Nat) := []
  absmax : Nat := 0
  blocks : Nat := 0
  constBlocks : Nat := 0
  zeroBlocks : Nat := 0
  sats : Nat := 0
  written : Nat := 0
  hist : SMap Nat := []
  isConst : Bool := false
  flushed : Bool := false
  learned : Bool := false
  mixed : Bool := false
  optim : Bool := false
  step : Nat := 0
  sumW2 : Nat := 0
  sumDw2 : Nat := 0
  params : Nat := 0
  nonfinite : Bool := false
  deriving DecidableEq, Repr

/-- The histogram key of an FP32 input (R77), before HIST_BASE is known. -/
def histKey (x : Nat) : Nat :=
  match f32 x with
  | .num _ m e => if m = 0 then 0 else ((m.log2 : Int) + e + 200).toNat
  | _ => 1

/-- Place a block's error before the first of a later or equal place. -/
def insertErr (x : Nat × Nat) : List (Nat × Nat) → List (Nat × Nat)
  | [] => [x]
  | y :: r => if x.1 ≤ y.1 then x :: y :: r else y :: insertErr x r

/-- The squared error of a contribution: one block at a time in FP64, in ascending block index (R71). -/
def Contrib.sse (c : Contrib) : Nat := (c.errs.foldr insertErr []).foldl (fun s e => f64Add s e.2) 0

/-- A contribution with the same record's later one added (R69 to R71, R73 MIXED). -/
def Contrib.join (a b : Contrib) : Contrib :=
  { a with
    elemFmt := b.elemFmt, block := b.block, mode := b.mode
    elements := a.elements + b.elements
    errs := a.errs ++ b.errs
    absmax := max a.absmax b.absmax
    blocks := a.blocks + b.blocks
    constBlocks := a.constBlocks + b.constBlocks
    zeroBlocks := a.zeroBlocks + b.zeroBlocks
    sats := a.sats + b.sats
    written := a.written + b.written
    hist := b.hist.foldl (fun h kv => smPut h kv.1 (smGet 0 h kv.1 + kv.2)) a.hist
    isConst := a.isConst || b.isConst
    flushed := a.flushed || b.flushed
    learned := a.learned || b.learned
    mixed := a.mixed || b.mixed || decide (a.elemFmt ≠ b.elemFmt) || decide (a.block ≠ b.block)
    sumW2 := f64Add a.sumW2 b.sumW2
    sumDw2 := f64Add a.sumDw2 b.sumDw2
    params := a.params + b.params
    nonfinite := a.nonfinite || b.nonfinite }

/-- Add a contribution to a command's list: one per record and kind, and for the optimiser's sums per step. -/
def joinInto : List Contrib → Contrib → List Contrib
  | [], b => [b]
  | a :: r, b => if a.tensorId = b.tensorId ∧ a.optim = b.optim ∧ a.step = b.step then a.join b :: r else a :: joinInto r b

/-- What a numeric path reports beside its data: NaN items (SOURCE, TILE) in order (R547), whether a flush
replaced a non-zero value (R56), saturations (R53) and the contributions of tensors with STATS (R70). -/
structure Report where
  nans : List (Nat × Nat) := []
  flushed : Bool := false
  sats : Nat := 0
  contribs : List Contrib := []
  deriving DecidableEq, Repr

/-- One report after another. -/
def Report.join (a b : Report) : Report :=
  { nans := a.nans ++ b.nans, flushed := a.flushed || b.flushed, sats := a.sats + b.sats
    contribs := b.contribs.foldl joinInto a.contribs }

/-- What remains of a report where the data was not written: NaNs met and flushes made, no saturation and no statistics (03 R70). -/
def Report.unwritten (r : Report) : Report := { r with sats := 0, contribs := [] }

/-- One block through the load path (R39, R50, R52, R55): the FP32 codes and the report. `exact`: keep each
element as its exact value times the fine scale alone, rounded to nothing (used by the products, R98): then the
second result lists the values. -/
def loadBlock (d : FmtDesc) (flush : Bool) (c k bi : Nat) (codes : List Nat) : List Nat × Report :=
  let bad : Bool :=
    (d.mode != .mx && !posNormal32 c) || (d.mode.fine && k != 0 && badFine k) || (d.mode == .mx && k == 0xFF)
    || (d.mode.fine && k != 0 && !isFinite .fp32 (scaleD k c))
  if bad then (codes.map fun _ => nanOf .fp32, { nans := [(6, bi % 2 ^ 32)] })
  else if d.mode.fine && k == 0 then (codes.map fun _ => 0, {})
  else
    let dd := if d.mode == .mx then mxD k else if d.mode.fine then scaleD k c else c
    let one (q : Nat) : Nat × Bool :=
      let (q1, f1) := flushCode flush d.elem q
      let v := fp32Rne ((decode d.elem q1).mul (f32 dd))
      let (v2, f2) := flushCode flush .fp32 v
      (v2, f1 || f2)
    let rs := codes.map one
    (rs.map (·.1),
      { nans := if codes.any (isNan d.elem) then [(4, bi % 2 ^ 32)] else []
        flushed := rs.any (·.2) })

/-- The result of one block of a store: the fine-scale code, the element codes and the report. -/
structure BlockOut where
  fine : Nat
  codes : List Nat
  rep : Report
  deriving DecidableEq, Repr

/-- One block through the store path of Table 2-6 (R58). `x`: FP32 inputs with a mark on spar positions
(R84: they read as +0 here and take no part in the measurements, R74); `c`: the coarse scale; `k0`: the supplied
fine scale (LEARNED); `draws`: one SR draw per element; `bi`: the block's index. DEDUCED log 76: a supplied code 0x00 makes a zero block of
any data (R45 over R47), its elements fall in bin 0, and equal data make it a constant block too; an infinity in an MX block without other
non-zero elements is written as the largest magnitude and saturates (R53 over R49). -/
def storeBlock (d : FmtDesc) (flush : Bool) (c k0 bi : Nat) (draws : List Nat) (x0 : List (Nat × Bool)) : BlockOut :=
  let ins := x0.map fun e => if e.2 then (0, false) else flushCode flush .fp32 e.1        -- step 1
  let x := ins.map (·.1)
  let fl1 := ins.any (·.2)
  let measured := (x0.zip x).filterMap fun e => if e.1.2 then none else some e.2
  let nSpar := x0.length - measured.length
  let base : Contrib :=
    { tensorId := d.tensorId, elemFmt := d.elem.code, block := d.block, mode := d.mode.code, blocks := 1
      written := x.length - nSpar, flushed := fl1, learned := d.mode == .learned }
  let badOut (k : Nat) : BlockOut :=
    { fine := k, codes := x.map fun _ => 0
      rep := { nans := [(6, bi % 2 ^ 32)], flushed := fl1, contribs := if d.stats then [base] else [] } }
  if d.mode != .mx && !posNormal32 c then badOut (if d.mode == .learned then k0 else 0x7F)   -- step 3, R548
  else if d.mode == .learned && badFine k0 then badOut k0                              -- R45
  else
    let k := match d.mode with                                                         -- step 5
      | .mse => chooseScale d.elem false c x
      | .absmax => chooseScale d.elem true c x
      | .learned => k0
      | .mx => mxScale d.elem x
      | .none => 0
    let dd := if d.mode == .mx then mxD k else if d.mode.fine then scaleD k c else c
    if d.mode.fine && k != 0 && !isFinite .fp32 dd then badOut (if d.mode == .learned then k0 else 0x7F)
    else
      let zero := d.mode.fine && k == 0
      let allZero := allFinite x && amaxOf x == 0
      let cst := constBlock x                                                          -- step 4
      let plain0 := zero || (d.mode.fine && allZero) || (d.mode == .mx && allZero)
      let enc : List (Nat × Bool × Bool) :=                                            -- steps 6 and 7
        (x.zip draws).map fun e =>
          if plain0 then (0, false, false)
          else if d.mode == .mx && isZero .fp32 e.1 && amaxOf x == 0 then (0, false, false)
          else
            let (q, s) := encodeElem d.elem (rndOf d.round e.2) (d.ovfIeee && d.mode != .mx) e.1 dd
            let (q2, f2) := flushCode flush d.elem q
            (q2, s, f2)
      let enc' := (enc.zip x0).map fun e => if e.2.2 then (0, false, false) else e.1
      let codes := enc'.map (·.1)
      let sats := (enc'.filter (·.2.1)).length
      let fl2 := enc'.any (·.2.2)
      let err := if zero then 0 else
        ((codes.zip x).zip x0).foldl (fun e q =>
          if isFinite .fp32 q.1.2 && !q.2.2 then errAdd e (errTerm d.elem q.1.1 dd q.1.2) else e) 0
      let con : Contrib :=
        { base with
          elements := (measured.filter (isFinite .fp32)).length, errs := [(bi, f64OfF32 err)]
          absmax := amaxOf measured, constBlocks := if cst then 1 else 0, zeroBlocks := if zero then 1 else 0
          sats := sats, isConst := cst, flushed := fl1 || fl2
          hist := measured.foldl (fun h v => let key := if zero then 0 else histKey v
            smPut h key (smGet 0 h key + 1)) [] }
      { fine := k, codes := codes
        rep := { flushed := fl1 || fl2, sats := sats, contribs := if d.stats then [con] else [] } }

/-- Load blocks in order: `(codes, fine scale, coarse scale)` per block, indices from `bi`. -/
def loadBlocks (d : FmtDesc) (flush : Bool) : Nat → List (List Nat × Nat × Nat) → List Nat × Report
  | _, [] => ([], {})
  | bi, b :: r =>
    let (v, rep) := loadBlock d flush b.2.2 b.2.1 bi b.1
    let (vs, reps) := loadBlocks d flush (bi + 1) r
    (v ++ vs, rep.join reps)

/-- One block's inputs to `storeBlocks`. -/
structure BlockIn where
  x : List (Nat × Bool)
  fine : Nat
  coarse : Nat
  draws : List Nat
  deriving DecidableEq, Repr

/-- Store blocks in order, indices from `bi`: the fine scales, the codes and the report. -/
def storeBlocks (d : FmtDesc) (flush : Bool) : Nat → List BlockIn → List Nat × List Nat × Report
  | _, [] => ([], [], {})
  | bi, b :: r =>
    let o := storeBlock d flush b.coarse b.fine bi b.draws b.x
    let (ks, cs, rep) := storeBlocks d flush (bi + 1) r
    (o.fine :: ks, o.codes ++ cs, o.rep.join rep)

end Sys2Proof.Machine
end

