-- ==== Sys2Proof/Machine/LathIns.lean ====
section
/-!
DEFINITION. Machine/LathIns.lean: the instructions of a Lath core (05 Table 5-2, R131 to R139). The spec gives their classes and what
they compute, and leaves their encoding to the protocol level (R141): `Config.instruction` decodes a program image.
Where the spec is silent or is read by inference: DESIGN CHOICE log 18 (notes/assumptions).
-/
namespace Sys2Proof.Machine

/-- What a lane holds (Table 5-1). -/
inductive LaneTy where
  | fp32 | bf16 | fp16 | int32 | int16 | int8
  deriving DecidableEq, Repr

/-- Bytes of a lane. -/
def LaneTy.bytes : LaneTy → Nat
  | .fp32 | .int32 => 4 | .bf16 | .fp16 | .int16 => 2 | .int8 => 1

/-- The floating-point format of a lane, for integer lanes that of the same class of registers is not used. -/
def LaneTy.fmt? : LaneTy → Option Fmt
  | .fp32 => some .fp32 | .bf16 => some .bf16 | .fp16 => some .fp16 | _ => none

/-- Floating-point arithmetic; fma takes a third operand. -/
inductive ArithOp where
  | fma | add | sub | mul | min | max
  deriving DecidableEq, Repr

/-- Integer arithmetic, logic and shifts. -/
inductive IntOp where
  | add | sub | and | or | xor | shl | shr | sar
  deriving DecidableEq, Repr

/-- Relations of compare. -/
inductive Rel where
  | eq | ne | lt | le
  deriving DecidableEq, Repr

/-- The special functions (R136). -/
inductive SfuOp where
  | exp2 | log2 | rcp | rsqrt
  deriving DecidableEq, Repr

/-- The lane reductions (R135). -/
inductive RedOp where
  | sum | max | min
  deriving DecidableEq, Repr

/-- An instruction. Registers are named by number: `d` a destination, `a`, `b`, `c` sources, `k` the governing mask, `s` a scalar. -/
inductive Ins where
  /-- d[i] = op a[i] b[i] (c[i]) in a floating-point lane type. -/
  | arith (op : ArithOp) (ty : LaneTy) (d a b c k : Nat)
  /-- d[i] = op a[i] b[i], modulo 2 to the power of the lane width. -/
  | int (op : IntOp) (ty : LaneTy) (d a b k : Nat)
  /-- Mask d, lane i: a[i] rel b[i]; integer lanes signed or unsigned. -/
  | compare (rel : Rel) (ty : LaneTy) (signed : Bool) (d a b k : Nat)
  /-- d[i] = a[i] where mask `c` is set, else b[i]. -/
  | select (ty : LaneTy) (d a b c k : Nat)
  /-- d[i] = a[i] converted: FP32 to and from BF16, FP16 and INT32. -/
  | convert (src dst : LaneTy) (d a k : Nat)
  /-- Decode the codes in eight-bit lanes into the 128 FP32 lanes; byte j of S[s] is the fine scale of block j. -/
  | decode (f : FmtDesc) (d a s k : Nat)
  /-- Encode the 128 FP32 lanes into eight-bit lanes; byte j of S[s] is the fine scale of block j, supplied or written. -/
  | encode (f : FmtDesc) (d a s k : Nat)
  /-- d[i] = fn a[i]. -/
  | special (fn : SfuOp) (d a k : Nat)
  /-- S[s] = the reduction of the FP32 lanes of a. -/
  | reduce (op : RedOp) (s a : Nat)
  /-- R137, the count to S[s]. -/
  | compress (ty : LaneTy) (d a k s : Nat)
  /-- R138. -/
  | expand (ty : LaneTy) (d a k : Nat)
  /-- d[i] = a[x[i] mod lanes]. -/
  | permute (ty : LaneTy) (d a x k : Nat)
  /-- The `n` first active FP32 lanes of a in the order of R139: values to d, lane numbers to x, from lane 0 on, +0 beyond. -/
  | choose (n d x a k : Nat)
  /-- Load lanes from the Loft address in S[s]. -/
  | load (ty : LaneTy) (d s k : Nat)
  /-- Store lanes to the Loft address in S[s]. -/
  | store (ty : LaneTy) (a s k : Nat)
  /-- S[d] = v. -/
  | scalarImm (d v : Nat)
  /-- S[d] = op S[a] S[b], modulo 2^64. -/
  | scalarInt (op : IntOp) (d a b : Nat)
  /-- S[d] = op S[a] S[b] in FP32 or FP64. -/
  | scalarFp (op : ArithOp) (wide : Bool) (d a b : Nat)
  /-- Go to instruction `to` where S[s] is not zero. -/
  | branch (s dest : Nat)
  /-- The instance ends. -/
  | halt
  /-- Not an instruction (R142). -/
  | illegal
  deriving DecidableEq, Repr, Inhabited

end Sys2Proof.Machine
end

