-- ==== Sys2Proof/Config.lean ====
section
/-!
DEFINITION. Config.lean: what the spec leaves to the implementation or says nothing about, as constants with no
body: nothing can be proved of their values, so every claim holds for all of them.
Where the spec is silent or is read by inference: DESIGN CHOICE logs 4, 11, 16, 18, 21, 23, 33, 45, 56, 73; DEDUCED logs 20, 55 (notes/assumptions).
-/
namespace Sys2Proof

/-- A byte that the spec calls unspecified, by the free-value counter and the byte's index (06 R173, R177; 02 Table 2-10;
18 R518). -/
opaque Config.freeByte : Nat → Nat → Byte

/-- A number the spec leaves open, by the free-value counter. -/
opaque Config.freeNat : Nat → Nat

/-- Which of the FP32 values within one ulp a special function (1 exp2, 2 log2, 3 rsqrt) returns for an input (05 R136,
Table 5-3). -/
opaque Config.sfu : Nat → Nat → Nat

/-- The copy engine, among those of DIES in ascending order, to which a work unit of a copy is dealt (06 R169), by the copy and the unit. -/
opaque Config.dealUnit : Nat → Nat → Nat

/-- The buffers beyond the first that a die has for a traffic class of the Batten network (01 R15), by the class's number. -/
opaque Config.battenCredits : Nat → Nat

/-- The device address of a slot of a bay's statistics table (03 R67): the bay, 1 for a layer slot, the slot. -/
opaque Config.statSlot : Nat → Nat → Nat → Nat

/-- The instruction at a place of a program image (05 R141): the protocol level fixes the encoding, the spec does not state it. -/
opaque Config.instruction : List Byte → Nat → Machine.Ins

/-- Instructions of a program instance that its operation runs, by image and instance: more than the instance needs where it ends. -/
opaque Config.programSteps : List Byte → Nat → Nat

/-- The result of a shift by the lane width or more (05 Table 5-2), by the shift's number, the width and the operands. -/
opaque Config.wideShift : Nat → Nat → Nat → Nat → Nat

/-- What the conversion of an FP32 value to INT32 gives where the value has no such integer. -/
opaque Config.intOf : Nat → Nat

/-- The Lath core, among those of DIES in ascending order, to which a row, segment, entry or instance of an operation is dealt (05 R153),
by the operation and the item. -/
opaque Config.dealLath : Nat → Nat → Nat

/-- The element that a row with a NaN in its distribution is decided for (05 R150 states none), by the distribution and the draw. -/
opaque Config.sampleNan : List Nat → Nat → Nat

/-- Whether the pages of an ATTEND operation of a KERNEL hold E2M1 values, by its descriptor: the descriptor (07 Table 7-4) has
no field for the V_FMT of 08 Table 8-2, and the spec names none for a KERNEL. -/
opaque Config.attendE2m1 : Nat → Bool

/-- A row of a pass of a model (12 R343, R350), as far as the pass has got: the bytes of the sheaf's region and of its base's, the addition, the
flush flag, the row's token and position, and, layer after layer, the FP32 outputs of its attention by query head. The products of a model's
layers are the sheaf's and not in the spec. -/
structure RowIn where
  weights : List Byte
  addition : Nat
  flush : Bool
  token : Nat
  pos : Nat
  outs : List (List (List Nat))

/-- What the products of a row's next layer give its attention: the query of a query head, in BF16 where the row decodes and FP32 where it
prefills, and the key (true: the value) of a KV head, in FP32. -/
opaque Config.query : RowIn → Nat → Bool → List Nat
opaque Config.kvRow : RowIn → Nat → Bool → List Nat

/-- The logits of a row after its last layer, in FP32 codes. -/
opaque Config.logits : RowIn → List Nat

/-- GROUP, the query heads per KV head of a sheaf (08 R243), less 1 and modulo 16: the manifest has no field for it. -/
opaque Config.group : List Byte → Nat

/-- The products of a layer of a sheaf (the layer after the last: its logits); whether a row is a batch row of a product; the TILEs of the NaNs
that the row's part of the product makes; those that its part of the layer's Lath work makes; and whether the row flushes a non-zero value. -/
opaque Config.products : List Byte → Nat → Nat
opaque Config.rowTakes : RowIn → Nat → Bool
opaque Config.productNans : RowIn → Nat → List Nat
opaque Config.lathNans : RowIn → List Nat
opaque Config.rowFlush : RowIn → Bool

/-- The identity EEPROM as the factory wrote it, by offset (16 Table 16-9). -/
opaque Config.eeprom : Nat → Byte

/-- The public key of the key that GD0 regenerates from its PUF, as (x, y) (16 R475). -/
opaque Config.pufKey : Nat × Nat

/-- Whether a certificate chain in DER verifies to a root hash (16 R474). X.509 and ECDSA are not the spec's. -/
opaque Config.chainVerifies : List Byte → Nat → Bool

/-- The subject key and the serial number of the device certificate of a chain. -/
opaque Config.chainKey : List Byte → Nat × Nat
opaque Config.chainSerial : List Byte → Nat

/-- Whether a signature of the variant record verifies, by the chain, the SHA-256 signed and the signature (16 R474). -/
opaque Config.recordVerifies : List Byte → Nat → List Byte → Bool

/-- Whether a signature of a Gable image verifies under the Stoset firmware key, by the SHA-256 signed and the signature (17 R486). -/
opaque Config.imageVerifies : Nat → List Byte → Bool

/-- A signature by the PUF-derived key over a message (16 R471), by the free-value counter: ECDSA draws a nonce. -/
opaque Config.sign : Nat → List Nat → Nat

/-- SHA-256 of the FD0 boot ROM (16 Table 16-7). -/
opaque Config.romHash : Nat

/-- STEPPING of the silicon (16 Table 16-13) and Stoset's JEDEC manufacturer code (16 R476), MIPI manufacturer ID and PCI vendor ID. -/
opaque Config.stepping : Nat
opaque Config.jedec : Nat
opaque Config.mipi : Nat

/-- The endpoint's UUID (16 R469) and the bytes of its platform descriptor records by record handle (16 R472). -/
opaque Config.uuid : Nat
opaque Config.pdr : Nat → List Byte
opaque Config.pdrInfo : List Nat

/-- The MCTP versions of a message type (16 R469): the standards' revisions are not in the spec. -/
opaque Config.mctpVersions : Nat → List Nat

/-- The severity of an error record (19 Table 19-8), by its kind: the spec gives none for most kinds. -/
opaque Config.severity : Nat → Nat

end Sys2Proof
end

