-- ==== Sys2Proof/Machine/Regs.lean ====
section
/-!
DEFINITION. Machine/Regs.lean: the registers of BAR0, from the register tables of the chapters
(2-7, 3-6, 4-9, 5-8, 6-6, 7-10, 12-7, 13-13, 13-14, 14-10, 15-5 to 15-7, 16-13 to 16-16, 17-9, 17-10, 18-6,
19-10): each register's place, width, fields, types (Table 0-5), resets and stated ranges. Fields the tables
mark reserved are not listed: they read as zero and writes to them are ignored (R8).
Where the spec is silent or is read by inference: DESIGN CHOICE log 10 (notes/assumptions).
-/
namespace Sys2Proof.Machine

/-- The register types of Table 0-5. -/
inductive RTy where
  | ro | rw | rw1c | wo | rc | rwl
  deriving DecidableEq, Repr

/-- A field: place, width, type, reset, the stated ranges (none listed: every value), and the power of two
(as its exponent) of which the description makes the value a multiple. -/
structure RField where
  lo : Nat
  w : Nat
  ty : RTy
  reset : Nat := 0
  ok : List (Nat × Nat) := []
  al : Nat := 0
  deriving DecidableEq, Repr

/-- A register's place: BAR0 offset of instance 0, distance and number of instances, members and their distance
within an instance (registers written NAMEi), and width in bits. -/
structure RPlace where
  base : Nat
  stride : Nat := 0
  count : Nat := 1
  members : Nat := 1
  step : Nat := 4
  bits : Nat := 32
  deriving DecidableEq, Repr

/-- The registers, each by the name its table gives it. -/
inductive Reg where
  | bayNumcfg
  | bayNumsts
  | bayTrapCtrl
  | bayTrapTag
  | bayTrapOpidx
  | bayTrapUnit
  | bayTrapTile
  | bayTrapTime
  | bayTrapInfo
  | bayTrapCount
  | numstatCtrl
  | numstatSts
  | numstatDropped
  | numstatDrifts
  | numstatSatwin
  | numstatSatfrac
  | numstatRatioLo
  | numstatRatioHi
  | numstatEven
  | numstatTableBytes
  | thatchCfg
  | thatchArrayCtrl
  | thatchArraySts
  | thatchSwitchTime
  | thatchSwitchCount
  | thatchSwitchNs
  | thatchDieId
  | thatchDieSpare
  | thatchDieErr
  | thatchActiveCyc
  | thatchTileCyc
  | thatchPasses
  | thatchSrFolds
  | thatchSparCyc
  | thatchFeedStall
  | thatchSpareMap
  | lathDieId
  | lathDieSpare
  | lathSpareMap
  | lathDieErr
  | lathVregCorr
  | lathActiveCyc
  | lathFmaCyc
  | lathSfuCyc
  | lathCxCyc
  | lathLoftStall
  | lathWaitCyc
  | lathOps
  | lathOptParams
  | pfstatCtrl
  | pfstatSummaryUs
  | pfstatGrant
  | pfstatIssued
  | pfstatUsed
  | pfstatLate
  | pfstatEvicted
  | pfstatDemand
  | pfstatDropped
  | pfstatStreams
  | pfstatPendingDrops
  | pfstatEngId
  | pfstatEngIssued
  | pfstatEngUsed
  | pfstatEngLate
  | pfstatEngEvicted
  | pfstatEngDemand
  | pfstatEngDropped
  | pfstatEngBytesRd
  | pfstatEngBytesWr
  | pfstatEngConv
  | pfstatEngPackIn
  | pfstatEngPackOut
  | pfstatEngErr
  | eaveGemvCfg
  | eaveHotEven
  | eaveId
  | eaveCfg
  | eaveAgeNs
  | eaveWinCfg
  | eaveHotThresh
  | eaveScrubCfg
  | eaveSts
  | eaveHotCount
  | eaveHotLast
  | eaveHotTime
  | eaveErr
  | eaveHbmCorr
  | eaveSramCorr
  | eaveLaneSpares
  | eavePegSpare
  | eaveReads
  | eaveWrites
  | eaveMerged
  | eaveRowHits
  | eaveRowMisses
  | eaveOvfEntries
  | eaveIngressStall
  | eaveDotCyc
  | eaveAttPos
  | eaveAttCancelled
  | eaveGatherRows
  | eaveScatterRows
  | eaveRemoteBytes
  | bayServeCfg
  | bayServeEven
  | baySpecSummaryUs
  | bayServeLimit
  | bayPrefixLimit
  | bayServeSts
  | bayServePoolVa
  | bayServePoolBytes
  | bayServePoolFree
  | baySteps
  | baySpecProposed
  | baySpecAccepted
  | baySpecRejected
  | bayDlMasked
  | bayDlFallback
  | bayDlMissed
  | bayRebuilt
  | bayPrefixSts
  | queueSqCaps
  | queueCqCaps
  | queueCtxCaps
  | queueGableSts
  | queueTakeoverTime
  | queueCmdsStarted
  | queueCtxMisses
  | queueInspectSel
  | queueInspectSts
  | bayId
  | bayWeight
  | baySqBase
  | baySqCount
  | bayCqBase
  | bayCqCount
  | bayAdminCtrl
  | bayAdminSts
  | bayAdminSqAddr
  | bayAdminCqAddr
  | bayAdminHeadAddr
  | bayEvqAddr
  | bayEvqCtrl
  | bayEvqHead
  | bayEvqLost
  | baySqsOpen
  | bayCqsOpen
  | bayDbRejects
  | bayCmdsDone
  | bayThatchNs
  | bayHighWaitMax
  | bayLongKernels
  | bayT1QuotaUsed
  | bayT1PoolUsed
  | bayT2Mapped
  | bayT3QuotaUsed
  | bayT3PoolUsed
  | bayT4QuotaUsed
  | bayT4PoolUsed
  | bayObjects
  | bayFaultedObjs
  | bayEvictedObjs
  | bayWritebackBytes
  | bayQuotaT1
  | bayQuotaT2
  | bayQuotaT3
  | bayQuotaT4
  | tierT1Capacity
  | tierT1PoolFree
  | tierT3Addr
  | tierT3Bytes
  | tierT3PoolFree
  | tierT4Bytes
  | tierT4PoolFree
  | tierT4Ssds
  | tierT4Limit
  | reedlineIdent
  | reedlineLevel
  | reedlineIncarnation
  | reedlineRouteSel
  | reedlineRouteData
  | reedlinePeerOp
  | reedlinePeerSel
  | reedlinePeerInfo
  | reedlinePeerSerial
  | reedlinePeers
  | reedlineLost
  | reedlineReroutes
  | reedlinePortCtrl
  | reedlinePortSts
  | reedlinePortPartner
  | reedlinePortRtt
  | reedlinePortAsym
  | reedlinePortDowns
  | reedlinePortFecCorr
  | reedlinePortFecUncorr
  | reedlinePortReplays
  | reedlinePortTxBytes
  | reedlinePortRxBytes
  | reedlinePortCreditStall
  | ethConnSel
  | ethConnCtrl
  | ethConnCfg
  | ethConnLocalQpn
  | ethConnRemoteQpn
  | ethConnPsn
  | ethConnErr
  | ethConnGidLo
  | ethConnGidHi
  | ethPortCtrl
  | ethPortSts
  | ethPortMac
  | ethPortIpv4
  | ethPortIpv6Lo
  | ethPortIpv6Hi
  | ethPortTxBytes
  | ethPortRxBytes
  | ethPortCnpRx
  | ethPortRetrans
  | purlinNow
  | purlinCtrl
  | purlinSts
  | purlinSet
  | purlinOffset
  | purlinErrEst
  | purlinPpsLast
  | purlinSteps
  | purlinHoldCtrl
  | purlinHoldStart
  | purlinHoldEnd
  | purlinHoldSts
  | purlinHoldCount
  | purlinHoldLate
  | purlinHoldLast
  | identPart
  | identSerial
  | identClock
  | identPower
  | identSlot
  | identSts
  | identPubkeyX
  | identPubkeyY
  | hostifLinkSts
  | hostifLinkCtrl
  | hostifBar4Size
  | hostifBar4Base
  | hostifBar4Faults
  | hostifErr
  | hostifCplTimeoutUs
  | hostifRxBytes
  | hostifTxBytes
  | hostifSideband
  | fasciaMctpEid
  | fasciaSpdmSts
  | fasciaSpdmChallenges
  | fasciaJtagSts
  | fasciaDieId
  | fasciaSpare
  | fasciaErr
  | fasciaPorts
  | nvmePortCtrl
  | nvmePortSts
  | nvmeSsdId
  | nvmeNsBytes
  | nvmeMdtsBytes
  | nvmeQueues
  | nvmeTimeoutMs
  | nvmeReads
  | nvmeWrites
  | nvmeReadBytes
  | nvmeWriteBytes
  | nvmeErrors
  | nvmeLastStatus
  | nvmePctUsed
  | nvmeUnitsWritten
  | bringCmd
  | bringSts
  | bringStepDone
  | bringStepRun
  | bringStacksTrained
  | bringStacksReady
  | bringPegDone
  | bringPegStacks
  | bringDefects
  | bringDefectSel
  | bringDefectData
  | bringFactorySts
  | bringLimitMhz
  | bringLimitW
  | bringFabricWaitMs
  | bringLastUs
  | bringStageSts
  | bringStageFloor
  | bringReloads
  | bringReloadSrUs
  | gableImageHash
  | gableImageBuild
  | gableDieId
  | gableSts
  | gableSpare
  | gableErr
  | gableSramCorr
  | gableCmds
  | gableBusyCyc
  | powerSts
  | powerVin
  | powerIin
  | powerPin
  | powerClock
  | powerLimit
  | powerCreditJ
  | powerElecUs
  | powerTemp
  | powerTripCtrl
  | powerHolds
  | powerHoldLastUs
  | powerExhausted
  | powerEnergyJ
  | powerWearSts
  | powerWearBudgetTb
  | powerWearLifeEnd
  | errlogSeq
  | errlogCfg
  | errlogUncorr
  | errlogCorr
  | errlogUlStagingBytes
  | errlogUlCutWindowUs
  | errlogUlSts
  | errlogUlStaged
  | errlogUlArea
  | errlogUlAreaFree
  | errlogUlTouches
  | errlogUlStallNs
  | errlogUlWritten
  | errlogUlLastDone
  deriving DecidableEq, Repr

/-- Where a register lies (the block rules R63, R90, R128, R158, R189, R225, R356, R397, R399, R421, R450 to R452,
R481 to R484, R506, R507, R520, R544). -/
def Reg.place : Reg → RPlace
  | .bayNumcfg => { base := 0x28100, stride := 0x400, count := 16 }
  | .bayNumsts => { base := 0x28104, stride := 0x400, count := 16 }
  | .bayTrapCtrl => { base := 0x28108, stride := 0x400, count := 16 }
  | .bayTrapTag => { base := 0x28110, stride := 0x400, count := 16 }
  | .bayTrapOpidx => { base := 0x28114, stride := 0x400, count := 16 }
  | .bayTrapUnit => { base := 0x28118, stride := 0x400, count := 16 }
  | .bayTrapTile => { base := 0x2811C, stride := 0x400, count := 16 }
  | .bayTrapTime => { base := 0x28120, stride := 0x400, count := 16, bits := 64 }
  | .bayTrapInfo => { base := 0x28128, stride := 0x400, count := 16 }
  | .bayTrapCount => { base := 0x2812C, stride := 0x400, count := 16 }
  | .numstatCtrl => { base := 0x60000, stride := 0x1000, count := 16 }
  | .numstatSts => { base := 0x60004, stride := 0x1000, count := 16 }
  | .numstatDropped => { base := 0x60008, stride := 0x1000, count := 16 }
  | .numstatDrifts => { base := 0x6000C, stride := 0x1000, count := 16 }
  | .numstatSatwin => { base := 0x60010, stride := 0x1000, count := 16 }
  | .numstatSatfrac => { base := 0x60014, stride := 0x1000, count := 16 }
  | .numstatRatioLo => { base := 0x60018, stride := 0x1000, count := 16 }
  | .numstatRatioHi => { base := 0x6001C, stride := 0x1000, count := 16 }
  | .numstatEven => { base := 0x60020, stride := 0x1000, count := 16 }
  | .numstatTableBytes => { base := 0x60028, stride := 0x1000, count := 16, bits := 64 }
  | .thatchCfg => { base := 0x100000 }
  | .thatchArrayCtrl => { base := 0x100004 }
  | .thatchArraySts => { base := 0x100008 }
  | .thatchSwitchTime => { base := 0x100010, bits := 64 }
  | .thatchSwitchCount => { base := 0x100018 }
  | .thatchSwitchNs => { base := 0x10001C }
  | .thatchDieId => { base := 0x100100, stride := 0x10000, count := 12 }
  | .thatchDieSpare => { base := 0x100104, stride := 0x10000, count := 12 }
  | .thatchDieErr => { base := 0x100108, stride := 0x10000, count := 12 }
  | .thatchActiveCyc => { base := 0x100110, stride := 0x10000, count := 12, bits := 64 }
  | .thatchTileCyc => { base := 0x100118, stride := 0x10000, count := 12, bits := 64 }
  | .thatchPasses => { base := 0x100120, stride := 0x10000, count := 12, bits := 64 }
  | .thatchSrFolds => { base := 0x100128, stride := 0x10000, count := 12, bits := 64 }
  | .thatchSparCyc => { base := 0x100130, stride := 0x10000, count := 12, bits := 64 }
  | .thatchFeedStall => { base := 0x100138, stride := 0x10000, count := 12, bits := 64 }
  | .thatchSpareMap => { base := 0x100180, stride := 0x10000, count := 12, members := 8, step := 4 }
  | .lathDieId => { base := 0x1C0100, stride := 0x10000, count := 4 }
  | .lathDieSpare => { base := 0x1C0104, stride := 0x10000, count := 4 }
  | .lathSpareMap => { base := 0x1C0108, stride := 0x10000, count := 4 }
  | .lathDieErr => { base := 0x1C010C, stride := 0x10000, count := 4 }
  | .lathVregCorr => { base := 0x1C0110, stride := 0x10000, count := 4 }
  | .lathActiveCyc => { base := 0x1C0118, stride := 0x10000, count := 4, bits := 64 }
  | .lathFmaCyc => { base := 0x1C0120, stride := 0x10000, count := 4, bits := 64 }
  | .lathSfuCyc => { base := 0x1C0128, stride := 0x10000, count := 4, bits := 64 }
  | .lathCxCyc => { base := 0x1C0130, stride := 0x10000, count := 4, bits := 64 }
  | .lathLoftStall => { base := 0x1C0138, stride := 0x10000, count := 4, bits := 64 }
  | .lathWaitCyc => { base := 0x1C0140, stride := 0x10000, count := 4, bits := 64 }
  | .lathOps => { base := 0x1C0148, stride := 0x10000, count := 4, bits := 64 }
  | .lathOptParams => { base := 0x1C0150, stride := 0x10000, count := 4, bits := 64 }
  | .pfstatCtrl => { base := 0x70000, stride := 0x1000, count := 16 }
  | .pfstatSummaryUs => { base := 0x70004, stride := 0x1000, count := 16 }
  | .pfstatGrant => { base := 0x70008, stride := 0x1000, count := 16 }
  | .pfstatIssued => { base := 0x70010, stride := 0x1000, count := 16, bits := 64 }
  | .pfstatUsed => { base := 0x70018, stride := 0x1000, count := 16, bits := 64 }
  | .pfstatLate => { base := 0x70020, stride := 0x1000, count := 16, bits := 64 }
  | .pfstatEvicted => { base := 0x70028, stride := 0x1000, count := 16, bits := 64 }
  | .pfstatDemand => { base := 0x70030, stride := 0x1000, count := 16, bits := 64 }
  | .pfstatDropped => { base := 0x70038, stride := 0x1000, count := 16, bits := 64 }
  | .pfstatStreams => { base := 0x70040, stride := 0x1000, count := 16, bits := 64 }
  | .pfstatPendingDrops => { base := 0x70048, stride := 0x1000, count := 16 }
  | .pfstatEngId => { base := 0x80000, stride := 0x100, count := 64 }
  | .pfstatEngIssued => { base := 0x80008, stride := 0x100, count := 64, bits := 64 }
  | .pfstatEngUsed => { base := 0x80010, stride := 0x100, count := 64, bits := 64 }
  | .pfstatEngLate => { base := 0x80018, stride := 0x100, count := 64, bits := 64 }
  | .pfstatEngEvicted => { base := 0x80020, stride := 0x100, count := 64, bits := 64 }
  | .pfstatEngDemand => { base := 0x80028, stride := 0x100, count := 64, bits := 64 }
  | .pfstatEngDropped => { base := 0x80030, stride := 0x100, count := 64, bits := 64 }
  | .pfstatEngBytesRd => { base := 0x80038, stride := 0x100, count := 64, bits := 64 }
  | .pfstatEngBytesWr => { base := 0x80040, stride := 0x100, count := 64, bits := 64 }
  | .pfstatEngConv => { base := 0x80048, stride := 0x100, count := 64, bits := 64 }
  | .pfstatEngPackIn => { base := 0x80050, stride := 0x100, count := 64, bits := 64 }
  | .pfstatEngPackOut => { base := 0x80058, stride := 0x100, count := 64, bits := 64 }
  | .pfstatEngErr => { base := 0x80060, stride := 0x100, count := 64 }
  | .eaveGemvCfg => { base := 0x200000 }
  | .eaveHotEven => { base := 0x200004 }
  | .eaveId => { base := 0x200100, stride := 0x10000, count := 32 }
  | .eaveCfg => { base := 0x200104, stride := 0x10000, count := 32 }
  | .eaveAgeNs => { base := 0x200108, stride := 0x10000, count := 32 }
  | .eaveWinCfg => { base := 0x20010C, stride := 0x10000, count := 32 }
  | .eaveHotThresh => { base := 0x200110, stride := 0x10000, count := 32 }
  | .eaveScrubCfg => { base := 0x200114, stride := 0x10000, count := 32 }
  | .eaveSts => { base := 0x200118, stride := 0x10000, count := 32 }
  | .eaveHotCount => { base := 0x20011C, stride := 0x10000, count := 32 }
  | .eaveHotLast => { base := 0x200120, stride := 0x10000, count := 32 }
  | .eaveHotTime => { base := 0x200128, stride := 0x10000, count := 32, bits := 64 }
  | .eaveErr => { base := 0x200130, stride := 0x10000, count := 32 }
  | .eaveHbmCorr => { base := 0x200134, stride := 0x10000, count := 32 }
  | .eaveSramCorr => { base := 0x200138, stride := 0x10000, count := 32 }
  | .eaveLaneSpares => { base := 0x200140, stride := 0x10000, count := 32, bits := 64 }
  | .eavePegSpare => { base := 0x200148, stride := 0x10000, count := 32 }
  | .eaveReads => { base := 0x200180, stride := 0x10000, count := 32, bits := 64 }
  | .eaveWrites => { base := 0x200188, stride := 0x10000, count := 32, bits := 64 }
  | .eaveMerged => { base := 0x200190, stride := 0x10000, count := 32, bits := 64 }
  | .eaveRowHits => { base := 0x200198, stride := 0x10000, count := 32, bits := 64 }
  | .eaveRowMisses => { base := 0x2001A0, stride := 0x10000, count := 32, bits := 64 }
  | .eaveOvfEntries => { base := 0x2001A8, stride := 0x10000, count := 32, bits := 64 }
  | .eaveIngressStall => { base := 0x2001B0, stride := 0x10000, count := 32, bits := 64 }
  | .eaveDotCyc => { base := 0x2001B8, stride := 0x10000, count := 32, bits := 64 }
  | .eaveAttPos => { base := 0x2001C0, stride := 0x10000, count := 32, bits := 64 }
  | .eaveAttCancelled => { base := 0x2001C8, stride := 0x10000, count := 32, bits := 64 }
  | .eaveGatherRows => { base := 0x2001D0, stride := 0x10000, count := 32, bits := 64 }
  | .eaveScatterRows => { base := 0x2001D8, stride := 0x10000, count := 32, bits := 64 }
  | .eaveRemoteBytes => { base := 0x2001E0, stride := 0x10000, count := 32, bits := 64 }
  | .bayServeCfg => { base := 0x28200, stride := 0x400, count := 16 }
  | .bayServeEven => { base := 0x28204, stride := 0x400, count := 16 }
  | .baySpecSummaryUs => { base := 0x28208, stride := 0x400, count := 16 }
  | .bayServeLimit => { base := 0x2820C, stride := 0x400, count := 16 }
  | .bayPrefixLimit => { base := 0x28210, stride := 0x400, count := 16 }
  | .bayServeSts => { base := 0x28214, stride := 0x400, count := 16 }
  | .bayServePoolVa => { base := 0x28218, stride := 0x400, count := 16, bits := 64 }
  | .bayServePoolBytes => { base := 0x28220, stride := 0x400, count := 16, bits := 64 }
  | .bayServePoolFree => { base := 0x28228, stride := 0x400, count := 16, bits := 64 }
  | .baySteps => { base := 0x28230, stride := 0x400, count := 16, bits := 64 }
  | .baySpecProposed => { base := 0x28238, stride := 0x400, count := 16, bits := 64 }
  | .baySpecAccepted => { base := 0x28240, stride := 0x400, count := 16, bits := 64 }
  | .baySpecRejected => { base := 0x28248, stride := 0x400, count := 16, bits := 64 }
  | .bayDlMasked => { base := 0x28250, stride := 0x400, count := 16, bits := 64 }
  | .bayDlFallback => { base := 0x28258, stride := 0x400, count := 16, bits := 64 }
  | .bayDlMissed => { base := 0x28260, stride := 0x400, count := 16, bits := 64 }
  | .bayRebuilt => { base := 0x28268, stride := 0x400, count := 16, bits := 64 }
  | .bayPrefixSts => { base := 0x28270, stride := 0x400, count := 16 }
  | .queueSqCaps => { base := 0x20000 }
  | .queueCqCaps => { base := 0x20004 }
  | .queueCtxCaps => { base := 0x20008 }
  | .queueGableSts => { base := 0x20010 }
  | .queueTakeoverTime => { base := 0x20018, bits := 64 }
  | .queueCmdsStarted => { base := 0x20020, bits := 64 }
  | .queueCtxMisses => { base := 0x20028, bits := 64 }
  | .queueInspectSel => { base := 0x20030 }
  | .queueInspectSts => { base := 0x20034 }
  | .bayId => { base := 0x28000, stride := 0x400, count := 16 }
  | .bayWeight => { base := 0x28004, stride := 0x400, count := 16 }
  | .baySqBase => { base := 0x28008, stride := 0x400, count := 16 }
  | .baySqCount => { base := 0x2800C, stride := 0x400, count := 16 }
  | .bayCqBase => { base := 0x28010, stride := 0x400, count := 16 }
  | .bayCqCount => { base := 0x28014, stride := 0x400, count := 16 }
  | .bayAdminCtrl => { base := 0x28018, stride := 0x400, count := 16 }
  | .bayAdminSts => { base := 0x2801C, stride := 0x400, count := 16 }
  | .bayAdminSqAddr => { base := 0x28020, stride := 0x400, count := 16, bits := 64 }
  | .bayAdminCqAddr => { base := 0x28028, stride := 0x400, count := 16, bits := 64 }
  | .bayAdminHeadAddr => { base := 0x28030, stride := 0x400, count := 16, bits := 64 }
  | .bayEvqAddr => { base := 0x28038, stride := 0x400, count := 16, bits := 64 }
  | .bayEvqCtrl => { base := 0x28040, stride := 0x400, count := 16 }
  | .bayEvqHead => { base := 0x28044, stride := 0x400, count := 16 }
  | .bayEvqLost => { base := 0x28048, stride := 0x400, count := 16 }
  | .baySqsOpen => { base := 0x2804C, stride := 0x400, count := 16 }
  | .bayCqsOpen => { base := 0x28050, stride := 0x400, count := 16 }
  | .bayDbRejects => { base := 0x28058, stride := 0x400, count := 16, bits := 64 }
  | .bayCmdsDone => { base := 0x28060, stride := 0x400, count := 16, bits := 64 }
  | .bayThatchNs => { base := 0x28068, stride := 0x400, count := 16, bits := 64 }
  | .bayHighWaitMax => { base := 0x28070, stride := 0x400, count := 16 }
  | .bayLongKernels => { base := 0x28074, stride := 0x400, count := 16 }
  | .bayT1QuotaUsed => { base := 0x28300, stride := 0x400, count := 16, bits := 64 }
  | .bayT1PoolUsed => { base := 0x28308, stride := 0x400, count := 16, bits := 64 }
  | .bayT2Mapped => { base := 0x28310, stride := 0x400, count := 16, bits := 64 }
  | .bayT3QuotaUsed => { base := 0x28318, stride := 0x400, count := 16, bits := 64 }
  | .bayT3PoolUsed => { base := 0x28320, stride := 0x400, count := 16, bits := 64 }
  | .bayT4QuotaUsed => { base := 0x28328, stride := 0x400, count := 16, bits := 64 }
  | .bayT4PoolUsed => { base := 0x28330, stride := 0x400, count := 16, bits := 64 }
  | .bayObjects => { base := 0x28338, stride := 0x400, count := 16 }
  | .bayFaultedObjs => { base := 0x2833C, stride := 0x400, count := 16 }
  | .bayEvictedObjs => { base := 0x28340, stride := 0x400, count := 16, bits := 64 }
  | .bayWritebackBytes => { base := 0x28348, stride := 0x400, count := 16, bits := 64 }
  | .bayQuotaT1 => { base := 0x28360, stride := 0x400, count := 16, bits := 64 }
  | .bayQuotaT2 => { base := 0x28368, stride := 0x400, count := 16, bits := 64 }
  | .bayQuotaT3 => { base := 0x28370, stride := 0x400, count := 16, bits := 64 }
  | .bayQuotaT4 => { base := 0x28378, stride := 0x400, count := 16, bits := 64 }
  | .tierT1Capacity => { base := 0x28380, bits := 64 }
  | .tierT1PoolFree => { base := 0x28388, bits := 64 }
  | .tierT3Addr => { base := 0x28390, bits := 64 }
  | .tierT3Bytes => { base := 0x28398, bits := 64 }
  | .tierT3PoolFree => { base := 0x283A0, bits := 64 }
  | .tierT4Bytes => { base := 0x283A8, bits := 64 }
  | .tierT4PoolFree => { base := 0x283B0, bits := 64 }
  | .tierT4Ssds => { base := 0x283B8 }
  | .tierT4Limit => { base := 0x283C0, bits := 64 }
  | .reedlineIdent => { base := 0x400000 }
  | .reedlineLevel => { base := 0x400004 }
  | .reedlineIncarnation => { base := 0x400008 }
  | .reedlineRouteSel => { base := 0x400010 }
  | .reedlineRouteData => { base := 0x400014 }
  | .reedlinePeerOp => { base := 0x400018 }
  | .reedlinePeerSel => { base := 0x40001C }
  | .reedlinePeerInfo => { base := 0x400020, bits := 64 }
  | .reedlinePeerSerial => { base := 0x400028, bits := 64 }
  | .reedlinePeers => { base := 0x400030 }
  | .reedlineLost => { base := 0x400034 }
  | .reedlineReroutes => { base := 0x400038, bits := 64 }
  | .reedlinePortCtrl => { base := 0x400100, stride := 0x10000, count := 18 }
  | .reedlinePortSts => { base := 0x400104, stride := 0x10000, count := 18 }
  | .reedlinePortPartner => { base := 0x400108, stride := 0x10000, count := 18 }
  | .reedlinePortRtt => { base := 0x40010C, stride := 0x10000, count := 18 }
  | .reedlinePortAsym => { base := 0x400110, stride := 0x10000, count := 18 }
  | .reedlinePortDowns => { base := 0x400114, stride := 0x10000, count := 18 }
  | .reedlinePortFecCorr => { base := 0x400118, stride := 0x10000, count := 18, bits := 64 }
  | .reedlinePortFecUncorr => { base := 0x400120, stride := 0x10000, count := 18, bits := 64 }
  | .reedlinePortReplays => { base := 0x400128, stride := 0x10000, count := 18, bits := 64 }
  | .reedlinePortTxBytes => { base := 0x400130, stride := 0x10000, count := 18, bits := 64 }
  | .reedlinePortRxBytes => { base := 0x400138, stride := 0x10000, count := 18, bits := 64 }
  | .reedlinePortCreditStall => { base := 0x400140, stride := 0x10000, count := 18, bits := 64 }
  | .ethConnSel => { base := 0x520000 }
  | .ethConnCtrl => { base := 0x520004 }
  | .ethConnCfg => { base := 0x520008 }
  | .ethConnLocalQpn => { base := 0x52000C }
  | .ethConnRemoteQpn => { base := 0x520010 }
  | .ethConnPsn => { base := 0x520014 }
  | .ethConnErr => { base := 0x520018 }
  | .ethConnGidLo => { base := 0x520020, bits := 64 }
  | .ethConnGidHi => { base := 0x520028, bits := 64 }
  | .ethPortCtrl => { base := 0x520100, stride := 0x10000, count := 4 }
  | .ethPortSts => { base := 0x520104, stride := 0x10000, count := 4 }
  | .ethPortMac => { base := 0x520108, stride := 0x10000, count := 4, bits := 64 }
  | .ethPortIpv4 => { base := 0x520110, stride := 0x10000, count := 4 }
  | .ethPortIpv6Lo => { base := 0x520118, stride := 0x10000, count := 4, bits := 64 }
  | .ethPortIpv6Hi => { base := 0x520120, stride := 0x10000, count := 4, bits := 64 }
  | .ethPortTxBytes => { base := 0x520128, stride := 0x10000, count := 4, bits := 64 }
  | .ethPortRxBytes => { base := 0x520130, stride := 0x10000, count := 4, bits := 64 }
  | .ethPortCnpRx => { base := 0x520138, stride := 0x10000, count := 4, bits := 64 }
  | .ethPortRetrans => { base := 0x520140, stride := 0x10000, count := 4, bits := 64 }
  | .purlinNow => { base := 0x30000, bits := 64 }
  | .purlinCtrl => { base := 0x30008 }
  | .purlinSts => { base := 0x3000C }
  | .purlinSet => { base := 0x30010, bits := 64 }
  | .purlinOffset => { base := 0x30018 }
  | .purlinErrEst => { base := 0x3001C }
  | .purlinPpsLast => { base := 0x30020, bits := 64 }
  | .purlinSteps => { base := 0x30028 }
  | .purlinHoldCtrl => { base := 0x30040 }
  | .purlinHoldStart => { base := 0x30048, bits := 64 }
  | .purlinHoldEnd => { base := 0x30050, bits := 64 }
  | .purlinHoldSts => { base := 0x30058 }
  | .purlinHoldCount => { base := 0x3005C }
  | .purlinHoldLate => { base := 0x30060 }
  | .purlinHoldLast => { base := 0x30068, bits := 64 }
  | .identPart => { base := 0x0 }
  | .identSerial => { base := 0x8, bits := 64 }
  | .identClock => { base := 0x10 }
  | .identPower => { base := 0x14 }
  | .identSlot => { base := 0x18 }
  | .identSts => { base := 0x1C }
  | .identPubkeyX => { base := 0x40, members := 4, step := 8, bits := 64 }
  | .identPubkeyY => { base := 0x60, members := 4, step := 8, bits := 64 }
  | .hostifLinkSts => { base := 0x2000 }
  | .hostifLinkCtrl => { base := 0x2004 }
  | .hostifBar4Size => { base := 0x2008 }
  | .hostifBar4Base => { base := 0x2010, bits := 64 }
  | .hostifBar4Faults => { base := 0x2018 }
  | .hostifErr => { base := 0x201C }
  | .hostifCplTimeoutUs => { base := 0x2020 }
  | .hostifRxBytes => { base := 0x2028, bits := 64 }
  | .hostifTxBytes => { base := 0x2030, bits := 64 }
  | .hostifSideband => { base := 0x2038 }
  | .fasciaMctpEid => { base := 0x5C0000 }
  | .fasciaSpdmSts => { base := 0x5C0004 }
  | .fasciaSpdmChallenges => { base := 0x5C0008 }
  | .fasciaJtagSts => { base := 0x5C000C }
  | .fasciaDieId => { base := 0x5C0100, stride := 0x10000, count := 2 }
  | .fasciaSpare => { base := 0x5C0104, stride := 0x10000, count := 2 }
  | .fasciaErr => { base := 0x5C0108, stride := 0x10000, count := 2 }
  | .fasciaPorts => { base := 0x5C0110, stride := 0x10000, count := 2 }
  | .nvmePortCtrl => { base := 0x560000, stride := 0x10000, count := 4 }
  | .nvmePortSts => { base := 0x560004, stride := 0x10000, count := 4 }
  | .nvmeSsdId => { base := 0x560008, stride := 0x10000, count := 4 }
  | .nvmeNsBytes => { base := 0x560010, stride := 0x10000, count := 4, bits := 64 }
  | .nvmeMdtsBytes => { base := 0x560018, stride := 0x10000, count := 4 }
  | .nvmeQueues => { base := 0x56001C, stride := 0x10000, count := 4 }
  | .nvmeTimeoutMs => { base := 0x560020, stride := 0x10000, count := 4 }
  | .nvmeReads => { base := 0x560028, stride := 0x10000, count := 4, bits := 64 }
  | .nvmeWrites => { base := 0x560030, stride := 0x10000, count := 4, bits := 64 }
  | .nvmeReadBytes => { base := 0x560038, stride := 0x10000, count := 4, bits := 64 }
  | .nvmeWriteBytes => { base := 0x560040, stride := 0x10000, count := 4, bits := 64 }
  | .nvmeErrors => { base := 0x560048, stride := 0x10000, count := 4 }
  | .nvmeLastStatus => { base := 0x56004C, stride := 0x10000, count := 4 }
  | .nvmePctUsed => { base := 0x560050, stride := 0x10000, count := 4 }
  | .nvmeUnitsWritten => { base := 0x560058, stride := 0x10000, count := 4, bits := 64 }
  | .bringCmd => { base := 0x1000 }
  | .bringSts => { base := 0x1004 }
  | .bringStepDone => { base := 0x1008 }
  | .bringStepRun => { base := 0x100C }
  | .bringStacksTrained => { base := 0x1010 }
  | .bringStacksReady => { base := 0x1014 }
  | .bringPegDone => { base := 0x1018 }
  | .bringPegStacks => { base := 0x101C }
  | .bringDefects => { base := 0x1020 }
  | .bringDefectSel => { base := 0x1024 }
  | .bringDefectData => { base := 0x1028, bits := 64 }
  | .bringFactorySts => { base := 0x1030 }
  | .bringLimitMhz => { base := 0x1034 }
  | .bringLimitW => { base := 0x1038 }
  | .bringFabricWaitMs => { base := 0x103C }
  | .bringLastUs => { base := 0x1040 }
  | .bringStageSts => { base := 0x1048 }
  | .bringStageFloor => { base := 0x104C }
  | .bringReloads => { base := 0x1050 }
  | .bringReloadSrUs => { base := 0x1054 }
  | .gableImageHash => { base := 0x5A0000, members := 4, step := 8, bits := 64 }
  | .gableImageBuild => { base := 0x5A0020, bits := 64 }
  | .gableDieId => { base := 0x5A0100, stride := 0x10000, count := 2 }
  | .gableSts => { base := 0x5A0104, stride := 0x10000, count := 2 }
  | .gableSpare => { base := 0x5A0108, stride := 0x10000, count := 2 }
  | .gableErr => { base := 0x5A010C, stride := 0x10000, count := 2 }
  | .gableSramCorr => { base := 0x5A0110, stride := 0x10000, count := 2 }
  | .gableCmds => { base := 0x5A0118, stride := 0x10000, count := 2, bits := 64 }
  | .gableBusyCyc => { base := 0x5A0120, stride := 0x10000, count := 2, bits := 64 }
  | .powerSts => { base := 0x40000 }
  | .powerVin => { base := 0x40004 }
  | .powerIin => { base := 0x40008 }
  | .powerPin => { base := 0x4000C }
  | .powerClock => { base := 0x40010 }
  | .powerLimit => { base := 0x40014 }
  | .powerCreditJ => { base := 0x40018 }
  | .powerElecUs => { base := 0x4001C }
  | .powerTemp => { base := 0x40020 }
  | .powerTripCtrl => { base := 0x40024 }
  | .powerHolds => { base := 0x40028 }
  | .powerHoldLastUs => { base := 0x4002C }
  | .powerExhausted => { base := 0x40030 }
  | .powerEnergyJ => { base := 0x40038, bits := 64 }
  | .powerWearSts => { base := 0x40040 }
  | .powerWearBudgetTb => { base := 0x40100, members := 4, step := 8, bits := 64 }
  | .powerWearLifeEnd => { base := 0x40120, members := 4, step := 8, bits := 64 }
  | .errlogSeq => { base := 0x50000, bits := 64 }
  | .errlogCfg => { base := 0x50008 }
  | .errlogUncorr => { base := 0x5000C }
  | .errlogCorr => { base := 0x50010 }
  | .errlogUlStagingBytes => { base := 0x50020, bits := 64 }
  | .errlogUlCutWindowUs => { base := 0x50028 }
  | .errlogUlSts => { base := 0x5002C }
  | .errlogUlStaged => { base := 0x50030, bits := 64 }
  | .errlogUlArea => { base := 0x50038, bits := 64 }
  | .errlogUlAreaFree => { base := 0x50040, bits := 64 }
  | .errlogUlTouches => { base := 0x50048, bits := 64 }
  | .errlogUlStallNs => { base := 0x50050, bits := 64 }
  | .errlogUlWritten => { base := 0x50058, bits := 64 }
  | .errlogUlLastDone => { base := 0x50060, bits := 64 }

/-- The fields of a register, reserved ones left out. -/
def Reg.fields : Reg → List RField
  | .bayNumcfg => [{ lo := 0, w := 1, ty := .rw }]
  | .bayNumsts => [
      { lo := 0, w := 1, ty := .rw1c },
      { lo := 1, w := 1, ty := .ro },
      { lo := 2, w := 1, ty := .ro }]
  | .bayTrapCtrl => [{ lo := 0, w := 1, ty := .wo }]
  | .bayTrapTag => [{ lo := 0, w := 32, ty := .ro }]
  | .bayTrapOpidx => [{ lo := 0, w := 32, ty := .ro }]
  | .bayTrapUnit => [{ lo := 0, w := 32, ty := .ro }]
  | .bayTrapTile => [{ lo := 0, w := 32, ty := .ro }]
  | .bayTrapTime => [{ lo := 0, w := 64, ty := .ro }]
  | .bayTrapInfo => [
      { lo := 0, w := 18, ty := .ro },
      { lo := 18, w := 8, ty := .ro },
      { lo := 26, w := 4, ty := .ro }]
  | .bayTrapCount => [{ lo := 0, w := 32, ty := .ro }]
  | .numstatCtrl => [{ lo := 0, w := 1, ty := .rw }, { lo := 8, w := 5, ty := .rw, reset := 10, ok := [(4, 16)] }]
  | .numstatSts => [{ lo := 0, w := 2, ty := .ro }]
  | .numstatDropped => [{ lo := 0, w := 32, ty := .rc }]
  | .numstatDrifts => [{ lo := 0, w := 32, ty := .rc }]
  | .numstatSatwin => [{ lo := 0, w := 6, ty := .rw, reset := 24, ok := [(16, 40)] }]
  | .numstatSatfrac => [{ lo := 0, w := 24, ty := .rw, reset := 16384 }]
  | .numstatRatioLo => [{ lo := 0, w := 32, ty := .rw }]
  | .numstatRatioHi => [{ lo := 0, w := 32, ty := .rw, reset := 2139095040 }]
  | .numstatEven => [
      { lo := 0, w := 1, ty := .rw, reset := 1 },
      { lo := 1, w := 1, ty := .rw, reset := 1 },
      { lo := 2, w := 1, ty := .rw, reset := 1 }]
  | .numstatTableBytes => [{ lo := 0, w := 64, ty := .ro }]
  | .thatchCfg => [{ lo := 0, w := 2, ty := .rw, reset := 1, ok := [(0, 2)] }]
  | .thatchArrayCtrl => [{ lo := 0, w := 2, ty := .wo }]
  | .thatchArraySts => [
      { lo := 0, w := 2, ty := .ro, reset := 2 },
      { lo := 2, w := 1, ty := .ro },
      { lo := 3, w := 1, ty := .ro },
      { lo := 4, w := 1, ty := .ro },
      { lo := 5, w := 1, ty := .ro }]
  | .thatchSwitchTime => [{ lo := 0, w := 64, ty := .ro }]
  | .thatchSwitchCount => [{ lo := 0, w := 32, ty := .ro }]
  | .thatchSwitchNs => [{ lo := 0, w := 32, ty := .ro }]
  | .thatchDieId => [
      { lo := 0, w := 2, ty := .ro },
      { lo := 2, w := 2, ty := .ro },
      { lo := 4, w := 2, ty := .ro }]
  | .thatchDieSpare => [{ lo := 0, w := 5, ty := .ro }]
  | .thatchDieErr => [
      { lo := 0, w := 1, ty := .rw1c },
      { lo := 1, w := 1, ty := .rw1c },
      { lo := 2, w := 1, ty := .rw1c },
      { lo := 3, w := 1, ty := .rw1c }]
  | .thatchActiveCyc => [{ lo := 0, w := 64, ty := .ro }]
  | .thatchTileCyc => [{ lo := 0, w := 64, ty := .ro }]
  | .thatchPasses => [{ lo := 0, w := 64, ty := .ro }]
  | .thatchSrFolds => [{ lo := 0, w := 64, ty := .ro }]
  | .thatchSparCyc => [{ lo := 0, w := 64, ty := .ro }]
  | .thatchFeedStall => [{ lo := 0, w := 64, ty := .ro }]
  | .thatchSpareMap => [
      { lo := 0, w := 8, ty := .ro },
      { lo := 15, w := 1, ty := .ro },
      { lo := 16, w := 8, ty := .ro },
      { lo := 31, w := 1, ty := .ro }]
  | .lathDieId => [{ lo := 0, w := 2, ty := .ro }]
  | .lathDieSpare => [{ lo := 0, w := 2, ty := .ro }]
  | .lathSpareMap => [
      { lo := 0, w := 6, ty := .ro },
      { lo := 15, w := 1, ty := .ro },
      { lo := 16, w := 6, ty := .ro },
      { lo := 31, w := 1, ty := .ro }]
  | .lathDieErr => [
      { lo := 0, w := 1, ty := .rw1c },
      { lo := 1, w := 1, ty := .rw1c },
      { lo := 2, w := 1, ty := .rw1c },
      { lo := 3, w := 1, ty := .rw1c }]
  | .lathVregCorr => [{ lo := 0, w := 32, ty := .rc }]
  | .lathActiveCyc => [{ lo := 0, w := 64, ty := .ro }]
  | .lathFmaCyc => [{ lo := 0, w := 64, ty := .ro }]
  | .lathSfuCyc => [{ lo := 0, w := 64, ty := .ro }]
  | .lathCxCyc => [{ lo := 0, w := 64, ty := .ro }]
  | .lathLoftStall => [{ lo := 0, w := 64, ty := .ro }]
  | .lathWaitCyc => [{ lo := 0, w := 64, ty := .ro }]
  | .lathOps => [{ lo := 0, w := 64, ty := .ro }]
  | .lathOptParams => [{ lo := 0, w := 64, ty := .ro }]
  | .pfstatCtrl => [{ lo := 0, w := 1, ty := .wo }, { lo := 1, w := 1, ty := .rw, reset := 1 }]
  | .pfstatSummaryUs => [{ lo := 0, w := 32, ty := .rw, reset := 1000, ok := [(1, 1000000)] }]
  | .pfstatGrant => [
      { lo := 0, w := 8, ty := .ro },
      { lo := 8, w := 8, ty := .ro },
      { lo := 16, w := 8, ty := .ro },
      { lo := 24, w := 8, ty := .ro }]
  | .pfstatIssued => [{ lo := 0, w := 64, ty := .ro }]
  | .pfstatUsed => [{ lo := 0, w := 64, ty := .ro }]
  | .pfstatLate => [{ lo := 0, w := 64, ty := .ro }]
  | .pfstatEvicted => [{ lo := 0, w := 64, ty := .ro }]
  | .pfstatDemand => [{ lo := 0, w := 64, ty := .ro }]
  | .pfstatDropped => [{ lo := 0, w := 64, ty := .ro }]
  | .pfstatStreams => [{ lo := 0, w := 64, ty := .ro }]
  | .pfstatPendingDrops => [{ lo := 0, w := 32, ty := .ro }]
  | .pfstatEngId => [{ lo := 0, w := 4, ty := .ro }, { lo := 4, w := 2, ty := .ro }]
  | .pfstatEngIssued => [{ lo := 0, w := 64, ty := .ro }]
  | .pfstatEngUsed => [{ lo := 0, w := 64, ty := .ro }]
  | .pfstatEngLate => [{ lo := 0, w := 64, ty := .ro }]
  | .pfstatEngEvicted => [{ lo := 0, w := 64, ty := .ro }]
  | .pfstatEngDemand => [{ lo := 0, w := 64, ty := .ro }]
  | .pfstatEngDropped => [{ lo := 0, w := 64, ty := .ro }]
  | .pfstatEngBytesRd => [{ lo := 0, w := 64, ty := .ro }]
  | .pfstatEngBytesWr => [{ lo := 0, w := 64, ty := .ro }]
  | .pfstatEngConv => [{ lo := 0, w := 64, ty := .ro }]
  | .pfstatEngPackIn => [{ lo := 0, w := 64, ty := .ro }]
  | .pfstatEngPackOut => [{ lo := 0, w := 64, ty := .ro }]
  | .pfstatEngErr => [{ lo := 0, w := 1, ty := .rw1c }]
  | .eaveGemvCfg => [{ lo := 0, w := 4, ty := .rw, reset := 6, ok := [(1, 8)] }]
  | .eaveHotEven => [{ lo := 0, w := 1, ty := .rw, reset := 1 }]
  | .eaveId => [{ lo := 0, w := 5, ty := .ro }, { lo := 5, w := 5, ty := .ro }, { lo := 10, w := 1, ty := .ro }]
  | .eaveCfg => [{ lo := 0, w := 9, ty := .rw, reset := 32, ok := [(1, 256)] }]
  | .eaveAgeNs => [{ lo := 0, w := 16, ty := .rw, reset := 2000, ok := [(64, 65535)] }]
  | .eaveWinCfg => [{ lo := 0, w := 10, ty := .rw, reset := 32 }]
  | .eaveHotThresh => [{ lo := 0, w := 14, ty := .rw, reset := 64, ok := [(1, 8192)] }]
  | .eaveScrubCfg => [{ lo := 0, w := 8, ty := .rw, reset := 24 }]
  | .eaveSts => [{ lo := 0, w := 13, ty := .ro }, { lo := 13, w := 14, ty := .ro }]
  | .eaveHotCount => [{ lo := 0, w := 32, ty := .rc }]
  | .eaveHotLast => [{ lo := 0, w := 12, ty := .ro }]
  | .eaveHotTime => [{ lo := 0, w := 64, ty := .ro }]
  | .eaveErr => [
      { lo := 0, w := 1, ty := .rw1c },
      { lo := 1, w := 1, ty := .rw1c },
      { lo := 2, w := 1, ty := .rw1c },
      { lo := 3, w := 1, ty := .rw1c },
      { lo := 4, w := 1, ty := .rw1c }]
  | .eaveHbmCorr => [{ lo := 0, w := 32, ty := .rc }]
  | .eaveSramCorr => [{ lo := 0, w := 32, ty := .rc }]
  | .eaveLaneSpares => [{ lo := 0, w := 64, ty := .ro }]
  | .eavePegSpare => [{ lo := 0, w := 4, ty := .ro }, { lo := 4, w := 1, ty := .ro }]
  | .eaveReads => [{ lo := 0, w := 64, ty := .ro }]
  | .eaveWrites => [{ lo := 0, w := 64, ty := .ro }]
  | .eaveMerged => [{ lo := 0, w := 64, ty := .ro }]
  | .eaveRowHits => [{ lo := 0, w := 64, ty := .ro }]
  | .eaveRowMisses => [{ lo := 0, w := 64, ty := .ro }]
  | .eaveOvfEntries => [{ lo := 0, w := 64, ty := .ro }]
  | .eaveIngressStall => [{ lo := 0, w := 64, ty := .ro }]
  | .eaveDotCyc => [{ lo := 0, w := 64, ty := .ro }]
  | .eaveAttPos => [{ lo := 0, w := 64, ty := .ro }]
  | .eaveAttCancelled => [{ lo := 0, w := 64, ty := .ro }]
  | .eaveGatherRows => [{ lo := 0, w := 64, ty := .ro }]
  | .eaveScatterRows => [{ lo := 0, w := 64, ty := .ro }]
  | .eaveRemoteBytes => [{ lo := 0, w := 64, ty := .ro }]
  | .bayServeCfg => [{ lo := 0, w := 17, ty := .rw, reset := 8192, ok := [(512, 65536)] }]
  | .bayServeEven => [{ lo := 0, w := 1, ty := .rw, reset := 1 }]
  | .baySpecSummaryUs => [{ lo := 0, w := 32, ty := .rw, reset := 1000, ok := [(1, 1000000)] }]
  | .bayServeLimit => [{ lo := 0, w := 19, ty := .ro }]
  | .bayPrefixLimit => [{ lo := 0, w := 17, ty := .ro }]
  | .bayServeSts => [{ lo := 0, w := 19, ty := .ro }]
  | .bayServePoolVa => [{ lo := 0, w := 64, ty := .rw, al := 16 }]
  | .bayServePoolBytes => [{ lo := 0, w := 64, ty := .rw, al := 16 }]
  | .bayServePoolFree => [{ lo := 0, w := 64, ty := .ro }]
  | .baySteps => [{ lo := 0, w := 64, ty := .ro }]
  | .baySpecProposed => [{ lo := 0, w := 64, ty := .ro }]
  | .baySpecAccepted => [{ lo := 0, w := 64, ty := .ro }]
  | .baySpecRejected => [{ lo := 0, w := 64, ty := .ro }]
  | .bayDlMasked => [{ lo := 0, w := 64, ty := .ro }]
  | .bayDlFallback => [{ lo := 0, w := 64, ty := .ro }]
  | .bayDlMissed => [{ lo := 0, w := 64, ty := .ro }]
  | .bayRebuilt => [{ lo := 0, w := 64, ty := .ro }]
  | .bayPrefixSts => [{ lo := 0, w := 17, ty := .ro }]
  | .queueSqCaps => [{ lo := 0, w := 19, ty := .ro, reset := 262144 }]
  | .queueCqCaps => [{ lo := 0, w := 17, ty := .ro, reset := 65536 }]
  | .queueCtxCaps => [{ lo := 0, w := 14, ty := .ro, reset := 8192 }]
  | .queueGableSts => [
      { lo := 0, w := 1, ty := .ro, reset := 1 },
      { lo := 1, w := 1, ty := .ro, reset := 1 },
      { lo := 2, w := 2, ty := .ro }]
  | .queueTakeoverTime => [{ lo := 0, w := 64, ty := .ro }]
  | .queueCmdsStarted => [{ lo := 0, w := 64, ty := .ro }]
  | .queueCtxMisses => [{ lo := 0, w := 64, ty := .ro }]
  | .queueInspectSel => [{ lo := 0, w := 18, ty := .rw }, { lo := 31, w := 1, ty := .rw }]
  | .queueInspectSts => [
      { lo := 0, w := 2, ty := .ro },
      { lo := 2, w := 4, ty := .ro },
      { lo := 6, w := 4, ty := .ro },
      { lo := 16, w := 16, ty := .ro }]
  | .bayId => [
      { lo := 0, w := 4, ty := .ro },
      { lo := 4, w := 1, ty := .ro },
      { lo := 5, w := 1, ty := .ro },
      { lo := 6, w := 1, ty := .ro }]
  | .bayWeight => [{ lo := 0, w := 8, ty := .ro, reset := 16 }]
  | .baySqBase => [{ lo := 0, w := 18, ty := .ro }]
  | .baySqCount => [{ lo := 0, w := 19, ty := .ro }]
  | .bayCqBase => [{ lo := 0, w := 16, ty := .ro }]
  | .bayCqCount => [{ lo := 0, w := 17, ty := .ro }]
  | .bayAdminCtrl => [
      { lo := 0, w := 1, ty := .rw },
      { lo := 8, w := 5, ty := .rw, reset := 6, ok := [(4, 16)] },
      { lo := 16, w := 5, ty := .rw, reset := 6, ok := [(4, 16)] }]
  | .bayAdminSts => [{ lo := 0, w := 2, ty := .ro }]
  | .bayAdminSqAddr => [{ lo := 0, w := 64, ty := .rw, al := 12 }]
  | .bayAdminCqAddr => [{ lo := 0, w := 64, ty := .rw, al := 12 }]
  | .bayAdminHeadAddr => [{ lo := 0, w := 64, ty := .rw, al := 3 }]
  | .bayEvqAddr => [{ lo := 0, w := 64, ty := .rw, al := 12 }]
  | .bayEvqCtrl => [{ lo := 0, w := 1, ty := .rw }, { lo := 8, w := 5, ty := .rw, reset := 6, ok := [(6, 16)] }]
  | .bayEvqHead => [{ lo := 0, w := 16, ty := .rw }]
  | .bayEvqLost => [{ lo := 0, w := 32, ty := .rc }]
  | .baySqsOpen => [{ lo := 0, w := 19, ty := .ro }]
  | .bayCqsOpen => [{ lo := 0, w := 17, ty := .ro }]
  | .bayDbRejects => [{ lo := 0, w := 64, ty := .ro }]
  | .bayCmdsDone => [{ lo := 0, w := 64, ty := .ro }]
  | .bayThatchNs => [{ lo := 0, w := 64, ty := .ro }]
  | .bayHighWaitMax => [{ lo := 0, w := 32, ty := .rc }]
  | .bayLongKernels => [{ lo := 0, w := 32, ty := .rc }]
  | .bayT1QuotaUsed => [{ lo := 0, w := 64, ty := .ro }]
  | .bayT1PoolUsed => [{ lo := 0, w := 64, ty := .ro }]
  | .bayT2Mapped => [{ lo := 0, w := 64, ty := .ro }]
  | .bayT3QuotaUsed => [{ lo := 0, w := 64, ty := .ro }]
  | .bayT3PoolUsed => [{ lo := 0, w := 64, ty := .ro }]
  | .bayT4QuotaUsed => [{ lo := 0, w := 64, ty := .ro }]
  | .bayT4PoolUsed => [{ lo := 0, w := 64, ty := .ro }]
  | .bayObjects => [{ lo := 0, w := 32, ty := .ro }]
  | .bayFaultedObjs => [{ lo := 0, w := 32, ty := .ro }]
  | .bayEvictedObjs => [{ lo := 0, w := 64, ty := .ro }]
  | .bayWritebackBytes => [{ lo := 0, w := 64, ty := .ro }]
  | .bayQuotaT1 => [{ lo := 0, w := 64, ty := .ro }]
  | .bayQuotaT2 => [{ lo := 0, w := 64, ty := .ro }]
  | .bayQuotaT3 => [{ lo := 0, w := 64, ty := .ro }]
  | .bayQuotaT4 => [{ lo := 0, w := 64, ty := .ro }]
  | .tierT1Capacity => [{ lo := 0, w := 64, ty := .ro }]
  | .tierT1PoolFree => [{ lo := 0, w := 64, ty := .ro }]
  | .tierT3Addr => [{ lo := 0, w := 64, ty := .rwl, al := 21 }]
  | .tierT3Bytes => [{ lo := 0, w := 64, ty := .rwl, al := 21 }]
  | .tierT3PoolFree => [{ lo := 0, w := 64, ty := .ro }]
  | .tierT4Bytes => [{ lo := 0, w := 64, ty := .rwl, al := 20 }]
  | .tierT4PoolFree => [{ lo := 0, w := 64, ty := .ro }]
  | .tierT4Ssds => [{ lo := 0, w := 4, ty := .ro }, { lo := 4, w := 3, ty := .ro }]
  | .tierT4Limit => [{ lo := 0, w := 64, ty := .ro }]
  | .reedlineIdent => [{ lo := 0, w := 15, ty := .rwl }, { lo := 16, w := 10, ty := .rwl }]
  | .reedlineLevel => [{ lo := 0, w := 16, ty := .ro }, { lo := 16, w := 16, ty := .ro }]
  | .reedlineIncarnation => [{ lo := 0, w := 32, ty := .ro }]
  | .reedlineRouteSel => [{ lo := 0, w := 15, ty := .rw }]
  | .reedlineRouteData => [
      { lo := 0, w := 5, ty := .rw, reset := 31, ok := [(0, 17), (31, 31)] },
      { lo := 8, w := 5, ty := .rw, reset := 31, ok := [(0, 17), (31, 31)] },
      { lo := 16, w := 5, ty := .rw, reset := 31, ok := [(0, 17), (31, 31)] },
      { lo := 24, w := 5, ty := .rw, reset := 31, ok := [(0, 17), (31, 31)] }]
  | .reedlinePeerOp => [{ lo := 0, w := 15, ty := .wo }, { lo := 16, w := 2, ty := .wo }]
  | .reedlinePeerSel => [{ lo := 0, w := 10, ty := .rw }]
  | .reedlinePeerInfo => [
      { lo := 0, w := 15, ty := .ro },
      { lo := 16, w := 10, ty := .ro },
      { lo := 26, w := 2, ty := .ro },
      { lo := 28, w := 1, ty := .ro },
      { lo := 32, w := 16, ty := .ro }]
  | .reedlinePeerSerial => [{ lo := 0, w := 64, ty := .ro }]
  | .reedlinePeers => [{ lo := 0, w := 11, ty := .ro }]
  | .reedlineLost => [{ lo := 0, w := 32, ty := .rc }]
  | .reedlineReroutes => [{ lo := 0, w := 64, ty := .ro }]
  | .reedlinePortCtrl => [{ lo := 0, w := 1, ty := .rw, reset := 1 }, { lo := 1, w := 1, ty := .wo }]
  | .reedlinePortSts => [
      { lo := 0, w := 2, ty := .ro },
      { lo := 2, w := 4, ty := .ro },
      { lo := 6, w := 2, ty := .ro },
      { lo := 8, w := 1, ty := .ro }]
  | .reedlinePortPartner => [
      { lo := 0, w := 15, ty := .ro },
      { lo := 16, w := 10, ty := .ro },
      { lo := 26, w := 5, ty := .ro },
      { lo := 31, w := 1, ty := .ro }]
  | .reedlinePortRtt => [{ lo := 0, w := 16, ty := .ro }]
  | .reedlinePortAsym => [{ lo := 0, w := 16, ty := .rw }]
  | .reedlinePortDowns => [{ lo := 0, w := 32, ty := .rc }]
  | .reedlinePortFecCorr => [{ lo := 0, w := 64, ty := .ro }]
  | .reedlinePortFecUncorr => [{ lo := 0, w := 64, ty := .ro }]
  | .reedlinePortReplays => [{ lo := 0, w := 64, ty := .ro }]
  | .reedlinePortTxBytes => [{ lo := 0, w := 64, ty := .ro }]
  | .reedlinePortRxBytes => [{ lo := 0, w := 64, ty := .ro }]
  | .reedlinePortCreditStall => [{ lo := 0, w := 64, ty := .ro }]
  | .ethConnSel => [{ lo := 0, w := 12, ty := .rw }]
  | .ethConnCtrl => [{ lo := 0, w := 2, ty := .wo }]
  | .ethConnCfg => [
      { lo := 0, w := 4, ty := .rw },
      { lo := 4, w := 2, ty := .rw },
      { lo := 6, w := 2, ty := .rw, reset := 2, ok := [(0, 2)] },
      { lo := 8, w := 3, ty := .ro }]
  | .ethConnLocalQpn => [{ lo := 0, w := 24, ty := .ro }]
  | .ethConnRemoteQpn => [{ lo := 0, w := 24, ty := .rw }]
  | .ethConnPsn => [{ lo := 0, w := 24, ty := .rw }]
  | .ethConnErr => [{ lo := 0, w := 8, ty := .ro }]
  | .ethConnGidLo => [{ lo := 0, w := 64, ty := .rw }]
  | .ethConnGidHi => [{ lo := 0, w := 64, ty := .rw }]
  | .ethPortCtrl => [
      { lo := 0, w := 1, ty := .rw },
      { lo := 1, w := 2, ty := .rw, ok := [(0, 2)] },
      { lo := 4, w := 8, ty := .rw },
      { lo := 12, w := 3, ty := .rw, reset := 3 }]
  | .ethPortSts => [{ lo := 0, w := 1, ty := .ro }]
  | .ethPortMac => [{ lo := 0, w := 48, ty := .rwl }]
  | .ethPortIpv4 => [{ lo := 0, w := 32, ty := .rwl }]
  | .ethPortIpv6Lo => [{ lo := 0, w := 64, ty := .rwl }]
  | .ethPortIpv6Hi => [{ lo := 0, w := 64, ty := .rwl }]
  | .ethPortTxBytes => [{ lo := 0, w := 64, ty := .ro }]
  | .ethPortRxBytes => [{ lo := 0, w := 64, ty := .ro }]
  | .ethPortCnpRx => [{ lo := 0, w := 64, ty := .ro }]
  | .ethPortRetrans => [{ lo := 0, w := 64, ty := .ro }]
  | .purlinNow => [{ lo := 0, w := 64, ty := .ro }]
  | .purlinCtrl => [
      { lo := 0, w := 1, ty := .rw },
      { lo := 1, w := 1, ty := .rw },
      { lo := 4, w := 5, ty := .rw, reset := 31, ok := [(0, 17), (31, 31)] }]
  | .purlinSts => [
      { lo := 0, w := 2, ty := .ro },
      { lo := 2, w := 1, ty := .ro },
      { lo := 4, w := 8, ty := .ro, reset := 255 }]
  | .purlinSet => [{ lo := 0, w := 64, ty := .wo }]
  | .purlinOffset => [{ lo := 0, w := 32, ty := .ro }]
  | .purlinErrEst => [{ lo := 0, w := 32, ty := .ro }]
  | .purlinPpsLast => [{ lo := 0, w := 64, ty := .ro }]
  | .purlinSteps => [{ lo := 0, w := 32, ty := .rc }]
  | .purlinHoldCtrl => [
      { lo := 0, w := 1, ty := .wo },
      { lo := 1, w := 1, ty := .wo },
      { lo := 2, w := 2, ty := .rw, reset := 1, ok := [(1, 2)] }]
  | .purlinHoldStart => [{ lo := 0, w := 64, ty := .rw }]
  | .purlinHoldEnd => [{ lo := 0, w := 64, ty := .rw }]
  | .purlinHoldSts => [
      { lo := 0, w := 1, ty := .ro },
      { lo := 1, w := 1, ty := .ro },
      { lo := 2, w := 1, ty := .ro }]
  | .purlinHoldCount => [{ lo := 0, w := 32, ty := .ro }]
  | .purlinHoldLate => [{ lo := 0, w := 32, ty := .rc }]
  | .purlinHoldLast => [{ lo := 0, w := 64, ty := .ro }]
  | .identPart => [
      { lo := 0, w := 16, ty := .ro, reset := 8242 },
      { lo := 16, w := 4, ty := .ro },
      { lo := 20, w := 4, ty := .ro }]
  | .identSerial => [{ lo := 0, w := 64, ty := .ro }]
  | .identClock => [{ lo := 0, w := 16, ty := .ro }]
  | .identPower => [{ lo := 0, w := 16, ty := .ro }]
  | .identSlot => [{ lo := 0, w := 6, ty := .ro }]
  | .identSts => [{ lo := 0, w := 1, ty := .ro }, { lo := 1, w := 1, ty := .ro }, { lo := 2, w := 1, ty := .ro }]
  | .identPubkeyX => [{ lo := 0, w := 64, ty := .ro }]
  | .identPubkeyY => [{ lo := 0, w := 64, ty := .ro }]
  | .hostifLinkSts => [
      { lo := 0, w := 3, ty := .ro },
      { lo := 3, w := 5, ty := .ro },
      { lo := 8, w := 1, ty := .ro },
      { lo := 9, w := 1, ty := .ro }]
  | .hostifLinkCtrl => [{ lo := 0, w := 1, ty := .wo }, { lo := 1, w := 3, ty := .rw, reset := 6, ok := [(1, 6)] }]
  | .hostifBar4Size => [{ lo := 0, w := 6, ty := .ro, reset := 36 }]
  | .hostifBar4Base => [{ lo := 0, w := 64, ty := .rw }]
  | .hostifBar4Faults => [{ lo := 0, w := 32, ty := .rc }]
  | .hostifErr => [
      { lo := 0, w := 1, ty := .rw1c },
      { lo := 1, w := 1, ty := .rw1c },
      { lo := 2, w := 1, ty := .rw1c },
      { lo := 3, w := 1, ty := .rw1c }]
  | .hostifCplTimeoutUs => [{ lo := 0, w := 24, ty := .rw, reset := 50000, ok := [(1000, 10000000)] }]
  | .hostifRxBytes => [{ lo := 0, w := 64, ty := .ro }]
  | .hostifTxBytes => [{ lo := 0, w := 64, ty := .ro }]
  | .hostifSideband => [
      { lo := 0, w := 1, ty := .ro },
      { lo := 1, w := 1, ty := .ro },
      { lo := 2, w := 1, ty := .ro },
      { lo := 3, w := 1, ty := .ro },
      { lo := 4, w := 1, ty := .ro },
      { lo := 5, w := 1, ty := .ro },
      { lo := 6, w := 1, ty := .ro }]
  | .fasciaMctpEid => [
      { lo := 0, w := 8, ty := .ro },
      { lo := 8, w := 8, ty := .ro },
      { lo := 16, w := 7, ty := .ro }]
  | .fasciaSpdmSts => [{ lo := 0, w := 1, ty := .ro }]
  | .fasciaSpdmChallenges => [{ lo := 0, w := 32, ty := .rc }]
  | .fasciaJtagSts => [{ lo := 0, w := 1, ty := .ro }]
  | .fasciaDieId => [{ lo := 0, w := 1, ty := .ro }]
  | .fasciaSpare => [{ lo := 0, w := 5, ty := .ro }, { lo := 5, w := 1, ty := .ro }]
  | .fasciaErr => [{ lo := 0, w := 1, ty := .rw1c }, { lo := 1, w := 1, ty := .rw1c }]
  | .fasciaPorts => [
      { lo := 0, w := 9, ty := .ro },
      { lo := 9, w := 2, ty := .ro },
      { lo := 11, w := 2, ty := .ro },
      { lo := 13, w := 1, ty := .ro }]
  | .nvmePortCtrl => [{ lo := 0, w := 1, ty := .rwl, reset := 1 }]
  | .nvmePortSts => [
      { lo := 0, w := 2, ty := .ro },
      { lo := 2, w := 3, ty := .ro },
      { lo := 5, w := 4, ty := .ro },
      { lo := 9, w := 1, ty := .ro }]
  | .nvmeSsdId => [{ lo := 0, w := 16, ty := .ro }, { lo := 16, w := 16, ty := .ro }]
  | .nvmeNsBytes => [{ lo := 0, w := 64, ty := .ro }]
  | .nvmeMdtsBytes => [{ lo := 0, w := 32, ty := .ro }]
  | .nvmeQueues => [{ lo := 0, w := 7, ty := .ro }, { lo := 7, w := 11, ty := .ro }]
  | .nvmeTimeoutMs => [{ lo := 0, w := 16, ty := .rw, reset := 8000, ok := [(100, 60000)] }]
  | .nvmeReads => [{ lo := 0, w := 64, ty := .ro }]
  | .nvmeWrites => [{ lo := 0, w := 64, ty := .ro }]
  | .nvmeReadBytes => [{ lo := 0, w := 64, ty := .ro }]
  | .nvmeWriteBytes => [{ lo := 0, w := 64, ty := .ro }]
  | .nvmeErrors => [{ lo := 0, w := 32, ty := .rc }]
  | .nvmeLastStatus => [{ lo := 0, w := 16, ty := .ro }]
  | .nvmePctUsed => [{ lo := 0, w := 8, ty := .ro }]
  | .nvmeUnitsWritten => [{ lo := 0, w := 64, ty := .ro }]
  | .bringCmd => [{ lo := 0, w := 8, ty := .wo }]
  | .bringSts => [
      { lo := 0, w := 1, ty := .ro },
      { lo := 1, w := 1, ty := .ro },
      { lo := 2, w := 1, ty := .ro },
      { lo := 3, w := 1, ty := .rw1c },
      { lo := 4, w := 1, ty := .ro },
      { lo := 5, w := 1, ty := .ro },
      { lo := 8, w := 8, ty := .ro },
      { lo := 16, w := 8, ty := .ro }]
  | .bringStepDone => [{ lo := 1, w := 12, ty := .ro }]
  | .bringStepRun => [{ lo := 1, w := 13, ty := .ro }]
  | .bringStacksTrained => [{ lo := 0, w := 32, ty := .ro }]
  | .bringStacksReady => [{ lo := 0, w := 32, ty := .ro }]
  | .bringPegDone => [{ lo := 0, w := 20, ty := .ro }]
  | .bringPegStacks => [{ lo := 0, w := 32, ty := .ro }]
  | .bringDefects => [{ lo := 0, w := 16, ty := .ro }, { lo := 16, w := 16, ty := .ro }]
  | .bringDefectSel => [{ lo := 0, w := 12, ty := .rw }]
  | .bringDefectData => [{ lo := 0, w := 32, ty := .ro }, { lo := 32, w := 1, ty := .ro }]
  | .bringFactorySts => [{ lo := 0, w := 1, ty := .ro }, { lo := 4, w := 12, ty := .ro }]
  | .bringLimitMhz => [{ lo := 0, w := 16, ty := .rw }]
  | .bringLimitW => [{ lo := 0, w := 16, ty := .rw }]
  | .bringFabricWaitMs => [{ lo := 0, w := 16, ty := .rw, reset := 500, ok := [(10, 60000)] }]
  | .bringLastUs => [{ lo := 0, w := 32, ty := .ro }]
  | .bringStageSts => [
      { lo := 0, w := 1, ty := .ro },
      { lo := 1, w := 1, ty := .ro },
      { lo := 16, w := 16, ty := .ro }]
  | .bringStageFloor => [{ lo := 0, w := 16, ty := .ro }]
  | .bringReloads => [{ lo := 0, w := 32, ty := .ro }]
  | .bringReloadSrUs => [{ lo := 0, w := 32, ty := .ro }]
  | .gableImageHash => [{ lo := 0, w := 64, ty := .ro }]
  | .gableImageBuild => [{ lo := 0, w := 64, ty := .ro }]
  | .gableDieId => [{ lo := 0, w := 1, ty := .ro }]
  | .gableSts => [{ lo := 0, w := 1, ty := .ro }, { lo := 1, w := 1, ty := .ro }, { lo := 2, w := 1, ty := .ro }]
  | .gableSpare => [
      { lo := 0, w := 6, ty := .ro },
      { lo := 6, w := 1, ty := .ro },
      { lo := 8, w := 6, ty := .ro },
      { lo := 14, w := 1, ty := .ro }]
  | .gableErr => [
      { lo := 0, w := 1, ty := .rw1c },
      { lo := 1, w := 1, ty := .rw1c },
      { lo := 2, w := 1, ty := .rw1c }]
  | .gableSramCorr => [{ lo := 0, w := 32, ty := .rc }]
  | .gableCmds => [{ lo := 0, w := 64, ty := .ro }]
  | .gableBusyCyc => [{ lo := 0, w := 64, ty := .ro }]
  | .powerSts => [
      { lo := 0, w := 2, ty := .ro },
      { lo := 2, w := 1, ty := .ro },
      { lo := 3, w := 1, ty := .ro },
      { lo := 4, w := 1, ty := .ro },
      { lo := 8, w := 6, ty := .ro }]
  | .powerVin => [{ lo := 0, w := 16, ty := .ro }]
  | .powerIin => [{ lo := 0, w := 16, ty := .ro }]
  | .powerPin => [{ lo := 0, w := 16, ty := .ro }]
  | .powerClock => [{ lo := 0, w := 16, ty := .ro }, { lo := 16, w := 16, ty := .ro }]
  | .powerLimit => [{ lo := 0, w := 16, ty := .ro }, { lo := 16, w := 1, ty := .ro, reset := 1 }]
  | .powerCreditJ => [{ lo := 0, w := 32, ty := .ro }]
  | .powerElecUs => [{ lo := 0, w := 32, ty := .ro }]
  | .powerTemp => [{ lo := 0, w := 8, ty := .ro }, { lo := 8, w := 8, ty := .ro }, { lo := 16, w := 8, ty := .ro }]
  | .powerTripCtrl => [{ lo := 0, w := 1, ty := .wo }]
  | .powerHolds => [{ lo := 0, w := 32, ty := .ro }]
  | .powerHoldLastUs => [{ lo := 0, w := 32, ty := .ro }]
  | .powerExhausted => [{ lo := 0, w := 32, ty := .ro }]
  | .powerEnergyJ => [{ lo := 0, w := 64, ty := .ro }]
  | .powerWearSts => [{ lo := 0, w := 1, ty := .ro }, { lo := 1, w := 10, ty := .ro }]
  | .powerWearBudgetTb => [{ lo := 0, w := 64, ty := .rw }]
  | .powerWearLifeEnd => [{ lo := 0, w := 64, ty := .rw }]
  | .errlogSeq => [{ lo := 0, w := 64, ty := .ro }]
  | .errlogCfg => [{ lo := 0, w := 1, ty := .rw }]
  | .errlogUncorr => [{ lo := 0, w := 32, ty := .rc }]
  | .errlogCorr => [{ lo := 0, w := 32, ty := .rc }]
  | .errlogUlStagingBytes => [
      { lo := 0, w := 64, ty := .rwl, reset := 17179869184, ok := [(4294967296, 274877906944)], al := 30 }]
  | .errlogUlCutWindowUs => [{ lo := 0, w := 16, ty := .rw, reset := 20, ok := [(4, 1000)] }]
  | .errlogUlSts => [{ lo := 0, w := 5, ty := .ro }]
  | .errlogUlStaged => [{ lo := 0, w := 64, ty := .ro }]
  | .errlogUlArea => [{ lo := 0, w := 64, ty := .ro }]
  | .errlogUlAreaFree => [{ lo := 0, w := 64, ty := .ro }]
  | .errlogUlTouches => [{ lo := 0, w := 64, ty := .ro }]
  | .errlogUlStallNs => [{ lo := 0, w := 64, ty := .ro }]
  | .errlogUlWritten => [{ lo := 0, w := 64, ty := .ro }]
  | .errlogUlLastDone => [{ lo := 0, w := 64, ty := .ro }]

/-- Every register, in pieces. -/
def regsPart0 : List Reg := [.bayNumcfg, .bayNumsts, .bayTrapCtrl, .bayTrapTag, .bayTrapOpidx, .bayTrapUnit, .bayTrapTile, .bayTrapTime, .bayTrapInfo, .bayTrapCount, .numstatCtrl, .numstatSts, .numstatDropped, .numstatDrifts, .numstatSatwin, .numstatSatfrac, .numstatRatioLo, .numstatRatioHi, .numstatEven, .numstatTableBytes, .thatchCfg, .thatchArrayCtrl, .thatchArraySts, .thatchSwitchTime, .thatchSwitchCount, .thatchSwitchNs, .thatchDieId, .thatchDieSpare, .thatchDieErr, .thatchActiveCyc, .thatchTileCyc, .thatchPasses, .thatchSrFolds, .thatchSparCyc, .thatchFeedStall, .thatchSpareMap, .lathDieId, .lathDieSpare, .lathSpareMap, .lathDieErr]
def regsPart1 : List Reg := [.lathVregCorr, .lathActiveCyc, .lathFmaCyc, .lathSfuCyc, .lathCxCyc, .lathLoftStall, .lathWaitCyc, .lathOps, .lathOptParams, .pfstatCtrl, .pfstatSummaryUs, .pfstatGrant, .pfstatIssued, .pfstatUsed, .pfstatLate, .pfstatEvicted, .pfstatDemand, .pfstatDropped, .pfstatStreams, .pfstatPendingDrops, .pfstatEngId, .pfstatEngIssued, .pfstatEngUsed, .pfstatEngLate, .pfstatEngEvicted, .pfstatEngDemand, .pfstatEngDropped, .pfstatEngBytesRd, .pfstatEngBytesWr, .pfstatEngConv, .pfstatEngPackIn, .pfstatEngPackOut, .pfstatEngErr, .eaveGemvCfg, .eaveHotEven, .eaveId, .eaveCfg, .eaveAgeNs, .eaveWinCfg, .eaveHotThresh]
def regsPart2 : List Reg := [.eaveScrubCfg, .eaveSts, .eaveHotCount, .eaveHotLast, .eaveHotTime, .eaveErr, .eaveHbmCorr, .eaveSramCorr, .eaveLaneSpares, .eavePegSpare, .eaveReads, .eaveWrites, .eaveMerged, .eaveRowHits, .eaveRowMisses, .eaveOvfEntries, .eaveIngressStall, .eaveDotCyc, .eaveAttPos, .eaveAttCancelled, .eaveGatherRows, .eaveScatterRows, .eaveRemoteBytes, .bayServeCfg, .bayServeEven, .baySpecSummaryUs, .bayServeLimit, .bayPrefixLimit, .bayServeSts, .bayServePoolVa, .bayServePoolBytes, .bayServePoolFree, .baySteps, .baySpecProposed, .baySpecAccepted, .baySpecRejected, .bayDlMasked, .bayDlFallback, .bayDlMissed, .bayRebuilt]
def regsPart3 : List Reg := [.bayPrefixSts, .queueSqCaps, .queueCqCaps, .queueCtxCaps, .queueGableSts, .queueTakeoverTime, .queueCmdsStarted, .queueCtxMisses, .queueInspectSel, .queueInspectSts, .bayId, .bayWeight, .baySqBase, .baySqCount, .bayCqBase, .bayCqCount, .bayAdminCtrl, .bayAdminSts, .bayAdminSqAddr, .bayAdminCqAddr, .bayAdminHeadAddr, .bayEvqAddr, .bayEvqCtrl, .bayEvqHead, .bayEvqLost, .baySqsOpen, .bayCqsOpen, .bayDbRejects, .bayCmdsDone, .bayThatchNs, .bayHighWaitMax, .bayLongKernels, .bayT1QuotaUsed, .bayT1PoolUsed, .bayT2Mapped, .bayT3QuotaUsed, .bayT3PoolUsed, .bayT4QuotaUsed, .bayT4PoolUsed, .bayObjects]
def regsPart4 : List Reg := [.bayFaultedObjs, .bayEvictedObjs, .bayWritebackBytes, .bayQuotaT1, .bayQuotaT2, .bayQuotaT3, .bayQuotaT4, .tierT1Capacity, .tierT1PoolFree, .tierT3Addr, .tierT3Bytes, .tierT3PoolFree, .tierT4Bytes, .tierT4PoolFree, .tierT4Ssds, .tierT4Limit, .reedlineIdent, .reedlineLevel, .reedlineIncarnation, .reedlineRouteSel, .reedlineRouteData, .reedlinePeerOp, .reedlinePeerSel, .reedlinePeerInfo, .reedlinePeerSerial, .reedlinePeers, .reedlineLost, .reedlineReroutes, .reedlinePortCtrl, .reedlinePortSts, .reedlinePortPartner, .reedlinePortRtt, .reedlinePortAsym, .reedlinePortDowns, .reedlinePortFecCorr, .reedlinePortFecUncorr, .reedlinePortReplays, .reedlinePortTxBytes, .reedlinePortRxBytes, .reedlinePortCreditStall]
def regsPart5 : List Reg := [.ethConnSel, .ethConnCtrl, .ethConnCfg, .ethConnLocalQpn, .ethConnRemoteQpn, .ethConnPsn, .ethConnErr, .ethConnGidLo, .ethConnGidHi, .ethPortCtrl, .ethPortSts, .ethPortMac, .ethPortIpv4, .ethPortIpv6Lo, .ethPortIpv6Hi, .ethPortTxBytes, .ethPortRxBytes, .ethPortCnpRx, .ethPortRetrans, .purlinNow, .purlinCtrl, .purlinSts, .purlinSet, .purlinOffset, .purlinErrEst, .purlinPpsLast, .purlinSteps, .purlinHoldCtrl, .purlinHoldStart, .purlinHoldEnd, .purlinHoldSts, .purlinHoldCount, .purlinHoldLate, .purlinHoldLast, .identPart, .identSerial, .identClock, .identPower, .identSlot, .identSts]
def regsPart6 : List Reg := [.identPubkeyX, .identPubkeyY, .hostifLinkSts, .hostifLinkCtrl, .hostifBar4Size, .hostifBar4Base, .hostifBar4Faults, .hostifErr, .hostifCplTimeoutUs, .hostifRxBytes, .hostifTxBytes, .hostifSideband, .fasciaMctpEid, .fasciaSpdmSts, .fasciaSpdmChallenges, .fasciaJtagSts, .fasciaDieId, .fasciaSpare, .fasciaErr, .fasciaPorts, .nvmePortCtrl, .nvmePortSts, .nvmeSsdId, .nvmeNsBytes, .nvmeMdtsBytes, .nvmeQueues, .nvmeTimeoutMs, .nvmeReads, .nvmeWrites, .nvmeReadBytes, .nvmeWriteBytes, .nvmeErrors, .nvmeLastStatus, .nvmePctUsed, .nvmeUnitsWritten, .bringCmd, .bringSts, .bringStepDone, .bringStepRun, .bringStacksTrained]
def regsPart7 : List Reg := [.bringStacksReady, .bringPegDone, .bringPegStacks, .bringDefects, .bringDefectSel, .bringDefectData, .bringFactorySts, .bringLimitMhz, .bringLimitW, .bringFabricWaitMs, .bringLastUs, .bringStageSts, .bringStageFloor, .bringReloads, .bringReloadSrUs, .gableImageHash, .gableImageBuild, .gableDieId, .gableSts, .gableSpare, .gableErr, .gableSramCorr, .gableCmds, .gableBusyCyc, .powerSts, .powerVin, .powerIin, .powerPin, .powerClock, .powerLimit, .powerCreditJ, .powerElecUs, .powerTemp, .powerTripCtrl, .powerHolds, .powerHoldLastUs, .powerExhausted, .powerEnergyJ, .powerWearSts, .powerWearBudgetTb]
def regsPart8 : List Reg := [.powerWearLifeEnd, .errlogSeq, .errlogCfg, .errlogUncorr, .errlogCorr, .errlogUlStagingBytes, .errlogUlCutWindowUs, .errlogUlSts, .errlogUlStaged, .errlogUlArea, .errlogUlAreaFree, .errlogUlTouches, .errlogUlStallNs, .errlogUlWritten, .errlogUlLastDone]

/-- Every register of the tables. -/
def allRegs : List Reg := regsPart0 ++ regsPart1 ++ regsPart2 ++ regsPart3 ++ regsPart4 ++ regsPart5 ++ regsPart6 ++ regsPart7 ++ regsPart8

/-- The BAR0 offset of instance `i` of a register (member `i % members` of unit `i / members`). -/
def Reg.addr (r : Reg) (i : Nat) : Nat :=
  let p := r.place
  p.base + i / p.members * p.stride + i % p.members * p.step

/-- A register's instances. -/
def Reg.instances (r : Reg) : Nat := r.place.count * r.place.members

/-- The resets that depend on the instance: die, stack and engine numbers and the engine of a Thatch die
(Tables 4-9, 5-8, 6-6, 7-10, 13-14, 16-15, 17-10; R11, R114). -/
def Reg.instReset (r : Reg) (i : Nat) : Nat :=
  match r with
  | .thatchDieId => i / 4 + 4 * (i % 4) + 16 * (if i < 4 then 1 else 2)
  | .lathDieId => i
  | .pfstatEngId => i % 16 + 16 * (i / 16)
  | .eaveId => i + 32 * (if i < 24 then i / 2 else 12 + (i - 24) / 2) + 1024 * (i % 2)
  | .bayId => i
  | .fasciaDieId => i
  | .gableDieId => i
  | .hostifSideband => 0x38
  | _ => 0

/-- The value of a register after reset (the Reset columns). -/
def Reg.reset (r : Reg) (i : Nat) : Nat :=
  r.fields.foldl (fun n f => setFld n f.lo f.w f.reset) 0 + r.instReset i

/-- Is `v` within the ranges a field states (R546)? -/
def RField.allows (f : RField) (v : Nat) : Bool :=
  (f.ok.isEmpty || f.ok.any fun r => inRange r.1 r.2 v) && aligned v f.al

/-- The register instance whose first byte or upper half lies at a BAR0 offset: the register, the instance and
whether the offset names the upper half of a 64-bit register. -/
def Reg.at? (r : Reg) (off : Nat) : Option (Nat × Bool) :=
  let p := r.place
  if off < p.base then none
  else
    let d := off - p.base
    let u := if p.stride = 0 then 0 else d / p.stride
    let e := if p.stride = 0 then d else d % p.stride
    let m := e / p.step
    if u < p.count then
      if p.members = 1 then
        (if e = 0 then some (u, false) else if e = 4 ∧ p.bits = 64 then some (u, true) else none)
      else if m < p.members then
        (if e % p.step = 0 then some (u * p.members + m, false)
         else if e % p.step = 4 then some (u * p.members + m, true) else none)
      else none
    else none

/-- Look an offset up in a list of registers. -/
def findRegIn : List Reg → Nat → Option (Reg × Nat × Bool)
  | [], _ => none
  | r :: l, off => match r.at? off with
    | some (i, hi) => some (r, i, hi)
    | none => findRegIn l off

/-- The register at a BAR0 offset, if any. -/
def findReg (off : Nat) : Option (Reg × Nat × Bool) := findRegIn allRegs off

end Sys2Proof.Machine
end

