-- ==== Sys2Proof/Machine/State.lean ====
section
/-!
DEFINITION. Machine/State.lean: everything the spec gives the module, as plain data: the registers, the
memories, the queues, the bays with what they own, the engines' work in progress, the fabric, the host side,
bring-up, power and recovery; and the state after reset.
Where the spec is silent or is read by inference: DESIGN CHOICE logs 1, 3, 4, 10, 61, 75 (notes/assumptions).
-/
namespace Sys2Proof.Machine

/-! ## Stops -/

/-- The faults of the block. The spec lets every event end in a state; none is raised. -/
inductive Fault where
  /-- Raised by no meaning: the spec names no event that stops the module for good. Safe. -/
  | never
  deriving DecidableEq, Repr

/-- The refusals of the block. -/
inductive Refusal where
  /-- Raised by an arm of `exec` that has no meaning yet: safe, the run stops. -/
  | notModelled (mnemonic : String)
  deriving DecidableEq, Repr

/-! ## Statistics (03) -/

/-- A statistics record slot (Table 3-1). Sums are FP64 codes, ABSMAX an FP32 code. -/
structure StatRec where
  tensorId : Nat := 0
  cls : Nat := 0
  valid : Bool := false
  isConst : Bool := false
  flushed : Bool := false
  drift : Bool := false
  alias_ : Bool := false
  learned : Bool := false
  mixed : Bool := false
  elemFmt : Nat := 0
  mode : Nat := 0
  /-- The block size of the last contribution, against which MIXED is judged. -/
  block : Nat := 0
  histBase : Nat := 0xD8
  elements : Nat := 0
  sse : Nat := 0
  absmax : Nat := 0
  layer : Nat := 0xFFFF
  blocks : Nat := 0
  constBlocks : Nat := 0
  zeroBlocks : Nat := 0
  satTotal : Nat := 0
  winSat : Nat := 0
  winElems : Nat := 0
  driftWindows : Nat := 0
  sumDw2 : Nat := 0
  sumW2 : Nat := 0
  lastTime : Nat := 0
  hist : SMap Nat := []
  deriving DecidableEq, Repr

/-- A layer slot (Table 3-2). -/
structure LayerSlot where
  sumDw2 : Nat := 0
  sumW2 : Nat := 0
  step : Nat := 0
  lastStep : Nat := 0
  lastRatio : Nat := 0
  isOpen : Bool := false
  low : Bool := false
  high : Bool := false
  nonfinite : Bool := false
  /-- A non-finite value arrived in the open step (R78). -/
  openNonfinite : Bool := false
  params : Nat := 0
  lastParams : Nat := 0
  lastTime : Nat := 0
  deriving DecidableEq, Repr

/-- A bay's statistics table (R67): 2^log2 record slots and 256 layer slots; slots not listed are as R68 sets them. -/
structure StatTable where
  log2 : Nat
  recs : SMap StatRec := []
  layers : SMap LayerSlot := []
  /-- The slots in which an uncorrectable memory error stands: whether a layer slot, and which (R94). No row sets one (log 73). -/
  bad : List (Bool × Nat) := []
  deriving DecidableEq, Repr

/-! ## Objects and mappings (14) -/

/-- Where an object's bytes can lie: a tier, and in T1 the device-physical base address of each page with the
stack placement that chose its stack (R405). -/
structure Loc where
  tier : Nat
  frames : List Nat := []
  firstStack : Nat := 0
  runLog2 : Nat := 0
  deriving DecidableEq, Repr

/-- A placement in progress (R406): its command's SQ, the tile size, the target's index among the object's
locations, the tiles still to land and those landed, the event counter, the tier, backing, residency and pin it ends with. -/
structure PlaceRun where
  sq : Nat
  tileBytes : Nat
  target : Nat
  total : Nat
  left : List Nat
  moved : Nat
  event : Nat
  tier : Nat
  backing : Nat
  pool : Bool
  pin : Bool
  /-- The move goes into the backing tier: only dirty granules are written (R408). -/
  intoBacking : Bool
  /-- The flash copy becomes a clean backing (R408). -/
  keepClean : Bool
  deriving DecidableEq, Repr

/-- An object (R401, R402). Bytes in T1 lie in HBM; bytes in T3 and T4 and the backing copy are held here, by
offset, unlisted bytes zero. `tileAt` gives the location of the granules that are not at the first location. -/
structure Obj where
  bay : Nat
  id : Nat
  size : Nat
  small : Bool
  home : Nat
  backing : Nat
  pool : Bool
  pin : Bool
  underlay : Bool
  exportMode : Nat
  key : Nat
  locs : List Loc
  tileAt : SMap Nat := []
  split : Bool := false
  fault : Bool := false
  faultOff : Option Nat := none
  faults : Nat := 0
  touched : Nat := 0
  /-- Dirty 64 KiB granules, ascending (R408). -/
  dirty : SMap Unit := []
  t3 : List Host.Cell := []
  t4 : List Host.Cell := []
  back : List Host.Cell := []
  /-- 64-byte granules of the T3 or T4 home or backing copy that answer reads with an error (R417). -/
  slowBad : SMap Unit := []
  place : Option PlaceRun := none
  /-- Peer modules that map the object, with the pages each maps (R415). -/
  peers : List (Nat × Nat) := []
  deriving DecidableEq, Repr

/-- A mapping of a bay's virtual space (R403, R414). `objBay` differs from the bay for a base granted by
GRANT_BASE (R386). `peer`: the owner module of a remote mapping. -/
structure Mapping where
  va : Nat
  bytes : Nat
  objBay : Nat
  objId : Nat
  off : Nat
  write : Bool
  prefetch : Bool
  small : Bool
  peer : Option Nat := none
  key : Nat := 0
  /-- The owner was declared lost (R415). -/
  lost : Bool := false
  deriving DecidableEq, Repr

/-! ## Commands and queues (13) -/

/-- A packet read and not started (R362, R374): its bytes as one number, and the status its header checks gave. -/
structure ReadPkt where
  pkt : Nat
  len : Nat
  early : Option Nat
  deriving DecidableEq, Repr

/-- A running or accepted command: its SQ and bay, its packet, the FLUSH bit latched at its start (R57), its start
time, whether it produced a NaN, the contributions it has gathered (R69), and the ranges of bay memory it uses
(R412). -/
structure Cmd where
  sq : Nat
  bay : Nat
  pkt : Nat
  flush : Bool
  /-- The bay's NaN trap was set when it started (R61). -/
  trapped : Bool := false
  started : Nat
  /-- Start order over all queues, for ties "by earlier start" (R392). -/
  order : Nat
  nan : Bool := false
  contribs : List Contrib := []
  uses : List (Nat × Nat) := []
  /-- The commands, by start order, that a FENCE waits for (R376). -/
  waits : List Nat := []
  /-- A FENCE named an SQ that its bay does not hold or that does not exist when it started (R376). -/
  fenceBad : Bool := false
  deriving DecidableEq, Repr

/-- A submission queue's context (R366, R367, R371, R374). `ready`: packets read and not started, in order. -/
structure Sq where
  bay : Nat
  admin : Bool
  ring : Nat
  log2 : Nat
  head : Nat := 0
  tail : Nat := 0
  headAddr : Nat
  cq : Nat
  /-- 1 ACTIVE, 2 ERROR, 3 DELETING (QUEUE_INSPECT_STS.STATE). -/
  st : Nat := 1
  cause : Nat := 0
  ready : List ReadPkt := []
  run : Option Cmd := none
  /-- Accepted deferred commands not yet completed, in acceptance order (R338, R375). -/
  deferred : List Cmd := []
  /-- Units have been read and the head not yet written (R369). -/
  headDue : Bool := false
  /-- The tail that it held when the host was lost (19 R538). -/
  stopTail : Option Nat := none
  deriving DecidableEq, Repr

/-- A completion waiting for its slots (R363, R365, R370). -/
structure Cpl where
  tag : Nat
  status : Nat
  sq : Nat
  result : Nat
  extra : Nat
  ext : Bool
  signal : Bool
  time : Nat
  deriving DecidableEq, Repr

/-- A completion queue's context. `pos` counts slots written and `rd` slots read since creation. -/
structure Cq where
  bay : Nat
  admin : Bool
  ring : Nat
  log2 : Nat
  vector : Nat
  coalCount : Nat := 0
  coalUs : Nat := 0
  pos : Nat := 0
  rd : Nat := 0
  unsignalled : Nat := 0
  st : Nat := 1
  cause : Nat := 0
  waiting : List Cpl := []
  deriving DecidableEq, Repr

/-- A bay's event queue (R388, R390): entries written and read since it was enabled, events lost since the last entry. -/
structure Evq where
  pos : Nat := 0
  rd : Nat := 0
  lost : Nat := 0
  /-- Entries written since vector 0 last fired (coalescing, R388). -/
  unsignalled : Nat := 0
  deriving DecidableEq, Repr

/-- A reduction handle's binding (10, R271). -/
structure Handle where
  accVa : Nat
  elements : Nat
  deriving DecidableEq, Repr

/-! ## KERNEL, Thatch operations and copies (04, 06, 13 R381, R549) -/

/-- A chunk that a STREAM has fetched (R181 to R183): by a prefetch; it has landed; it landed late; the consumer has passed it. -/
structure Chunk where
  pre : Bool
  landed : Bool := false
  late : Bool := false
  used : Bool := false
  deriving DecidableEq, Repr

/-- A STREAM copy (R181 to R184): the distance, epochs without a late chunk in a row, used and late chunks of the running epoch; the
chunks fetched and not yet both landed and passed, by index; the chunks dropped and not fetched; the chunks written, as the length of the
prefix (R179), and those beyond it. -/
structure StreamSt where
  dist : Nat
  calm : Nat := 0
  epochUsed : Nat := 0
  epochLate : Nat := 0
  /-- The next chunk to fetch. -/
  next : Nat := 0
  /-- Chunks that c has passed. -/
  passed : Nat := 0
  chunks : SMap Chunk := []
  dropped : List Nat := []
  written : Nat := 0
  ahead : List Nat := []
  deriving DecidableEq, Repr

/-- A Thatch operation in progress: the SR mode latched at its start (R100), the group table read then (R120), the
passes ended (R116), and the engine it runs on: first row unit and row units. -/
structure ThatchRun where
  srMode : Nat
  groups : List Nat
  passes : List Nat := []
  firstUnit : Nat
  units : Nat
  /-- The accumulator of a DEST REDUCE operation, as bound when it started (R271). -/
  accVa : Nat := 0
  /-- Loft ranges among its operands that a Lath operation has written meanwhile: their values are unspecified (R143). -/
  spoiled : List (Nat × Nat) := []
  deriving DecidableEq, Repr

/-- What an entry of a KERNEL has reached. -/
inductive EntrySt where
  /-- Not started. -/
  | waiting
  /-- A Thatch operation between its passes. -/
  | thatch (r : ThatchRun)
  /-- A LINEAR or STRIDED copy with work units landed. -/
  | copy (units : List Nat)
  /-- A STREAM copy. -/
  | stream (s : StreamSt)
  /-- Its work is finished; its end has not been processed (R549). -/
  | finished
  /-- It failed while it ran or at its start check; its end has not been processed. -/
  | failing (status : Nat)
  /-- It ended without failure. -/
  | ended
  /-- It failed and its end was processed. -/
  | failed (status : Nat)
  deriving DecidableEq, Repr

/-- An entry: its class (Table 13-7), its 256 bytes as one number, and what it has reached. -/
structure Entry where
  cls : Nat
  desc : Nat
  st : EntrySt := .waiting
  deriving DecidableEq, Repr

/-- A running KERNEL (R381, R382, R549): the image as read at its start, whether a deadline has stopped it. -/
structure KernelRun where
  sq : Nat
  entries : List Entry
  missed : Bool := false
  /-- First-course buffers its REDUCE operations use (R275). -/
  started : Nat
  deriving DecidableEq, Repr

/-- A COPY command's work units landed (R169). -/
structure CopyRun where
  sq : Nat
  units : List Nat := []
  deriving DecidableEq, Repr

/-- The array configuration switch (R109 to R111): the target of a pending or running switch, the target a TURN
holds, when the running switch started. -/
structure ArraySt where
  target : Nat := 0
  held : Option Nat := none
  since : Nat := 0
  deriving DecidableEq, Repr

/-- An error that has struck a Lath core (05 R132, Table 5-8): a bit or two of a vector register's word, the instruction buffer, the
Loft port, a statistics accumulator. -/
inductive LathUpset where
  | vregSingle | vregDouble | ibuf | port | stats
  deriving DecidableEq, Repr

/-- The state of a Lath core (05 R130): vector, mask and scalar registers, its statistics accumulators, in units of 2^-298, its
instruction buffer, and the errors that have struck it and that the next operation to run on it meets. Unlisted registers are zero; K0
always reads as all ones. -/
structure LathCore where
  v : SMap Nat := []
  k : SMap Nat := []
  s : SMap Nat := []
  acc0 : Nat := 0
  acc1 : Nat := 0
  buf : List Byte := []
  upsets : List LathUpset := []
  deriving DecidableEq, Repr

/-- A request to an Eave unit (07 R193 to R196): kind 0 READ, 1 WRITE, 2 ADD32; its granule within the stack, byte or word
mask and data; the tags of the requesters that its one access answers; the bay it is for; whether the unit's own engines
sent it; whether it is the patrol scrub's. -/
structure EReq where
  id : Nat
  kind : Nat
  granule : Nat
  mask : Nat := 0
  data : Nat := 0
  tags : List Nat := []
  bay : Option Nat := none
  own : Bool := false
  scrub : Bool := false
  /-- For each tag the NI that sent the request over the Batten network, none where an agent of the base die did. -/
  srcs : List (Option Nat) := []
  /-- When it arrived at the unit and when it entered the window. -/
  arrived : Nat
  entered : Nat := 0
  /-- It left the window, found no place and is back in it (R196). -/
  back : Bool := false
  /-- Its access has been issued to the stack. -/
  issued : Bool := false
  deriving DecidableEq, Repr

/-- An error that has struck an Eave unit and that the next operation to use what it struck will meet (R224): of a single bit or of two
bits in the local SRAM, of a single bit or of two in a request slot, of parity in the dot array, of parity in the adders. -/
inductive EaveUpset where
  | sramSingle | sramDouble | slotSingle | slotDouble | dot | adder
  deriving DecidableEq, Repr

/-- An Eave unit (R190): the local SRAM as the running operation left it (none keeps it, R203) and errors not yet met; and its front end (R190, R194 to R201): the ingress queue of its stack, the window, the slots and the overflow
lists, each in arrival order; the open row of each bank; banks whose refresh is due; since when a bank's overflow list has
been above THRESH; the hot banks; the next granule of the patrol scrub. -/
structure EaveUnit where
  sram : List Host.Cell := []
  upsets : List EaveUpset := []
  nextId : Nat := 0
  ingress : List EReq := []
  window : List EReq := []
  slots : List EReq := []
  ovf : List EReq := []
  rows : SMap Nat := []
  refresh : SMap Unit := []
  overSince : SMap Nat := []
  hot : SMap Unit := []
  scrubAt : Nat := 0
  deriving DecidableEq, Repr

/-- A unit of the scheduler (13 R391): its SQ and bay, its class and deadline (0 none), the start order of its command, the
roles it needs when the array is SPLIT, whether it is a KERNEL, and since when it is ready. -/
structure SUnit where
  sq : Nat
  bay : Nat
  high : Bool
  deadline : Nat
  order : Nat
  fwd : Bool
  bwd : Bool
  kernel : Bool
  since : Nat
  deriving DecidableEq, Repr

/-- The scheduler of the Thatch slots (13 R391 to R393): each bay's virtual time (in ns × 256 / weight, times `vtUnit`), the
ready units, the unit that holds each slot with the time it took it, and the SQ whose unit reserves each slot. -/
structure SchedSt where
  vt : SMap Nat := []
  ready : List SUnit := []
  slot0 : Option (SUnit × Nat) := none
  slot1 : Option (SUnit × Nat) := none
  reserved0 : Option Nat := none
  reserved1 : Option Nat := none
  deriving DecidableEq, Repr

/-- A page of an underlay set (19, R524 to R527), of the set with that serial number: 0 protected, 1 copied (on first touch into the
staging pool, as the `staged`-th page; or kept when its object was destroyed), 2 sealed, 3 stored; `data` holds its bytes as of the
cut once it is copied or sealed. -/
structure UlPage where
  set : Nat
  objBay : Nat
  objId : Nat
  page : Nat
  st : Nat
  staged : Option Nat := none
  data : List Host.Cell := []
  deriving DecidableEq, Repr

/-- An underlay set (19 Table 19-1): own or mirrored, the rank that took it, its state (1 WRITING, 2 COMPLETE, 3 FAILED), its objects, the
peer that mirrors it with its rank, what its take asked for (INTERVAL and MAX_LOST), and whether its pages have been protected, which
fixes its image. -/
structure UlSet where
  serial : Nat
  bay : Nat
  id : Nat
  mirrored : Bool := false
  rank : Nat := 0
  st : Nat := 1
  step : Nat
  cut : Nat
  objs : List UlAttr := []
  bytes : Nat := 0
  doneAt : Nat := 0
  lossValid : Bool := false
  loss : Nat := 0
  tokens : Nat := 0
  status : Nat := 0
  mirror : Option (Nat × Nat) := none
  interval : Nat := 1
  maxLost : Nat := 1
  shielded : Bool := false
  blanks : List (Nat × Nat × Nat) := []
  deriving DecidableEq, Repr

/-- What an NVMe command serves: a page of an underlay set, or a tile of the placement of an SQ's command. -/
inductive NvmeUse where
  | page (set obj page : Nat)
  | tile (sq order k : Nat)
  deriving DecidableEq, Repr

/-- An outstanding NVMe command (16 R465 to R468): its root port and identifier; a write or a read, of so many bytes; when it was sent;
when it was aborted. -/
structure NvmeCmd where
  port : Nat
  id : Nat
  write : Bool
  bytes : Nat
  at_ : Nat
  aborted : Option Nat := none
  use : NvmeUse
  deriving DecidableEq, Repr

/-- A pass of the first course on the die ring (10, R273, R275): BF16 values of accumulator elements, drained for entry `entry` of a
KERNEL: a message of class REDUCE from the die that drained them, `src`, to the die that owns them; the die where it is, and whether it
has a pass buffer there (a drain waits without one). -/
structure FirstPass where
  sq : Nat
  entry : Nat
  bay : Nat
  accVa : Nat
  elems : List (Nat × Nat)
  src : Nat
  owner : Nat
  die : Nat
  buf : Bool := true
  deriving DecidableEq, Repr

/-- The traffic classes of the Batten network (01 R15); each has its own virtual channel. -/
inductive TClass where
  | request | response | reduce | control
  deriving DecidableEq, Repr

/-- The number of a class. -/
def TClass.code : TClass → Nat
  | .request => 0 | .response => 1 | .reduce => 2 | .control => 3

/-- A message on the Batten network (01 R16): the unit identifiers of its source and destination NIs, its class, the die where it is,
and what it carries. -/
structure BMsg where
  src : Nat
  dst : Nat
  cls : TClass
  at_ : Nat
  words : List Nat
  deriving DecidableEq, Repr

/-- A range of a reduction plan (10, Table 10-3). -/
structure PlanRange where
  accOff : Nat
  segments : Nat
  lastLen : Nat
  ownerBase : Nat
  members : List Nat
  deriving DecidableEq, Repr

/-- What a part of a collective still waits for, or what a message of it is: kind 0 a partial sum, 1 a slice sum on its second
travel, 2 a form of the third course from entry `dom` of the domain list; of slice `slice` of segment `seg` of range `range`;
kind 3 the block of rank `range`. -/
structure CollKey where
  kind : Nat
  range : Nat
  seg : Nat := 0
  slice : Nat := 0
  dom : Nat := 0
  deriving DecidableEq, Repr

/-- A participant: DEVICE_ID, DOMAIN and BAY (Table 10-5). -/
structure Member where
  dev : Nat
  domain : Nat
  bay : Nat
  deriving DecidableEq, Repr

/-- A running part of REDUCE RUN (0x30), ALLGATHER (0x31) or ALLTOALL (0x32) (10 R287): what its packet, group and plan say; what
it waits for; the slice sums it owns; the forms that have come; the ranks that reported success; its own work is done; slices or
bytes written. -/
structure CollPart where
  sq : Nat
  bay : Nat
  order : Nat
  opcode : Nat
  tag : Nat
  group : List Member
  rank : Nat
  all : Bool := false
  method : Nat := 0
  kLog2 : Nat := 0
  src : Nat := 0
  dst : Nat := 0
  bytes : Nat := 0
  counts : Nat := 0
  efIn : Nat := 0
  efOut : Nat := 0
  plan : List PlanRange := []
  waits : List CollKey := []
  sums : List (CollKey × List Nat) := []
  forms : List (CollKey × Nat) := []
  ok : List Nat := []
  done : Bool := false
  nan : Bool := false
  written : Nat := 0
  deriving DecidableEq, Repr

/-- A message of a collective that has come and not been used: its bay and tag, what it is, and its payload. -/
structure CollMsg where
  bay : Nat
  tag : Nat
  key : CollKey
  len : Nat
  data : Nat
  deriving DecidableEq, Repr

/-- A resident sheaf (11 R294 to R304): class AUX, kind DELTA, its state (1 BUILDING, 2 PUBLISHED, 3 CURRENT, 4 DRAINING), pins
and those of HOLD among them, its region, the sheaves of its manifest that it pins once it is verified, since when its state is. -/
structure Sheaf where
  id : Nat
  aux : Bool := false
  delta : Bool := false
  st : Nat := 1
  pins : Nat := 0
  holds : Nat := 0
  regionVa : Nat
  regionBytes : Nat
  draft : Nat := 0
  fallback : Nat := 0
  baseBay : Nat := 0
  base : Nat := 0
  since : Nat := 0
  deriving DecidableEq, Repr

/-- A chain of a running TURN or CHAIN_BROADCAST in which this module takes part (11 R318): its members and this module's place; the
addresses of its bytes at the head and where this module stores them; the chunk it has reached and how often that one was asked
again; for network storage the connection, the expected CRC, the bytes of the chunk that lands and the chunks kept; where the
piece's CRC goes. -/
structure ChainRun where
  sq : Nat
  order : Nat
  idx : Nat
  piece : Nat
  members : List Nat
  pos : Nat
  stores : Bool
  src : Nat
  dst : Nat
  bytes : Nat
  next : Nat := 0
  tries : Nat := 0
  crcVa : Option Nat := none
  conn : Option Nat := none
  crc : Nat := 0
  buf : Nat := 0
  bufLen : Nat := 0
  kept : List Nat := []
  deriving DecidableEq, Repr

/-- A TURN or SHEAF_SWITCH in flight (11 R307 to R314): its direction, sheaf, switch time, guard and plan CRC; whether its ready report
has left; at rank 0 the ranks that are ready, what was decided and that it was sent; the decision this part holds as (commit,
status of an abort, when it came); time spent in holds since SWITCH_TIME; it has acted, with its lateness, and waits for the array. -/
structure TurnSt where
  sq : Nat
  order : Nat
  learn : Bool
  switch : Bool
  sheaf : Nat
  time : Nat
  guard : Nat
  crc : Nat := 0
  ready : Bool := false
  readyRanks : List Nat := []
  first : Option (Nat × Nat × Nat) := none
  decided : Bool := false
  decision : Option (Bool × Nat × Nat) := none
  paused : Nat := 0
  acted : Option Nat := none
  /-- UNDERLAY_TAKE: FORCE; a report was BLOCKED; one was DUE (19 R523). -/
  force : Bool := false
  blocked : Bool := false
  due : Bool := false
  deriving DecidableEq, Repr

/-- A report to the coordinator (R307): a rank's failure with its status, or its readiness. -/
structure ReadyMsg where
  bay : Nat
  tag : Nat
  rank : Nat
  fail : Option Nat
  sheaf : Nat
  time : Nat
  crc : Nat
  /-- BLOCKED in bit 0, DUE in bit 1 (19 R523). -/
  flags : Nat := 0
  deriving DecidableEq, Repr

/-! ## The fabric (15) -/

/-- A Reedline port below the frames (R423 to R426, R429): the next LINK_SEQ to send and the one expected; the flits not
acknowledged (LINK_SEQ, VC) and how often the first was replayed; frames that wait for credit as (VC, kind, words, payload
bytes); credits by VC; when the last flit came; the partner's accepted DISCOVER (512 bits), whether a switch forwarded it, and when
DISCOVER was last sent; the lanes with block lock. -/
structure RPort where
  txSeq : Nat := 0
  rxSeq : Nat := 0
  unacked : List (Nat × Nat) := []
  fails : Nat := 0
  queue : List (Nat × Nat × List Nat × Nat) := []
  credits : SMap Nat := []
  lastFlit : Nat := 0
  disc : Option Nat := none
  viaSwitch : Bool := false
  discAt : Nat := 0
  lock : Nat := 0
  deriving DecidableEq, Repr

/-- A peer (R430 to R432). `st`: 0 entered and not yet heard, 1 LIVE, 2 LOST, 3 REFUSED. -/
structure Peer where
  dev : Nat
  domain : Nat := 0
  st : Nat := 0
  direct : Bool := false
  level : Nat := 0
  floor : Nat := 0
  inc : Nat := 0
  serial : Nat := 0
  hops : Nat := 0xFF
  lastRx : Nat := 0
  deriving DecidableEq, Repr

/-- A frame sent and not acknowledged (R427, R433): the command it serves, as (SQ, start order), how often it was sent, when last
(or when it was made), and whether it waits for a route or for the end of a hold. -/
structure Frame where
  dst : Nat
  vc : Nat
  seq : Nat
  kind : Nat
  words : List Nat
  bytes : Nat
  cmd : Option (Nat × Nat) := none
  sends : Nat := 0
  sentAt : Nat
  waiting : Bool := true
  deriving DecidableEq, Repr

/-- A fabric hold (R447). -/
structure Hold where
  id : Nat
  origin : Nat
  start : Nat
  stop : Nat
  active : Bool := false
  deriving DecidableEq, Repr

/-- A peer memory request (R414): 0 read, 1 write, 2 map, 3 unmap, of bay `bay`'s object. -/
structure PeerReq where
  src : Nat
  tag : Nat
  op : Nat
  bay : Nat
  obj : Nat
  key : Nat
  off : Nat
  len : Nat
  data : Nat
  deriving DecidableEq, Repr

/-- An Ethernet connection (R438, R439). `st`: 0 FREE, 1 INIT, 2 RTS, 3 ERROR. `cuts`: rate reductions since CONNECT. -/
structure Conn where
  st : Nat := 0
  cfg : Nat := 0x80
  lqpn : Nat := 0
  rqpn : Nat := 0
  psn : Nat := 0
  err : Nat := 0
  gidLo : Nat := 0
  gidHi : Nat := 0
  cuts : Nat := 0
  deriving DecidableEq, Repr

/-- Time transfer (R442, R443): when the last request left and succeeded, its departure t1 in 1/16 ns, exchanges in a row within
2 ns, the slew still to make in 1/16 ns. -/
structure TimeSt where
  reqAt : Nat := 0
  okAt : Nat := 0
  t1 : Option Int := none
  close : Nat := 0
  slew : Int := 0
  deriving DecidableEq, Repr

/-- The fabric's state. `routes`: entries by DEVICE_ID as REEDLINE_ROUTE_DATA lays them out, unlisted ones without a port.
`txSeq`, `rxSeq`: by 4 × device + VC. -/
structure Fabric where
  ports : SMap RPort := []
  peers : List Peer := []
  routes : SMap Nat := []
  frames : List Frame := []
  txSeq : SMap Nat := []
  rxSeq : SMap Nat := []
  holds : List Hold := []
  /-- HOLD_IDs forwarded, with 1 for their release. -/
  seenHolds : List (Nat × Nat) := []
  /-- The HOLD_ID sent last. -/
  lastHold : Option Nat := none
  heldReqs : List PeerReq := []
  conns : SMap Conn := []
  time : TimeSt := {}
  hbAt : Nat := 0
  /-- Modules that are not peers whose loss was noticed, with their INCARNATION. -/
  gone : List (Nat × Nat) := []
  deriving DecidableEq, Repr

/-! ## Serving (12) -/

/-- A KV cache (08 R231): the AUX sheaf it is bound to (0: the main cache); its directory; LAYERS, KV_HEADS, HEAD_DIM's code, V_FMT
E2M1 and the positions its tables cover; COMMITTED; SCALE_SHEAF, 0 until its first step (R234). -/
structure KvCache where
  aux : Nat := 0
  dir : Nat
  layers : Nat
  heads : Nat
  dim : Nat
  e2m1 : Bool
  maxPos : Nat
  committed : Nat := 0
  scaleSheaf : Nat := 0
  deriving DecidableEq, Repr

/-- A token of a token list: known, or still at a VA of the bay (R336). -/
inductive Tok where
  | known (t : Nat)
  | at_ (va : Nat)
  deriving DecidableEq, Repr

/-- An accepted request of a sequence, or the build of a prefix handle (R338): its command, whether it generates, when it was
accepted, whether it is active; where its submitted tokens end; tokens emitted, acceptance rate, next draft length and last emission
(R349); a token came from the fallback phase. -/
structure SeqReq where
  cmd : Cmd
  generate : Bool
  accepted : Nat
  active : Bool := false
  stop : Nat := 0
  emitted : Nat := 0
  rate : Nat := 192
  draft : Nat := 0
  lastEmit : Option Nat := none
  fell : Bool := false
  deriving DecidableEq, Repr

/-- An open sequence, or a prefix handle being built or resident (R330, R357): `serial` tells it from earlier ones of its name.
Its policy, addition, the handle it was opened on; its ring, PRODUCED; the positions before its token list's first member here, and
that list; its caches, the main one first; the sheaf it is pinned to (0: none); whether its first step ran; the positions that the
main cache lacks since a fallback (R354); closed or dropped; its requests; pool ranges it owns as (VA, bytes), and reserved as
(start order of the request, page table entry, VA, bytes). -/
structure Seq where
  handle : Bool := false
  id : Nat
  serial : Nat
  pin : Bool := false
  addition : Nat := 0
  onHandle : Option Nat := none
  outVa : Nat := 0
  outRecords : Nat := 0
  maxPos : Nat
  produced : Nat := 0
  base : Nat := 0
  toks : List Tok := []
  caches : List KvCache
  sheaf : Nat := 0
  begun : Bool := false
  gapLo : Nat := 0
  gapHi : Nat := 0
  faulted : Bool := false
  closed : Bool := false
  reqs : List SeqReq := []
  own : List (Nat × Nat) := []
  resv : List (Nat × Nat × Nat × Nat) := []
  deriving DecidableEq, Repr

/-- How an entry of a step stands: it takes part; it is masked and its request has ended; it is masked and waits for the fallback
phase; the fallback phase gave it a token. -/
inductive EntryMask where
  | in_ | ended | fallback | fell
  deriving DecidableEq, Repr

/-- An entry of a step (R345): the sequence, its request's start order, its chunk and the drafts of its verify row set; the attention
outputs of its rows by row, layer and query head; drafts and draft logits; what ACCEPT and the limits decided: ACCEPTED, TOKEN, LAST, STOP. -/
structure StepEntry where
  serial : Nat
  order : Nat
  chunk : Nat
  verify : Option Nat
  outs : List (List (List (List Nat))) := []
  drafts : List Nat := []
  draftLogits : List (List Nat) := []
  mask : EntryMask := .in_
  accepted : Nat := 0
  token : Nat := 0
  last : Bool := false
  stop : Bool := false
  deriving DecidableEq, Repr

/-- A running STEP (R342, R343): BUDGET, steps left, MAX_SEQS, steps that ran with work; the running step: its sheaf (0: none yet), its
layers, its entries, and the check that is next: 0 when phase 2 starts, l + 1 before layer l. -/
structure StepRun where
  sq : Nat
  bay : Nat
  budget : Nat
  left : Nat
  maxSeqs : Nat
  ran : Nat := 0
  sheaf : Nat := 0
  layers : Nat := 0
  check : Nat := 0
  entries : List StepEntry := []
  deriving DecidableEq, Repr

/-! ## Power (18) and BAR4 (16) -/

/-- The governor and the power hold (18 R509 to R514). The thermal credit is held in units of 1 µJ / (2 × SUSTAINED_W); `elec`: the
samples above H in the trailing 100 ms, by time; the electrical window is used up; input energy in µJ; when the hold began, when its
resume count did; clock steps a throttle has taken off; the inlet closed the apex windows; since when its
samples read above 45 °C; a trip is not cleared; since when the samples, or the last raise of the clock, lie below 98 % of the ceiling;
arithmetic issue is withheld at the lowest clock. -/
structure PowerSt where
  credit : Nat := 0
  elec : List Nat := []
  elecUsed : Bool := false
  energy : Nat := 0
  holdAt : Nat := 0
  resumeAt : Option Nat := none
  steps : Nat := 0
  inletHot : Bool := false
  inletSince : Option Nat := none
  tripped : Bool := false
  belowSince : Option Nat := none
  withheld : Bool := false
  deriving DecidableEq, Repr

/-! ## The host link, management and bring-up (16, 17) -/

/-- The host side: functions in D3hot; the VFs are absent, since VF Enable has been cleared (16 R458); since when the data link is down; functions whose reset handshake waits, 16 for the
clearing of VF Enable; how far the SPDM negotiation has come (1 version, 2 capabilities, 3 algorithms); the JTAG instruction (0 BYPASS,
1 IDCODE, 2 SAMPLE/PRELOAD, 3 EXTEST, 4 CLAMP, 5 HIGHZ) and the boundary register; the numeric sensors 1 to 9 as last refreshed;
the highest speed common to both ends of the link. -/
structure HostSt where
  d3 : List Nat := []
  vfOff : Bool := false
  downAt : Option Nat := none
  flr : List Nat := []
  spdm : Nat := 0
  jtag : Nat := 1
  boundary : Nat := 0
  sensors : List Nat := []
  common : Nat := 0
  deriving DecidableEq, Repr

/-- A Gable image that LOAD_GABLE or RELOAD has taken (17 Table 17-1): LEVEL, FLOOR, BUILD, its SHA-256 and that of its peg microcode. -/
structure TakenImage where
  level : Nat
  floor : Nat
  build : Nat
  hash : Nat
  pegHash : Nat
  deriving DecidableEq, Repr

/-- Bring-up: when each running step (13: RELOAD) started, and in 14 when the last ready flag set; the DIE_TEST list, each unit with
whether it is new; the flashing map of the logical units that spares serve, by unit identifier; GD1 is out of service (R491); the image
taken last; since when the stacks are in self-refresh for a reload; the running peg microcode's hash and the variant record's
(measurements 3 and 4); FW_COMMITs that wait for their time, as (SQ, start order). -/
structure BringSt where
  started : SMap Nat := []
  defects : List (Nat × Bool) := []
  flash : SMap Nat := []
  image : Option TakenImage := none
  gd1Out : Bool := false
  selfRefresh : Option Nat := none
  pegHash : Nat := 0
  recHash : Nat := 0
  commits : List (Nat × Nat) := []
  deriving DecidableEq, Repr

/-! ## A bay (13, R383) -/

/-- The NaNs that a bay has produced in the last beat in which it produced any (02 R60): when, the record that they would make with the
lowest unit, whether units differ, and how many. -/
structure NanBeat where
  time : Nat
  tag : Nat
  opidx : Nat
  unit : Nat
  tile : Nat
  info : Nat
  multi : Bool
  count : Nat
  deriving DecidableEq, Repr

/-- What a bay owns beside its registers. -/
structure Bay where
  nanBeat : Option NanBeat := none
  counters : SMap Nat := []
  maps : List Mapping := []
  stats : Option StatTable := none
  evq : Evq := {}
  handles : SMap Handle := []
  /-- The bay is under RESET (R385). -/
  resetting : Bool := false
  /-- The source VA of the first stream drop of the summary interval, and when that interval began (R185). -/
  firstDrop : Option Nat := none
  summaryAt : Nat := 0
  /-- Pages of the bay's space that the Bylliroth keeps read-only, as (VA, bytes) (R240, R298, R386). -/
  ro : List (Nat × Nat) := []
  /-- The underlay interval in force, in steps; 0 before the first underlay (18 R516). -/
  ulInterval : Nat := 0
  /-- What the last evaluation of the wear asks for, in steps, before the bounds of R516; 0 nothing, 2^32 more than any bound. -/
  ulNeed : Nat := 0
  /-- Resident sheaves. -/
  sheaves : List Sheaf := []
  /-- Open sequences, prefix handles, and closed ones that a running step still holds. -/
  seqs : List Seq := []
  /-- BAY_SPEC_REJECTED and BAY_SPEC_PROPOSED at the end of the last summary interval (R351). -/
  specMark : Nat × Nat := (0, 0)
  deriving DecidableEq, Repr

/-! ## The module -/

/-- Where a message leaves the module. -/
inductive Port where
  | host | reedline | ethernet | nvme | management | sideband | jtag
  deriving DecidableEq, Repr

/-- A message the module has sent: where it leaves, its kind and its words. The spec's
frames and answers are handed to their ports here; only later messages follow. -/
structure Sent where
  port : Port
  kind : Nat
  words : List Nat
  deriving DecidableEq, Repr

/-- The module but for the queue of waiting commands and the limits. -/
structure Dev where
  /-- Purlin time in ns (PURLIN_NOW). -/
  now : Nat := 0
  /-- The MODEL's own counter for free values. -/
  free : Nat := 0
  /-- The register file by BAR0 offset; unlisted registers hold their Reset value. -/
  regs : SMap Nat := []
  /-- The latched upper half of the 64-bit register read last by its low half, and the lower halves written (R7). -/
  readLatch : SMap Nat := []
  writeLatch : SMap Nat := []
  /-- MSI-X table words by (function × 0x1000 + byte offset); unlisted words are 0, vector control 1 (masked). -/
  msix : SMap Nat := []
  /-- Pending bits by (function × 128 + vector). -/
  msixPending : SMap Unit := []
  hbm : List Host.Cell := []
  /-- 64-byte HBM granules that hold an uncorrectable error, by granule number. -/
  hbmBad : SMap Unit := []
  loft : List Host.Cell := []
  /-- 8-byte Loft words that hold an uncorrectable error, by word number (R161). -/
  loftBad : SMap Unit := []
  /-- 8-byte Loft words that hold a single-bit error (R161). -/
  loftSoft : SMap Unit := []
  hostMem : List Host.Cell := []
  /-- Host pages (4 KiB) the host answers no access to. -/
  hostBad : SMap Unit := []
  stage : List Host.Cell := []
  objs : List Obj := []
  /-- Bytes of peers' objects as their owners last answered: (owner × 2^80 + OBJ_ID × 2^40 + offset). -/
  peerMem : List Host.Cell := []
  bays : List Bay := List.replicate 16 {}
  sqs : SMap Sq := []
  cqs : SMap Cq := []
  kernels : List KernelRun := []
  copies : List CopyRun := []
  /-- Running STEPs. -/
  steps : List StepRun := []
  arr : ArraySt := {}
  sched : SchedSt := {}
  /-- Queue contexts cached on each Gable die, most recently used first (R373). -/
  cache0 : List Nat := []
  cache1 : List Nat := []
  /-- Checks each Gable die has missed in a row (R394). -/
  misses0 : Nat := 0
  misses1 : Nat := 0
  startOrder : Nat := 0
  /-- The error ring (R543): records as 64-byte numbers by slot. -/
  errRing : SMap Nat := []
  /-- When a correctable error of a unit was last recorded (19 R543). -/
  corrAt : SMap Nat := []
  /-- Messages sent, oldest first, and the bytes or value the last read or request was answered with. -/
  sent : List Sent := []
  reply : List Nat := []
  /-- Lath cores by module core number (R129); unlisted cores are as after reset. -/
  lath : SMap LathCore := []
  /-- Copy engines that a parity error has struck and that the next copy to run on them meets (R189). -/
  engUpset : SMap Unit := []
  /-- The front ends of the Eave units by stack; unlisted ones are idle. -/
  eave : SMap EaveUnit := []
  /-- Pages of the underlay sets being written or held, own and mirrored. -/
  ulPages : List UlPage := []
  ulSets : List UlSet := []
  ulSerial : Nat := 0
  nvme : List NvmeCmd := []
  nvmeId : Nat := 0
  /-- Controller resets: root port and time (16 R468). -/
  nvmeResets : List (Nat × Nat) := []
  /-- Underlays completed, the newest last: when, and the bytes written to each member (18 R516). -/
  wear : List (Nat × List Nat) := []
  /-- First-course passes in flight (R273, R275). -/
  passes : List FirstPass := []
  /-- Messages on the Batten network, oldest first, those delivered in the last beat, and the UCIe modules that each link has dropped,
  by `linkKey` (01 R15, R16, R20). -/
  batten : List BMsg := []
  delivered : List BMsg := []
  linkDropped : SMap Nat := []
  /-- Running parts of collectives, and messages of collectives that wait for their part or for the engines. -/
  parts : List CollPart := []
  collIn : List CollMsg := []
  /-- Reports that came for a part not yet issued: bay, tag, rank, status (R290). -/
  collReports : List (Nat × Nat × Nat × Nat) := []
  chains : List ChainRun := []
  turns : List TurnSt := []
  /-- Reports to the coordinator and decisions that came for a part not yet issued: a decision is (bay, tag, commit, status). -/
  readyIn : List ReadyMsg := []
  decisionIn : List (Nat × Nat × Bool × Nat) := []
  /-- Grants of bay 0's sheaves: (SHEAF_ID, bay) (13 R386). -/
  baseGrants : List (Nat × Nat) := []
  /-- A TURN has completed and the deferred tests are due (19 R541). -/
  turnEnded : Bool := false
  /-- The fabric, Ethernet connections, time transfer and holds (15). -/
  fab : Fabric := {}
  /-- 64-byte granules of peers' objects that the owner answered with an error, by `peerKey / 64`. -/
  peerBad : SMap Unit := []
  pow : PowerSt := {}
  /-- BAR4 accesses that came in a hold, oldest first: VA, bytes, and the value of a write (16 Table 16-5). -/
  bar4 : List (Nat × Nat × Option Nat) := []
  /-- A FULL self-test waits for the next TURN: its SQ, bay, tag and unit identifier (19 R541). -/
  deferredTests : List (Nat × Nat × Nat × Nat) := []
  host : HostSt := {}
  bring : BringSt := {}
  deriving DecidableEq, Repr

/-- The limits of R3: the variant record's clock (MHz) and sustained power (W), the host's caps, and the clock
and power limits in force. -/
structure Limits where
  recClock : Nat := 0
  recPower : Nat := 0
  /-- APEX_ELEC_W and APEX_THERM_W of the record. -/
  recElec : Nat := 0
  recTherm : Nat := 0
  clockLimit : Nat := 0
  powerLimit : Nat := 0
  /-- The clock the governor has set; the arithmetic clock is half of it in early service and stands in Sarking mode. -/
  clock : Nat := 0
  deriving DecidableEq, Repr

/-- The state of the block: the commands that wait, first in, first out; the limits; everything else. -/
structure State where
  pending : List Instr := []
  lim : Limits := {}
  dev : Dev := {}
  deriving DecidableEq, Repr

/-- The module right after reset: every register at its Reset column, no memory written, no queue, no object, the
array SPLIT (R114), nothing waiting. -/
def State.reset : State := {}

end Sys2Proof.Machine
end

