-- ==== Sys2Proof/Machine/Ops.lean ====
section
/-!
DEFINITION. Machine/Ops.lean: the named operations over the module that the meanings share: registers, the
memories, translation, events and MSI-X, error records, completions and the NaN trap.
Where the spec is silent or is read by inference: DESIGN CHOICE logs 3, 4, 6, 16, 45, 51, 73, 75, 78; PRESUMED log 12; DEDUCED logs 47, 59 (notes/assumptions).
-/
namespace Sys2Proof.Machine

/-- What a command answers with. -/
abbrev Out := Host.Outcome State Fault Refusal

/-- A command whose effect is on the module alone: the next state has that module. -/
def State.go (s : State) (f : Dev → Dev) : Out := .next { s with dev := f s.dev }

/-! ## Status codes (13, Table 13-12) -/

def stOk : Nat := 0x0000
def stDeadline : Nat := 0x0010
def stFallback : Nat := 0x0011
def stBusy : Nat := 0x0020
def stDeferred : Nat := 0x0021
def stBadOpcode : Nat := 0x0100
def stBadParam : Nat := 0x0101
def stNoPerm : Nat := 0x0102
def stQuota : Nat := 0x0103
def stNotMapped : Nat := 0x0104
def stNanTrap : Nat := 0x0200
def stUncorr : Nat := 0x0201
def stLinkLost : Nat := 0x0202
def stPeerLost : Nat := 0x0203
def stVersionFloor : Nat := 0x0204
def stAborted : Nat := 0x0300
def stPowerHold : Nat := 0x0301
def stReplayMismatch : Nat := 0x0400

/-! ## Registers (00 R6 to R9) -/

/-- The value of a register instance. -/
def Dev.rd (d : Dev) (r : Reg) (i : Nat := 0) : Nat := (smFind d.regs (r.addr i)).getD (r.reset i)

/-- Set a register instance; the value it holds after reset is not listed. -/
def Dev.wr (d : Dev) (r : Reg) (i v : Nat) : Dev :=
  { d with regs := smSet (r.reset i) d.regs (r.addr i) (v % 2 ^ r.place.bits) }

/-- A field of a register. -/
def Dev.fd (d : Dev) (r : Reg) (i lo w : Nat) : Nat := fld (d.rd r i) lo w

/-- Set a field of a register. -/
def Dev.sf (d : Dev) (r : Reg) (i lo w v : Nat) : Dev := d.wr r i (setFld (d.rd r i) lo w v)

/-- Is a bit of a register set? -/
def Dev.rbit (d : Dev) (r : Reg) (i lo : Nat) : Bool := bitAt (d.rd r i) lo

/-- Set or clear one bit of a register. -/
def Dev.sb (d : Dev) (r : Reg) (i lo : Nat) (b : Bool) : Dev := d.sf r i lo 1 (if b then 1 else 0)

/-- Add to a register that wraps at its width (the 64-bit counters). -/
def Dev.addW (d : Dev) (r : Reg) (i k : Nat) : Dev := d.wr r i (addWrap r.place.bits (d.rd r i) k)

/-- Add to a register that saturates at its width. -/
def Dev.addS (d : Dev) (r : Reg) (i k : Nat) : Dev := d.wr r i (addSat r.place.bits (d.rd r i) k)

/-- Subtract from a register, not below 0. -/
def Dev.subR (d : Dev) (r : Reg) (i k : Nat) : Dev := d.wr r i (d.rd r i - k)

/-! ## Modes -/

/-- BRING READY (R497). -/
def Dev.ready (d : Dev) : Bool := d.rbit .bringSts 0 0

/-- Early service (R496). -/
def Dev.early (d : Dev) : Bool := d.rbit .bringSts 0 1

/-- A live reload is in progress (R501). -/
def Dev.reloading (d : Dev) : Bool := d.rbit .bringSts 0 4

/-- POWER_STS.STATE is NORMAL, HOLD or SARKING (R509, R518). -/
def Dev.powerState (d : Dev) : Nat := d.fd .powerSts 0 0 2

/-- Sarking mode (R518). -/
def Dev.sarking (d : Dev) : Bool := d.powerState == 2

/-- Power hold (R509). -/
def Dev.powerHold (d : Dev) : Bool := d.powerState == 1

/-- The module is held by HOLD_IN_N or a HOLD frame (R445 to R448). -/
def Dev.held (d : Dev) : Bool := d.rbit .purlinHoldSts 0 0

/-- The stacks are in self-refresh for a reload (R501). -/
def Dev.refreshing (d : Dev) : Bool := d.bring.selfRefresh.isSome

/-- The engines run: neither power hold, nor HOLD, nor Sarking mode, nor the self-refresh of a reload stops them (R126, R145, R446, R501). -/
def Dev.enginesRun (d : Dev) : Bool := !d.sarking && !d.powerHold && !d.held && !d.refreshing && (d.ready || d.early)

/-- Is a Lath die of a mask there to work (0: any; R496)? -/
def Dev.diesUp (d : Dev) (mask : Nat) : Bool :=
  d.ready || mask == 0 || [0, 1, 2, 3].any fun i => bitAt mask i && d.rbit .bringPegDone 0 (12 + i)

/-- Does step code `c` of Table 17-3 stand DONE? -/
def Dev.stepDone (d : Dev) (c : Nat) : Bool := d.rbit .bringStepDone 0 c

/-! ## Bays -/

/-- A bay's own state. -/
def Dev.bay (d : Dev) (b : Nat) : Bay := (d.bays[b]?).getD {}

/-- Change a bay's own state. -/
def Dev.modBay (d : Dev) (b : Nat) (f : Bay → Bay) : Dev := { d with bays := modAt d.bays b f }

/-- The bay's function may use its queues (BAY_CONFIG ENABLE, R384; bay 0 in early service, R496). -/
def Dev.enabled (d : Dev) (b : Nat) : Bool := d.rbit .bayId b 4 || (b == 0 && d.early && !d.ready)

/-- The enabled bays, ascending. -/
def Dev.enabledBays (d : Dev) : List Nat := (upFrom 0 16).filter d.enabled

/-- Does bay `b` hold SQ `q` (R366)? In early service bay 0 holds them all, as it will at READY. -/
def Dev.holdsSq (d : Dev) (b q : Nat) : Bool :=
  if b = 0 ∧ d.early ∧ !d.ready then decide (q < 262144) else
  let base := d.rd .baySqBase b
  decide (base ≤ q) && decide (q < base + d.rd .baySqCount b)

/-- Does bay `b` hold CQ `c` (R366)? -/
def Dev.holdsCq (d : Dev) (b c : Nat) : Bool :=
  if b = 0 ∧ d.early ∧ !d.ready then decide (c < 65536) else
  let base := d.rd .bayCqBase b
  decide (base ≤ c) && decide (c < base + d.rd .bayCqCount b)

/-- The bay's NaN trap is set (R59). -/
def Dev.trapped (d : Dev) (b : Nat) : Bool := d.rbit .bayNumsts b 1

/-! ## Byte memories -/

/-- The canonical form of a memory: addresses rising, and no entry 0, which is what an unlisted byte reads as. -/
abbrev Memory.wf (m : List Host.Cell) : Bool := smWf 0 m

/-- The `n` bytes of a memory from address `a`; unlisted bytes read as zero. -/
def readBytes (m : List Host.Cell) : Nat → Nat → List Byte
  | _, 0 => []
  | a, n + 1 => smGet 0 m a :: readBytes m (a + 1) n

/-- Write bytes from address `a`. -/
def writeBytes (m : List Host.Cell) : Nat → List Byte → List Host.Cell
  | _, [] => m
  | a, x :: r => writeBytes (smSet 0 m a x) (a + 1) r

/-- Drop every byte of `[a, a + n)`. -/
def clearRange (m : List Host.Cell) (a n : Nat) : List Host.Cell :=
  m.filter fun c => decide (c.1 < a) || decide (a + n ≤ c.1)

/-- The listed bytes of `[a, a + n)`, by offset from `a`. -/
def sliceRange (m : List Host.Cell) (a n : Nat) : List Host.Cell :=
  (m.filter fun c => decide (a ≤ c.1) && decide (c.1 < a + n)).map fun c => (c.1 - a, c.2)

/-- Put listed bytes, by offset from `a`, into the cleared range `[a, a + n)`. -/
def putRange (m : List Host.Cell) (a n : Nat) (s : List Host.Cell) : List Host.Cell :=
  s.foldl (fun m c => smSet 0 m (a + c.1) c.2) (clearRange m a n)

/-- Is any number of `[lo, hi]` listed? -/
def anyIn (s : SMap Unit) (lo hi : Nat) : Bool := s.any fun e => decide (lo ≤ e.1) && decide (e.1 ≤ hi)

/-! ## Messages -/

/-- Send a message by a port (see `Sent`). -/
def Dev.send (d : Dev) (port : Port) (kind : Nat) (words : List Nat) : Dev := { d with sent := d.sent ++ [⟨port, kind, words⟩] }

/-- The host bus, seen from the module: are all pages of `[a, a + n)` answered, and is the host there (R456, R457)? -/
def Dev.hostOk (d : Dev) (a n : Nat) : Bool :=
  !anyIn d.hostBad (a / 4096) ((a + n - 1) / 4096) && !d.rbit .hostifErr 0 3

/-- A read of host memory: `none` when the host does not answer it or answers with an error. -/
def Dev.hostRead (d : Dev) (a n : Nat) : Option (List Byte) :=
  if d.hostOk a n then some (readBytes d.hostMem a n) else none

/-- TLP payload that the module sends to the host and receives from it (16 Table 16-14). -/
def Dev.tx (d : Dev) (n : Nat) : Dev := d.addW .hostifTxBytes 0 n
def Dev.rx (d : Dev) (n : Nat) : Dev := d.addW .hostifRxBytes 0 n

/-- A posted write to host memory; dropped after the loss of the host (19 R538). -/
def Dev.hostWrite (d : Dev) (a : Nat) (bs : List Byte) : Dev :=
  if d.rbit .hostifErr 0 3 then d else { d with hostMem := writeBytes d.hostMem a bs }.tx bs.length

/-- Is the function of bay `b` there (16 R458)? The VFs are absent once VF Enable has been cleared. -/
def Dev.functionThere (d : Dev) (b : Nat) : Bool := b == 0 || !d.host.vfOff

/-- A write to host memory by the function of bay `b`; a bay whose function is absent writes nothing to the host (16 R458). -/
def Dev.hostWriteOf (d : Dev) (b a : Nat) (bs : List Byte) : Dev := if d.functionThere b then d.hostWrite a bs else d

/-! ## MSI-X (13 R398) -/

/-- An MSI-X table word of function `f`: vector control is 1 (masked) until written. -/
def Dev.msixWord (d : Dev) (f off : Nat) : Nat :=
  (smFind d.msix (f * 0x1000 + off)).getD (if off % 16 = 12 then 1 else 0)

/-- Signal vector `v` of function `f`: a message write where the vector is not masked, else its pending bit. -/
def Dev.signal (d : Dev) (f v : Nat) : Dev :=
  if bitAt (d.msixWord f (16 * v + 12)) 0 then { d with msixPending := smPut d.msixPending (f * 128 + v) () }
  else
    d.hostWriteOf f (d.msixWord f (16 * v) + 2 ^ 32 * d.msixWord f (16 * v + 4)) (toLe 4 (d.msixWord f (16 * v + 8)))

/-! ## Events (13 R388 to R390) -/

/-- The phase of a ring's slot when `pos` slots have been written before it (R364). -/
def phaseOf (log2 pos : Nat) : Nat := 1 - pos / 2 ^ log2 % 2

/-- Raise an event in a bay: an entry is written, or the event is lost and counted (R390). -/
def Dev.event (d : Dev) (b code data extra : Nat) : Dev :=
  let log2 := d.fd .bayEvqCtrl b 8 5
  let e := (d.bay b).evq
  if !d.rbit .bayEvqCtrl b 0 || decide (e.pos - e.rd ≥ 2 ^ log2 - 1) then
    (d.addS .bayEvqLost b 1).modBay b fun x => { x with evq := { e with lost := addSat 32 e.lost 1 } }
  else
    let entry := mkFields [(0, 16, code), (16, 1, phaseOf log2 e.pos), (32, 32, data), (64, 64, extra),
      (128, 64, d.now), (192, 32, e.lost)]
    (d.hostWriteOf b (d.rd .bayEvqAddr b + 32 * (e.pos % 2 ^ log2)) (toLe 32 entry)).modBay b fun x =>
      { x with evq := { e with pos := e.pos + 1, lost := 0, unsignalled := e.unsignalled + 1 } }

/-- Raise an event in every enabled bay. -/
def Dev.eventAll (d : Dev) (code data extra : Nat) : Dev :=
  d.enabledBays.foldl (fun d b => d.event b code data extra) d

/-! ## Error records (19 R543) -/

/-- A unit identifier (Table 1-5). -/
def unitId (site cls index : Nat) : Nat := mkFields [(0, 8, site), (8, 4, cls), (16, 12, index)]

/-- The unit identifier of the module as a whole (Table 1-6). -/
def unitModule : Nat := 0xFF

/-- The bank number of a granule within its stack (R192). -/
def bankOf (g : Nat) : Nat := fld g 0 5 * 128 + fld g 5 1 * 64 + fld g 14 2 * 16 + fld g 12 2 * 4 + fld g 10 2

/-- What an error record says beside its number, time and severity (Table 19-8). -/
structure ErrRec where
  kind : Nat
  bay : Option Nat := none
  unit : Nat := unitModule
  addr : Nat := 2 ^ 64 - 1
  tag : Nat := 0
  queue : Nat := 0
  opcode : Nat := 0
  status : Nat := 0
  detail0 : Nat := 0
  detail1 : Nat := 0
  deriving DecidableEq, Repr

/-- The severity of a record: 2 UNCORRECTABLE and 1 CORRECTED for memory errors; the spec names none for the other kinds. -/
def severity (kind : Nat) : Nat := if kind = 0x0001 then 2 else if kind = 0x0002 then 1 else Config.severity kind % 4

/-- Write an error record into the ring of 64 slots (R543). -/
def Dev.record (d : Dev) (e : ErrRec) : Dev :=
  let seq := d.rd .errlogSeq 0 + 1
  let rec0 := mkFields [(0, 64, seq), (64, 64, d.now), (128, 16, e.kind), (144, 2, severity e.kind),
    (152, 4, e.bay.getD 0), (156, 1, if e.bay.isSome then 1 else 0), (160, 32, e.unit), (192, 64, e.addr),
    (256, 32, e.tag), (288, 18, e.queue), (306, 8, e.opcode), (320, 16, e.status), (352, 32, e.detail0),
    (384, 64, e.detail1)]
  let d1 := { d.wr .errlogSeq 0 seq with errRing := smPut d.errRing ((seq - 1) % 64) rec0 }
  if severity e.kind = 2 ∨ severity e.kind = 3 then d1.addS .errlogUncorr 0 1 else d1

/-- A correctable error of a unit: counted, and recorded when RECORD_CORR is 1 and the unit has had no record for a second (R543). -/
def Dev.corrected (d : Dev) (e : ErrRec) : Dev :=
  let d1 := d.addS .errlogCorr 0 1
  if d.rbit .errlogCfg 0 0 && (match smFind d.corrAt e.unit with | some t => decide (t + 1000000000 ≤ d.now) | none => true) then
    { d1.record e with corrAt := smPut d.corrAt e.unit d.now }
  else d1

/-! ## Packets -/

def Cmd.opcode (c : Cmd) : Nat := bytesAt c.pkt 0 1
def Cmd.tag (c : Cmd) : Nat := bytesAt c.pkt 4 4
def Cmd.deadline (c : Cmd) : Nat := bytesAt c.pkt 8 8
def Cmd.eventOnDone (c : Cmd) : Bool := bitAt c.pkt 9
def Cmd.noCompletion (c : Cmd) : Bool := bitAt c.pkt 10
def Cmd.extended (c : Cmd) : Bool := bitAt c.pkt 11
def Cmd.highClass (c : Cmd) : Bool := bitAt c.pkt 12

/-- `k` bytes of the packet from byte `b`. -/
def Cmd.at (c : Cmd) (b k : Nat) : Nat := bytesAt c.pkt b k

/-- A bit field of byte `b` of the packet. -/
def Cmd.bits (c : Cmd) (b lo w : Nat) : Nat := fld c.pkt (8 * b + lo) w

/-- No bit of the packet beyond the 16-byte header lies outside the listed fields (byte, first bit, width): the
reserved-field check (R8, R545). -/
def Cmd.only (c : Cmd) (units : Nat) (fs : List (Nat × Nat × Nat)) : Bool :=
  onlyFields c.pkt (512 * units) ((0, 128) :: fs.map fun f => (8 * f.1 + f.2.1, f.2.2))

/-! ## Completion (13 R363 to R365, R374) -/

/-- Is an UNMAP of the bay that started before order `o` still running? What starts after it sees its range unmapped
(14 R418), so it waits. -/
def Dev.unmapBefore (d : Dev) (b o : Nat) : Bool :=
  d.sqs.any fun e => match e.2.run with
    | some c => c.bay == b && c.opcode == 0x64 && decide (c.order < o)
    | none => false

/-- The command with this SQ and opcode that is running and may go on, if any. -/
def Dev.running? (d : Dev) (q opcode : Nat) : Option Cmd :=
  match smFind d.sqs q with
  | none => none
  | some s => match s.run with
    | none => none
    | some c => if c.opcode = opcode && !d.unmapBefore c.bay c.order then some c else none

/-- Queue a completion entry, or none where NO_COMPLETION and OK say so (R365). A CQ in ERROR takes none (R371). -/
def Dev.postCpl (d : Dev) (c : Cmd) (status result extra : Nat) : Dev :=
  let d1 := d.addW .bayCmdsDone c.bay 1
  if c.noCompletion && status == stOk then d1
  else
    match smFind d.sqs c.sq with
    | none => d1
    | some s =>
      { d1 with cqs := smMod d1.cqs s.cq fun k =>
          if k.st ≠ 1 then k
          else { k with waiting := k.waiting ++ [{ tag := c.tag, status := status, sq := c.sq, result := min result (2 ^ 32 - 1)
                                                   extra := extra, ext := c.extended, signal := c.eventOnDone, time := d.now }] } }

/-- The running command of SQ `c.sq` completes: its entry is queued and the SQ is free to start its next. -/
def Dev.complete (d : Dev) (c : Cmd) (status result : Nat) (extra : Nat := 0) : Dev :=
  let d1 := d.postCpl c status result extra
  { d1 with sqs := smMod d1.sqs c.sq fun s => { s with run := none } }

/-- An accepted deferred command completes. -/
def Dev.completeDeferred (d : Dev) (c : Cmd) (status result : Nat) : Dev :=
  let d1 := d.postCpl c status result 0
  { d1 with sqs := smMod d1.sqs c.sq fun s => { s with deferred := s.deferred.filter fun x => x.order != c.order } }

/-- Change the running command of an SQ. -/
def Dev.modCmd (d : Dev) (q : Nat) (f : Cmd → Cmd) : Dev :=
  { d with sqs := smMod d.sqs q fun s => { s with run := s.run.map f } }

/-- The commands running in a bay. -/
def Dev.runningIn (d : Dev) (b : Nat) : List Cmd :=
  d.sqs.filterMap fun e => match e.2.run with
    | some c => if c.bay = b then some c else none
    | none => none

/-- Every running command. -/
def Dev.runningAll (d : Dev) : List Cmd := d.sqs.filterMap fun e => e.2.run

/-! ## The NaN trap (02 R59 to R62, R547) and the flush flag (R56, R80) -/

/-- The trap of a bay set by the NaNs of a beat (R59, Table 2-7). -/
def Dev.trapFrom (d : Dev) (b : Nat) (n : NanBeat) : Dev :=
  let d1 := (d.sb .bayNumsts b 1 true).sb .bayNumsts b 2 n.multi
  let d2 := ((d1.wr .bayTrapTag b n.tag).wr .bayTrapOpidx b n.opidx).wr .bayTrapUnit b n.unit
  (((d2.wr .bayTrapTile b n.tile).wr .bayTrapTime b n.time).wr .bayTrapInfo b n.info).wr .bayTrapCount b n.count

/-- The NaNs of a beat with those of one more unit: the lowest unit identifier names them (R60). -/
def NanBeat.join (o n : NanBeat) : NanBeat :=
  let k := addSat 32 o.count n.count
  if n.unit < o.unit then { n with multi := true, count := k } else { o with multi := o.multi || n.unit != o.unit, count := k }

/-- Report NaN items of a command, in order, with the unit and operation index that produced them: the first of a
bay sets the trap and its registers, every one counts. Later units of the same beat join in the record (R60). -/
def Dev.nans (d : Dev) (c : Cmd) (unit opidx : Nat) (items : List (Nat × Nat)) : Dev :=
  match items with
  | [] => d
  | (src, tile) :: _ =>
    let b := c.bay
    let one : NanBeat := { time := d.now, tag := c.tag, opidx := opidx, unit := unit, tile := tile % 2 ^ 32, multi := false
                           info := mkFields [(0, 18, c.sq), (18, 8, c.opcode), (26, 4, src)], count := min items.length (2 ^ 32 - 1) }
    let beat := match (d.bay b).nanBeat with
      | some o => if o.time = d.now then o.join one else one
      | none => one
    let d0 := d.modBay b fun x => { x with nanBeat := some beat }
    let d1 := if !d.trapped b || d.rd .bayTrapTime b == d.now then d0.trapFrom b beat else d0.addS .bayTrapCount b items.length
    d1.modCmd c.sq fun x => { x with nan := true }

/-- Report the NaN items of several units, each with its own. -/
def Dev.nansOf (d : Dev) (c : Cmd) (opidx : Nat) (us : List (Nat × List (Nat × Nat))) : Dev :=
  us.foldl (fun d u => d.nans c u.1 opidx u.2) d

/-- NaN items gathered by the unit that produced them, units in ascending order of identifier. -/
def gatherUnits (xs : List (Nat × Nat × Nat)) : List (Nat × List (Nat × Nat)) :=
  xs.foldl (fun m x => smPut m x.1 ((smFind m x.1).getD [] ++ [x.2])) ([] : SMap (List (Nat × Nat)))

/-- A flush replaced a non-zero value in a bay: the sticky flag, and its event when it was clear (R56, R80). -/
def Dev.flushSeen (d : Dev) (b : Nat) (yes : Bool) : Dev :=
  if !yes || d.rbit .bayNumsts b 0 then d
  else
    let d1 := d.sb .bayNumsts b 0 true
    if d.rbit .numstatEven b 2 then d1.event b 0x0003 0 0 else d1

/-- Take a numeric report of a running command: NaNs, flushes and contributions. -/
def Dev.report (d : Dev) (c : Cmd) (unit opidx : Nat) (r : Report) : Dev :=
  ((d.nans c unit opidx r.nans).flushSeen c.bay r.flushed).modCmd c.sq fun x =>
    let at_ (k : Contrib) : Contrib := { k with errs := k.errs.map fun e => (opidx * 2 ^ 48 + e.1, e.2) }
    { x with contribs := (r.contribs.map at_).foldl joinInto x.contribs }

/-- Report what several units did for a command: the NaNs of each, listed with their units, and the rest. -/
def Dev.reportOf (d : Dev) (c : Cmd) (opidx : Nat) (nans : List (Nat × Nat × Nat)) (r : Report) : Dev :=
  (d.nansOf c opidx (gatherUnits nans)).report c 0 opidx { r with nans := [] }

/-! ## The Loft (06 R159 to R168) -/

/-- The slice of a Loft address. -/
def loftSlice (a : Nat) : Nat := fld a 27 5

/-- The offset of a Loft address. -/
def loftOff (a : Nat) : Nat := fld a 0 27

/-- Does `[a, a + n)` lie inside one slice of the Loft (R159)? -/
def inLoft (a n : Nat) : Bool :=
  decide (a < 2 ^ 32) && (if loftSlice a < 12 then decide (loftOff a + n ≤ 0x6000000)
    else if loftSlice a < 16 then decide (loftOff a + n ≤ 0x4000000) else false)

/-- The grant of the whole grantable space, as PFSTAT_GRANT shows it. -/
def wholeGrant : Nat := mkFields [(8, 8, 88), (24, 8, 56)]

/-- Does `[a, a + n)` lie inside bay `b`'s grant (R164, R168)? In early service bay 0 has the whole grantable space, as it will at READY. -/
def Dev.loftGranted (d : Dev) (b a n : Nat) : Bool :=
  let g := if b = 0 ∧ !d.ready then wholeGrant else d.rd .pfstatGrant b
  let mib := 0x100000
  inLoft a n && (
    let base := if loftSlice a < 12 then fld g 0 8 else fld g 16 8
    let size := if loftSlice a < 12 then fld g 8 8 else fld g 24 8
    decide (base * mib ≤ loftOff a) && decide (loftOff a + n ≤ (base + size) * mib))

/-- The Loft words of `[a, a + n)` that hold an uncorrectable error, the first one. -/
def Dev.loftErr (d : Dev) (a n : Nat) : Option Nat :=
  if n = 0 then none
  else ((d.loftBad.filter fun e => decide (a / 8 ≤ e.1) && decide (e.1 ≤ (a + n - 1) / 8)).map (·.1)).head?

/-- The site code of a slice's die (Table 1-6). -/
def loftSite (a : Nat) : Nat := loftSlice a

/-- The error record of a Loft word (R161). -/
def Dev.recordLoft (d : Dev) (c : Cmd) (word : Nat) : Dev :=
  d.record { kind := 0x0001, bay := some c.bay, unit := unitId (loftSite (8 * word)) 0 0, tag := c.tag
             queue := c.sq, opcode := c.opcode, status := stUncorr, detail0 := 8 * word }

/-- A Loft read. -/
def Dev.loftRead (d : Dev) (a n : Nat) : List Byte := readBytes d.loft a n

/-- A Loft write: words written whole lose their error; the write of a part of a bad word is not made (R161). -/
def Dev.loftWrite (d : Dev) (a : Nat) (bs : List Byte) : Dev :=
  let n := bs.length
  let whole (w : Nat) : Bool := decide (a ≤ 8 * w) && decide (8 * w + 8 ≤ a + n)
  let kept := d.loftBad.filter fun e => !whole e.1
  let soft := d.loftSoft.filter fun e => !whole e.1
  let bad (x : Nat) : Bool := kept.any fun e => e.1 == x / 8
  let m := (upFrom 0 n).zip bs |>.foldl (fun m e => if bad (a + e.1) then m else smSet 0 m (a + e.1) e.2) d.loft
  { d with loft := m, loftBad := kept, loftSoft := soft }

/-- The bad word that a Loft write of `n` bytes at `a` cuts (R161). -/
def Dev.loftCut (d : Dev) (a n : Nat) : Option Nat :=
  if n = 0 then none
  else ((d.loftBad.filter fun e =>
    decide (a / 8 ≤ e.1) && decide (e.1 ≤ (a + n - 1) / 8) && !(decide (a ≤ 8 * e.1) && decide (8 * e.1 + 8 ≤ a + n))).map
      (·.1)).head?

/-- The single-bit errors of Loft words that a read of these ranges meets are corrected and counted (R161). -/
def Dev.loftScan (d : Dev) (b : Nat) (rs : List (Nat × Nat)) : Dev :=
  (d.loftSoft.filter fun e => rs.any fun r => decide (r.2 ≠ 0) && decide (r.1 / 8 ≤ e.1) && decide (e.1 ≤ (r.1 + r.2 - 1) / 8)).foldl
    (fun d e => { d with loftSoft := smDel d.loftSoft e.1 }.corrected
      { kind := 0x0002, bay := some b, unit := unitId (loftSite (8 * e.1)) 0 0, detail0 := 8 * e.1 }) d

/-! ## Peers (15 R430, R435) -/

/-- Do two protocol levels and floors interoperate (15 R435)? -/
def levelsMeet (la fa lb fb : Nat) : Bool := decide (la ≤ lb + 1) && decide (lb ≤ la + 1) && decide (max fa fb ≤ min la lb)

/-- A peer by DEVICE_ID. -/
def Dev.peer? (d : Dev) (dev : Nat) : Option Peer := d.fab.peers.find? fun p => p.dev == dev

/-- Was a module heard with a level or floor that fails the rule (15 R435, R436)? -/
def Dev.floorBad (d : Dev) (dev : Nat) : Bool :=
  match d.peer? dev with
  | some p => (p.st == 3 || p.st == 2) && p.inc != 0 && !levelsMeet (d.fd .reedlineLevel 0 0 16) (d.fd .reedlineLevel 0 16 16) p.level p.floor
  | none => false

/-! ## The stripe set (14 R413) -/

def mib : Nat := 2 ^ 20

/-- The members of the stripe set, as root ports in ascending order (R413). -/
def Dev.members (d : Dev) : List Nat := (upFrom 0 4).filter fun p => d.rbit .tierT4Ssds 0 p

/-- The root port of stripe `k` of what bears the number `id` (R413, 19 R521). -/
def Dev.stripePort (d : Dev) (id k : Nat) : Option Nat := d.members[(id + k) % d.members.length]?

/-- A root port is FAILED (R468). -/
def Dev.nvmeFailed (d : Dev) (p : Nat) : Bool := d.fd .nvmePortSts p 0 2 == 3

/-- Does stripe `k` lie on a FAILED member, or on none? -/
def Dev.stripeBad (d : Dev) (id k : Nat) : Bool := match d.stripePort id k with
  | some p => d.nvmeFailed p
  | none => true

/-- An NVMe command completes without error: it counts (R484). -/
def Dev.nvmeCount (d : Dev) (write : Bool) (p bytes : Nat) : Dev :=
  if write then (d.addW .nvmeWrites p 1).addW .nvmeWriteBytes p bytes else (d.addW .nvmeReads p 1).addW .nvmeReadBytes p bytes

/-! ## Objects (14) -/

/-- An object by bay and identifier. -/
def Dev.obj? (d : Dev) (b id : Nat) : Option Obj := d.objs.find? fun o => o.bay == b && o.id == id

/-- Change an object. -/
def Dev.modObj (d : Dev) (b id : Nat) (f : Obj → Obj) : Dev :=
  { d with objs := d.objs.map fun o => if o.bay == b && o.id == id then f o else o }

/-- The page size of an object (R401). -/
def Obj.pageSize (o : Obj) : Nat := if o.small then 0x10000 else 0x200000

/-- Its pages. -/
def Obj.pages (o : Obj) : Nat := o.size / o.pageSize

/-- The location of the byte at an offset. -/
def Obj.locOf (o : Obj) (off : Nat) : Loc := (o.locs[smGet 0 o.tileAt (off / 0x10000)]?).getD { tier := o.home }

/-- The device-physical address of an offset, where its tile lies in T1 (R405). -/
def Obj.phys (o : Obj) (off : Nat) : Option Nat :=
  let l := o.locOf off
  if l.tier = 1 then (l.frames[off / o.pageSize]?).map (· + off % o.pageSize) else none

/-- The 64 KiB granules that `[off, off + n)` touches. -/
def granules (off n : Nat) : List Nat := if n = 0 then [] else upFrom (off / 0x10000) ((off + n - 1) / 0x10000 - off / 0x10000 + 1)

/-- Mark granules of a backed object dirty (R408). -/
def Obj.dirtied (o : Obj) (off n : Nat) : Obj :=
  if o.backing = 0 && !(o.place.any fun p => p.keepClean) then o else { o with dirty := (granules off n).foldl (fun m g => smPut m g ()) o.dirty }

/-- A piece of an object within one 64 KiB granule. -/
structure Piece where
  objBay : Nat
  objId : Nat
  off : Nat
  len : Nat
  write : Bool
  prefetch : Bool
  peer : Option Nat
  lost : Bool
  va : Nat
  deriving DecidableEq, Repr

/-- The mapping that covers an address (R403). -/
def findMapping (ms : List Mapping) (va : Nat) : Option Mapping :=
  ms.find? fun m => decide (m.va ≤ va) && decide (va < m.va + m.bytes)

/-- Cut `[va, va + n)` at 64 KiB boundaries and translate each piece; `none` for an unmapped one. -/
def cutPieces (ms : List Mapping) : Nat → Nat → Nat → List (Option Piece)
  | 0, _, _ => []
  | fuel + 1, va, n =>
    if n = 0 then []
    else
      let len := min n (0x10000 - va % 0x10000)
      (match findMapping ms va with
        | none => none
        | some m => some { objBay := m.objBay, objId := m.objId, off := m.off + (va - m.va), len := len, write := m.write
                           prefetch := m.prefetch, peer := m.peer, lost := m.lost, va := va }) :: cutPieces ms fuel (va + len) (n - len)

/-- The pieces of a range of a bay's virtual space. -/
def Dev.pieces (d : Dev) (b va n : Nat) : List (Option Piece) := cutPieces (d.bay b).maps (n / 0x10000 + 2) va n

/-- Why an access ended. -/
inductive MemErr where
  | notMapped | noPerm | uncorr | peerLost | wrongTier | versionFloor
  deriving DecidableEq, Repr

/-- The status of an access error (R173, R403, R415, R417; 07 R206 for a page in another tier than the access may reach). -/
def MemErr.status : MemErr → Nat
  | .notMapped => stNotMapped | .noPerm => stNoPerm | .uncorr => stUncorr | .peerLost => stPeerLost | .wrongTier => stBadParam
  | .versionFloor => stVersionFloor

/-- The error of an access to a peer's object once its module is lost: it failed the level rule, or not (15 R435, 14 R415). -/
def Dev.lostErr (d : Dev) (peer : Option Nat) : MemErr := if peer.any d.floorBad then .versionFloor else .peerLost

/-- Does the error come late in the order of a collective's statuses, after a passed deadline (Table 10-7)? -/
def MemErr.late (e : MemErr) : Bool := e == .uncorr || e == .peerLost || e == .versionFloor

/-- The key of a byte of a peer's object in `peerMem`. -/
def peerKey (dev id off : Nat) : Nat := dev * 2 ^ 80 + id * 2 ^ 40 + off

/-- The first uncorrectable 64-byte granule of `[off, off + len)` of an object: its offset (R417, R222). Bytes in T4 on a FAILED member are
one (16 R468); the range lies in one stripe. -/
def Dev.objErr (d : Dev) (o : Obj) (off len : Nat) : Option Nat :=
  match o.phys off with
  | some p =>
    ((d.hbmBad.filter fun e => decide (p / 64 ≤ e.1) && decide (e.1 ≤ (p + len - 1) / 64)).map fun e => off - off % 64 + 64 * (e.1 - p / 64)).head?
  | none =>
    if (o.locOf off).tier = 4 && d.stripeBad o.id (off / mib) then some (off - off % 64)
    else ((o.slowBad.filter fun e => decide (off / 64 ≤ e.1) && decide (e.1 ≤ (off + len - 1) / 64)).map fun e => 64 * e.1).head?

/-- Read a piece's bytes. -/
def Dev.readPiece (d : Dev) (p : Piece) : Except MemErr (List Byte) :=
  match p.peer with
  | some dev =>
    let k := peerKey dev p.objId p.off
    if p.lost then .error (d.lostErr (some dev))
    else if anyIn d.peerBad (k / 64) ((k + p.len - 1) / 64) then .error .uncorr
    else .ok (readBytes d.peerMem k p.len)
  | none => match d.obj? p.objBay p.objId with
    | none => .error .notMapped
    | some o =>
      if (d.objErr o p.off p.len).isSome then .error .uncorr
      else match o.phys p.off with
        | some a => .ok (readBytes d.hbm a p.len)
        | none => .ok (readBytes (if (o.locOf p.off).tier = 3 then o.t3 else o.t4) p.off p.len)

/-- Read `n` bytes of a bay's virtual space (R403): the bytes before the first error, and the error. -/
def readPieces (d : Dev) : List (Option Piece) → List Byte × Option MemErr
  | [] => ([], none)
  | none :: _ => ([], some .notMapped)
  | some p :: r => match d.readPiece p with
    | .error e => ([], some e)
    | .ok bs => let (cs, e) := readPieces d r; (bs ++ cs, e)

/-- Read a range of bay virtual memory, all of it or the error it met. -/
def Dev.readVa (d : Dev) (b va n : Nat) : Except MemErr (List Byte) :=
  match readPieces d (d.pieces b va n) with
  | (bs, none) => .ok bs
  | (_, some e) => .error e

/-- Record an uncorrectable error met in an object (R417) and its error record (R222). -/
def Dev.objFault (d : Dev) (c : Cmd) (o : Obj) (off : Nat) : Dev :=
  let d1 := d.modObj o.bay o.id fun x =>
    { x with fault := true, faults := addSat 32 x.faults 1, faultOff := match x.faultOff with | none => some (off - off % 64) | f => f }
  match o.phys off with
  | none => d1
  | some a => (d1.sb .eaveErr (a / 2 ^ 36) 0 true).record
      { kind := 0x0001, bay := some c.bay, unit := unitId (0x20 + a / 2 ^ 36) 7 (a / 64 % 32), addr := a - a % 64
        tag := c.tag, queue := c.sq, opcode := c.opcode, status := stUncorr, detail0 := bankOf (a / 64 % 2 ^ 30) }

/-- The uncorrectable errors of a range, recorded once for the first piece that has one. -/
def Dev.faultIn (d : Dev) (c : Cmd) (va n : Nat) : Dev :=
  match (d.pieces c.bay va n).findSome? (fun p? => match p? with
      | none => none
      | some p => match p.peer, d.obj? p.objBay p.objId with
        | none, some o => (d.objErr o p.off p.len).map fun off => (o, off)
        | _, _ => none) with
  | none => d
  | some (o, off) => d.objFault c o off

/-- The listed bytes of a page of an object, by offset. -/
def Dev.pageBytes (d : Dev) (o : Obj) (page : Nat) : List Host.Cell :=
  match o.phys (page * o.pageSize) with
  | some a => sliceRange d.hbm a o.pageSize
  | none => []

/-- The listed bytes of a page without those in these ranges of objects, which read as zero. -/
def Dev.pageWithout (d : Dev) (o : Obj) (page : Nat) (blanks : List (Nat × Nat × Nat)) : List Host.Cell :=
  let at_ := page * o.pageSize
  (d.pageBytes o page).filter fun c => !(blanks.any fun z => z.1 == o.id && decide (z.2.1 ≤ at_ + c.1) && decide (at_ + c.1 < z.2.1 + z.2.2))

/-- The bytes of a page as an underlay set takes them: those that were provisional at its cut are zero (08 R239). -/
def Dev.cutBytes (d : Dev) (o : Obj) (page set : Nat) : List Host.Cell :=
  d.pageWithout o page (((d.ulSets.find? fun s => s.serial == set).map (·.blanks)).getD [])

/-- Keep a page's bytes as of the cut before a write reaches it (19 R527): the page counts as sealed from the copy. -/
def Dev.firstTouch (d : Dev) (o : Obj) (off len : Nat) : Dev :=
  if len = 0 then d
  else
    let hit (u : UlPage) : Bool := u.st == 0 && u.objBay == o.bay && u.objId == o.id &&
      decide (off / o.pageSize ≤ u.page) && decide (u.page ≤ (off + len - 1) / o.pageSize)
    let copy (u : UlPage) : UlPage :=
      if hit u then
        { u with st := 1, staged := some (d.rd .errlogUlTouches 0 + (u.page - off / o.pageSize)), data := d.cutBytes o u.page u.set }
      else u
    let k := (d.ulPages.filter hit).length
    if k = 0 then d
    else (({ d with ulPages := d.ulPages.map copy }.addW .errlogUlTouches 0 k).addW .errlogUlStaged 0 (k * o.pageSize))

/-- The pages of bay `b` that the Bylliroth keeps read-only (R240, R298, R386), as (VA, bytes) ranges: see `Bay`. -/
def Dev.readOnly (d : Dev) (b va n : Nat) : Bool :=
  (d.bay b).ro.any fun r => overlap va n r.1 r.2

/-- Does a mapping of a bay show bytes of `[off, off + n)` of an object through its read-only pages? -/
def Bay.shuts (x : Bay) (ob id off n : Nat) : Bool :=
  !x.ro.isEmpty && x.maps.any fun m => m.peer.isNone && m.objBay == ob && m.objId == id && x.ro.any fun r =>
    overlap m.va m.bytes r.1 r.2 && overlap (m.off + (max m.va r.1 - m.va)) (min (m.va + m.bytes) (r.1 + r.2) - max m.va r.1) off n

/-- Are bytes of `[off, off + n)` of an object on a page kept read-only? The page is, whatever mapping or module a write comes by
(R298). -/
def Dev.objShut (d : Dev) (ob id off n : Nat) : Bool := d.bays.any fun x => x.shuts ob id off n

/-- May the piece be written? -/
def Dev.pieceWritable (d : Dev) (b : Nat) (p : Piece) : Except MemErr Unit :=
  if p.lost then .error (d.lostErr p.peer)
  else if d.readOnly b p.va p.len || (p.peer.isNone && d.objShut p.objBay p.objId p.off p.len) then .error .noPerm
  else if !p.write then .error .notMapped
  else match p.peer with
    | some _ => .ok ()
    | none => match d.obj? p.objBay p.objId with
      | none => .error .notMapped
      | some o => if (o.locOf p.off).tier = 4 then .error .noPerm else .ok ()

/-- The frame kind of a request to a peer; the other kinds stand in Fabric.lean. -/
def fkPeerReq : Nat := 8

/-- Write a piece's bytes where it lies: T1 granules written whole lose an uncorrectable error, the write of a part of
one is not made (R222); the dirty bits are set (R408) and pages under a cut are kept (R527). -/
def Dev.writePiece (d : Dev) (p : Piece) (bs : List Byte) : Dev :=
  match p.peer with
  | some dev => { d with peerMem := writeBytes d.peerMem (peerKey dev p.objId p.off) bs }.send .reedline fkPeerReq [dev, p.objId, p.off, bs.length, ofLe bs]
  | none => match d.obj? p.objBay p.objId with
    | none => d
    | some o =>
      let d := d.firstTouch o p.off bs.length
      match o.phys p.off with
      | some a =>
        let whole (g : Nat) : Bool := decide (a ≤ 64 * g) && decide (64 * g + 64 ≤ a + bs.length)
        let kept := d.hbmBad.filter fun e => !(whole e.1)
        let bad (x : Nat) : Bool := kept.any fun e => e.1 == x / 64
        let m := (upFrom 0 bs.length).zip bs |>.foldl (fun m e => if bad (a + e.1) then m else smSet 0 m (a + e.1) e.2) d.hbm
        { d with hbm := m, hbmBad := kept }.modObj o.bay o.id (·.dirtied p.off bs.length)
      | none => (d.modObj o.bay o.id fun x => { x.dirtied p.off bs.length with t3 := writeBytes x.t3 p.off bs }).tx bs.length

/-- This module's mapping of bytes of a peer's object is gone: its owner hears of it (14 R415). -/
def Dev.unmapPeer (d : Dev) (m : Mapping) (n : Nat) : Dev :=
  match m.peer with
  | some dev => d.send .reedline fkPeerReq [dev, m.objId, n]
  | none => d

/-- The bytes of a piece before the first uncorrectable T1 granule that a write of the piece cuts (R222). -/
def Dev.pieceCutAt (d : Dev) (p : Piece) : Option Nat :=
  match p.peer, d.obj? p.objBay p.objId with
  | none, some o => match o.phys p.off with
    | some a => (d.hbmBad.find? fun e => decide (a / 64 ≤ e.1) && decide (e.1 ≤ (a + p.len - 1) / 64) &&
        !(decide (a ≤ 64 * e.1) && decide (64 * e.1 + 64 ≤ a + p.len))).map fun e => 64 * e.1 - a
    | none => none
  | _, _ => none

/-- Does the write of a piece cut an uncorrectable T1 granule (R222)? -/
def Dev.pieceCut (d : Dev) (p : Piece) : Bool := (d.pieceCutAt p).isSome

/-- Write bytes piece by piece up to the first error. -/
def writePieces (d : Dev) (b : Nat) : List (Option Piece) → List Byte → Dev × Option MemErr
  | [], _ => (d, none)
  | none :: _, _ => (d, some .notMapped)
  | some p :: r, bs => match d.pieceWritable b p with
    | .error e => (d, some e)
    | .ok _ =>
      if d.pieceCut p then (d.writePiece p (bs.take p.len), some .uncorr)
      else writePieces (d.writePiece p (bs.take p.len)) b r (bs.drop p.len)

/-- Write a range of bay virtual memory: what lies before the first error is written. -/
def Dev.writeVa (d : Dev) (b va : Nat) (bs : List Byte) : Dev × Option MemErr :=
  writePieces d b (d.pieces b va bs.length) bs

/-- Bytes of the pieces that `writePieces` writes before the first error. -/
def reachPieces (d : Dev) (b : Nat) : List (Option Piece) → Nat
  | some p :: r => match d.pieceWritable b p with
    | .error _ => 0
    | .ok _ => match d.pieceCutAt p with
      | some n => n
      | none => p.len + reachPieces d b r
  | _ => 0

/-- Is every page of a range mapped and, for a write, writable? The first error. -/
def Dev.checkVa (d : Dev) (b va n : Nat) (write : Bool) : Option MemErr :=
  (d.pieces b va n).findSome? fun p? => match p? with
    | none => some .notMapped
    | some p => if write then (match d.pieceWritable b p with | .error e => some e | .ok _ => none)
      else if p.lost then some (d.lostErr p.peer) else none

/-- The error that a write of a range meets at its pages: an unmapped one first, then the first other in order. -/
def Dev.writeErr (d : Dev) (b va n : Nat) : Option MemErr :=
  let es := (d.pieces b va n).filterMap fun p? => match p? with
    | none => some .notMapped
    | some p => match d.pieceWritable b p with | .error e => some e | .ok _ => none
  if es.contains .notMapped then some .notMapped else es.head?

/-- Every page of a range lies in one of the tiers given. -/
def Dev.inTiers (d : Dev) (b va n : Nat) (tiers : List Nat) : Bool :=
  (d.pieces b va n).all fun p? => match p? with
    | none => false
    | some p => match p.peer with
      | some _ => tiers.contains 2
      | none => match d.obj? p.objBay p.objId with
        | none => false
        | some o => tiers.contains (o.locOf p.off).tier

/-- A number read from bay memory. -/
def Dev.readVaNat (d : Dev) (b va n : Nat) : Except MemErr Nat :=
  match d.readVa b va n with
  | .ok bs => .ok (ofLe bs)
  | .error e => .error e

/-! ## The two spaces of copies and KERNELs -/

/-- A range of the Loft or of bay virtual memory. -/
inductive Space where
  | loft | va
  deriving DecidableEq, Repr

/-- Read a range of either space. -/
def Dev.readSp (d : Dev) (b : Nat) (sp : Space) (a n : Nat) : Except MemErr (List Byte) :=
  match sp with
  | .loft => if (d.loftErr a n).isSome then .error .uncorr else .ok (d.loftRead a n)
  | .va => d.readVa b a n

/-- Write a range of either space, as far as it goes. -/
def Dev.writeSp (d : Dev) (b : Nat) (sp : Space) (a : Nat) (bs : List Byte) : Dev × Option MemErr :=
  match sp with
  | .loft => (d.loftWrite a bs, (d.loftCut a bs.length).map fun _ => MemErr.uncorr)
  | .va => d.writeVa b a bs

/-- Record the uncorrectable error a command met in a range of either space. -/
def Dev.faultSp (d : Dev) (c : Cmd) (sp : Space) (a n : Nat) : Dev :=
  match sp with
  | .loft => match d.loftErr a n with
    | some w => d.recordLoft c w
    | none => d
  | .va => d.faultIn c a n

/-- A range of one of the two spaces. -/
structure Rng where
  sp : Space
  a : Nat
  n : Nat
  deriving DecidableEq, Repr

/-- Do two ranges meet? -/
def Rng.meets (x y : Rng) : Bool := x.sp == y.sp && overlap x.a x.n y.a y.n

/-- Does a read of a range meet an uncorrectable error? -/
def Dev.errIn (d : Dev) (b : Nat) (r : Rng) : Bool :=
  match r.sp with
  | .loft => (d.loftErr r.a r.n).isSome
  | .va => (d.pieces b r.a r.n).any fun p? => match p? with
      | none => false
      | some p => match p.peer with
        | some dev => anyIn d.peerBad (peerKey dev p.objId p.off / 64) ((peerKey dev p.objId p.off + p.len - 1) / 64)
        | none => match d.obj? p.objBay p.objId with
          | some o => (d.objErr o p.off p.len).isSome
          | none => false

/-- Record the uncorrectable error that a command met in the first of these ranges that has one. -/
def Dev.faultFirst (d : Dev) (c : Cmd) (rs : List Rng) : Dev :=
  match rs.find? (d.errIn c.bay) with
  | some r => d.faultSp c r.sp r.a r.n
  | none => d

/-- Does a range of bay memory hold an unmapped page, or for a write one without write permission? -/
def Dev.unmapped (d : Dev) (b : Nat) (write : Bool) (r : Rng) : Bool :=
  r.sp == .va && (d.pieces b r.a r.n).any fun p? => match p? with
    | none => true
    | some p => write && !p.write

/-- May an Eave operation reach a piece: does it lie in T1 (07 R206)? -/
def Dev.pieceT1 (d : Dev) (p : Piece) : Except MemErr Unit :=
  if p.lost then .error (d.lostErr p.peer)
  else match p.peer, d.obj? p.objBay p.objId with
    | none, some o => if (o.locOf p.off).tier = 1 then .ok () else .error .wrongTier
    | none, none => .error .notMapped
    | some _, _ => .error .wrongTier

/-- The first error of an access to a range of bay memory under R206, with the bytes before it. -/
def t1Reach (d : Dev) (b : Nat) (write : Bool) : List (Option Piece) → Nat × Option MemErr
  | [] => (0, none)
  | none :: _ => (0, some .notMapped)
  | some p :: r => match d.pieceT1 p, (if write then d.pieceWritable b p else .ok ()) with
    | .error e, _ => (0, some e)
    | _, .error e => (0, some e)
    | .ok _, .ok _ => let (n, e) := t1Reach d b write r; (p.len + n, e)

/-- Write a range as `writeSp` does, where `t1` says so under R206. -/
def Dev.putSp (d : Dev) (b : Nat) (sp : Space) (t1 : Bool) (a : Nat) (bs : List Byte) : Dev × Option MemErr :=
  match sp, t1 with
  | .va, true =>
    let (n, e) := t1Reach d b true (d.pieces b a bs.length)
    let (d1, e1) := d.writeVa b a (bs.take n)
    (d1, e1.or e)
  | _, _ => d.writeSp b sp a bs

/-- Bytes of a write of `n` bytes at `a` that come before its first error (R161, R173). -/
def Dev.reach (d : Dev) (b : Nat) (sp : Space) (a n : Nat) : Nat :=
  match sp with
  | .loft => match d.loftCut a n with
    | some w => 8 * w - a
    | none => n
  | .va => reachPieces d b (d.pieces b a n)

/-- The reads over NVMe that an access to a range of bay memory in T4 takes, counted (14 R413, 16 R484): DESIGN CHOICE log 75, one command
for each granule of 64 KiB that it touches. -/
def Dev.flashRead (d : Dev) (b : Nat) (r : Rng) : Dev :=
  if r.sp == .loft then d
  else (d.pieces b r.a r.n).foldl (fun d p? => match p? with
    | none => d
    | some p => match p.peer, d.obj? p.objBay p.objId with
      | none, some o => (match (o.locOf p.off).tier, d.stripePort o.id (p.off / mib) with
        | 4, some port => d.nvmeCount false port p.len
        | _, _ => d)
      | _, _ => d) d

/-- Update TOUCHED of the objects of a range with the start time of the command that accesses it (R402). -/
def Dev.touch (d : Dev) (b va n t : Nat) : Dev :=
  (d.pieces b va n).foldl (fun d p? => match p? with
    | some p => if p.peer.isNone then d.modObj p.objBay p.objId fun o => { o with touched := max o.touched t } else d
    | none => d) d

/-! ## Event counters (13 R377) -/

/-- An event counter's value. -/
def Dev.counter (d : Dev) (b k : Nat) : Nat := smGet 0 (d.bay b).counters k

/-- Set an event counter. -/
def Dev.setCounter (d : Dev) (b k v : Nat) : Dev := d.modBay b fun x => { x with counters := smSet 0 x.counters k (v % 2 ^ 64) }

/-- The value of an operation that draws a free value: the counter it takes, advanced. -/
def Dev.tick (d : Dev) : Dev := { d with free := d.free + 1 }

end Sys2Proof.Machine
end

