-- ==== Sys2Proof/Machine/Nvme.lean ====
section
/-!
DEFINITION. Machine/Nvme.lean: the stripe set and the NVMe commands on it (14 R413; 16 R465 to R468, R484), and underlay sets as they
leave (19 R522).
Where the spec is silent or is read by inference: DEDUCED log 66; DESIGN CHOICE log 75 (notes/assumptions).
-/
namespace Sys2Proof.Machine

/-- One write of a 64 KiB granule of an object to its flash copy, done. -/
def Dev.nvmeGranules (d : Dev) (id : Nat) (gs : List Nat) : Dev :=
  gs.foldl (fun d g => match d.stripePort id (g / 16) with
    | some p => d.nvmeCount true p 0x10000
    | none => d) d

/-- The commands of one transfer with a port: at most MDTS bytes each. -/
def Dev.nvmeIssue (d : Dev) (write : Bool) (p bytes : Nat) (use : NvmeUse) : Dev :=
  let m := if d.rd .nvmeMdtsBytes p = 0 then bytes else d.rd .nvmeMdtsBytes p
  (upFrom 0 (ceilDiv bytes m)).foldl (fun d i =>
    { d with nvme := d.nvme ++ [{ port := p, id := d.nvmeId, write := write, bytes := min m (bytes - i * m), at_ := d.now, use := use }]
             nvmeId := d.nvmeId + 1 }) d

/-- The commands for a range of what bears the number `id`: one for each stripe of 1 MiB that it touches. -/
def Dev.nvmeRange (d : Dev) (write : Bool) (id off n : Nat) (use : NvmeUse) : Dev :=
  if n = 0 then d
  else (upFrom (off / mib) ((off + n - 1) / mib - off / mib + 1)).foldl (fun d k => match d.stripePort id k with
    | some p => d.nvmeIssue write p (min ((k + 1) * mib) (off + n) - max (k * mib) off) use
    | none => d) d

/-- Are commands of a use outstanding? -/
def Dev.nvmeBusy (d : Dev) (use : NvmeUse) : Bool := d.nvme.any fun c => c.use == use

/-- The 64 KiB granules of a range that a placement moves over NVMe: per stripe one read from a T4 home, or one write to a T4 target. -/
def Dev.nvmeTile (d : Dev) (write : Bool) (id : Nat) (gs : List Nat) (use : NvmeUse) : Dev :=
  let ks := gs.foldl (fun l g => if l.getLast? = some (g / 16) then l else l ++ [g / 16]) []
  ks.foldl (fun d k => match d.stripePort id k with
    | some p => d.nvmeIssue write p (0x10000 * (gs.filter fun g => g / 16 == k).length) use
    | none => d) d

/-! ## Underlay sets (19 R522) -/

/-- The page size of an object of a set. -/
def UlSet.pageSize (s : UlSet) (obj : Nat) : Nat := match s.objs.find? fun a => a.id == obj with
  | some a => if a.small then 0x10000 else 0x200000
  | none => 0x200000

/-- UNDERLAY_DONE of an own set, with its final status. -/
def Dev.ulDone (d : Dev) (s : UlSet) (status : Nat) : Dev := if s.mirrored then d else d.event s.bay 0x0050 status s.id

/-- A set is discarded with its pages; the pool bytes of its staged pages are free. -/
def Dev.discardSet (d : Dev) (s : UlSet) : Dev :=
  let held := (d.ulPages.filter fun u => u.set == s.serial && u.staged.isSome && u.st != 3).map fun u => s.pageSize u.objId
  { d with ulSets := d.ulSets.filter (fun x => x.serial != s.serial), ulPages := d.ulPages.filter fun u => u.set != s.serial }.subR
    .errlogUlStaged 0 (held.foldl (· + ·) 0)

/-- Every set of a bay is discarded (13 R385); one that was WRITING ends. -/
def Dev.discardSets (d : Dev) (b : Nat) : Dev :=
  (d.ulSets.filter fun s => s.bay == b).foldl (fun d s => (if s.st = 1 then d.ulDone s stAborted else d).discardSet s) d

end Sys2Proof.Machine
end

