-- ==== Sys2Proof/Machine/Tiers.lean ====
section
/-!
DEFINITION. Machine/Tiers.lean: the room of the tiers (14 R400, R405, R410 to R412, R422): quotas and pools, what holds
an object, frames of T1, eviction.
Where the spec is silent or is read by inference: DEDUCED log 27; DESIGN CHOICE logs 28, 29, 75 (notes/assumptions).
-/
namespace Sys2Proof.Machine

def gib : Nat := 2 ^ 30

/-- The capacity of a tier (R422). -/
def Dev.capacity (d : Dev) (t : Nat) : Nat :=
  if t = 1 then 2048 * gib - d.rd .errlogUlStagingBytes 0 - 4 * gib
  else if t = 3 then d.rd .tierT3Bytes 0 else if t = 4 then d.rd .tierT4Bytes 0 else 0

/-- A bay's guaranteed quota; before READY bay 0 has the capacities (R410). -/
def Dev.quota (d : Dev) (b t : Nat) : Nat :=
  if b = 0 ∧ !d.ready then (if t = 2 then 2 ^ 64 - 1 else d.capacity t)
  else if t = 1 then d.rd .bayQuotaT1 b else if t = 2 then d.rd .bayQuotaT2 b
  else if t = 3 then d.rd .bayQuotaT3 b else d.rd .bayQuotaT4 b

/-- Bytes of a bay's objects in a tier, of one residency; a placement in progress counts in both tiers. -/
def Dev.objUsed (d : Dev) (b t : Nat) (pool : Bool) : Nat :=
  sumN (d.objs.map fun o =>
    if o.bay ≠ b then 0
    else (if o.home = t && o.pool == pool then o.size else 0)
      + (match o.place with
        | some p => if p.tier = t && o.home ≠ t && p.pool == pool then o.size else 0
        | none => 0))

/-- Quota-resident bytes of a bay in a tier: objects and the statistics table (R410). -/
def Dev.quotaUsed (d : Dev) (b t : Nat) : Nat :=
  d.objUsed b t false + (if t = 1 then d.rd .numstatTableBytes b else 0)

/-- Pool-resident bytes of a bay in a tier. -/
def Dev.poolUsed (d : Dev) (b t : Nat) : Nat := d.objUsed b t true

/-- The pool of a tier: its capacity less the quotas (R410). -/
def Dev.poolSize (d : Dev) (t : Nat) : Nat := d.capacity t - sumN ((upFrom 0 16).map fun b => d.quota b t)

/-- Unallocated pool bytes. -/
def Dev.poolFree (d : Dev) (t : Nat) : Nat := d.poolSize t - sumN ((upFrom 0 16).map fun b => d.poolUsed b t)

/-- Bytes of peer objects mapped (R416). -/
def Dev.t2Mapped (d : Dev) (b : Nat) : Nat :=
  sumN ((d.bay b).maps.map fun m => if m.peer.isSome then m.bytes else 0)

/-! ## What holds an object (R412) -/

/-- Does a range of bay `b`'s space reach the object through a mapping? -/
def Dev.reaches (d : Dev) (b va n : Nat) (o : Obj) : Bool :=
  n != 0 && (d.bay b).maps.any fun m => m.peer.isNone && m.objBay == o.bay && m.objId == o.id && overlap va n m.va m.bytes

/-- Ranges of queue rings and heads. -/
def Dev.ringRanges (d : Dev) : List (Nat × Nat × Nat) :=
  (d.sqs.filterMap fun e => if e.2.admin then none else some (e.2.bay, e.2.ring, 64 * 2 ^ e.2.log2))
  ++ (d.sqs.filterMap fun e => if e.2.admin then none else some (e.2.bay, e.2.headAddr, 8))
  ++ (d.cqs.filterMap fun e => if e.2.admin then none else some (e.2.bay, e.2.ring, 16 * 2 ^ e.2.log2))

/-- Held by a running command. -/
def Dev.heldRun (d : Dev) (o : Obj) (order : Nat) : Bool :=
  d.runningAll.any fun c => c.order != order && c.uses.any fun r => d.reaches c.bay r.1 r.2 o

/-- Held by a ring. -/
def Dev.heldRing (d : Dev) (o : Obj) : Bool := d.ringRanges.any fun r => d.reaches r.1 r.2.1 r.2.2 o

/-- Held by a resident sheaf's region or a prefix handle's pages. -/
def Dev.heldSheaf (d : Dev) (o : Obj) : Bool :=
  (upFrom 0 16).any fun b => ((d.bay b).sheaves.map fun s => (s.regionVa, s.regionBytes)).any fun r => d.reaches b r.1 r.2 o

/-- Held by the bay's serving pool. -/
def Dev.heldPool (d : Dev) (o : Obj) : Bool :=
  d.reaches o.bay (d.rd .bayServePoolVa o.bay) (d.rd .bayServePoolBytes o.bay) o

/-- HELD of the object state record; the command of start order `order` does not count. -/
def Dev.heldBits (d : Dev) (o : Obj) (order : Nat) : Nat :=
  mkFields [(0, 1, if d.heldRun o order then 1 else 0), (1, 1, if d.heldRing o then 1 else 0),
    (2, 1, if d.heldSheaf o then 1 else 0), (3, 1, if d.heldPool o then 1 else 0), (4, 1, if o.peers.isEmpty then 0 else 1)]

/-- Is the object held? -/
def Dev.isHeld (d : Dev) (o : Obj) (order : Nat) : Bool := d.heldBits o order != 0

/-! ## Frames of T1 (R405) -/

/-- The stack of page `k`. -/
def stackAt (first runLog2 k : Nat) : Nat := (first + k / 2 ^ runLog2) % 32

/-- Every T1 frame in use: (device-physical base, bytes). -/
def Dev.framesUsed (d : Dev) : List (Nat × Nat) :=
  d.objs.flatMap fun o => o.locs.flatMap fun l => if l.tier = 1 then l.frames.map fun a => (a, o.pageSize) else []

/-- Bytes in use on a stack. -/
def stackBytes (used : List (Nat × Nat)) (s : Nat) : Nat :=
  sumN (used.map fun f => if f.1 / 2 ^ 36 = s then f.2 else 0)

/-- The first free frame of `size` bytes at or after `a` on stack `s`. -/
def freeFrame (used : List (Nat × Nat)) (s size : Nat) : Nat → Nat → Option Nat
  | 0, _ => none
  | fuel + 1, a =>
    let c := alignUp a size
    if c + size > (s + 1) * 2 ^ 36 then none
    else match used.find? fun f => overlap c size f.1 f.2 with
      | none => some c
      | some f => freeFrame used s size fuel (max (f.1 + f.2) (c + size))

/-- Frames for `n` pages from page `k`: none where some stack has no room. `hint`: where in each stack to look first; which
free frame is taken is not the spec's to say. -/
def allocFrames (cap size first runLog2 hint : Nat) : Nat → Nat → List (Nat × Nat) → Option (List Nat)
  | 0, _, _ => some []
  | n + 1, k, used =>
    let s := stackAt first runLog2 k
    if stackBytes used s + size > cap then none
    else
      let base := s * 2 ^ 36
      let fuel := used.length + 1
      match (match freeFrame used s size fuel (base + hint % 2 ^ 36) with
        | some a => some a
        | none => freeFrame used s size fuel base) with
      | none => none
      | some a => match allocFrames cap size first runLog2 hint n (k + 1) ((a, size) :: used) with
        | none => none
        | some r => some (a :: r)

/-- Frames for an object's pages under a placement. -/
def Dev.frames (d : Dev) (size pages first runLog2 hint : Nat) : Option (List Nat) :=
  allocFrames (d.capacity 1 / 32) size first runLog2 hint pages 0 d.framesUsed

/-- The stacks of a placement. -/
def placeStacks (pages first runLog2 : Nat) : List Nat := (upFrom 0 (min pages (32 * 2 ^ runLog2))).map (stackAt first runLog2)

/-! ## Eviction (R411) -/

/-- May an object be evicted? -/
def Dev.evictable (d : Dev) (o : Obj) (order : Nat) : Bool :=
  (o.home == 1 || o.home == 3) && o.pool && o.backing != 0 && !o.pin && !o.underlay && !o.fault && o.place.isNone
  && !d.isHeld o order

/-- Order of eviction: TOUCHED, bay, OBJ_ID. -/
def Obj.before (a b : Obj) : Bool :=
  if a.touched ≠ b.touched then decide (a.touched < b.touched)
  else if a.bay ≠ b.bay then decide (a.bay < b.bay) else decide (a.id < b.id)

/-- Insert into a list in order. -/
def insertObj (o : Obj) : List Obj → List Obj
  | [] => [o]
  | x :: r => if o.before x then o :: x :: r else x :: insertObj o r

/-- The fewest first objects that free `need` bytes: none where all do not. -/
def takeVictims (need : Nat) : List Obj → Option (List Obj)
  | [] => if need = 0 then some [] else none
  | o :: r => if need = 0 then some [] else (takeVictims (need - o.size) r).map (o :: ·)

/-- The objects to evict from a tier to free `need` pool bytes. -/
def Dev.victims (d : Dev) (t need order : Nat) (skip : List (Nat × Nat)) : Option (List Obj) :=
  takeVictims need ((d.objs.filter fun o => o.home == t && d.evictable o order && !skip.contains (o.bay, o.id)).foldl
    (fun l o => insertObj o l) [])

/-- The first uncorrectable granule among an object's dirty granules. -/
def Dev.dirtyErr (d : Dev) (o : Obj) (gs : List Nat) : Option Nat :=
  gs.findSome? fun g => d.objErr o (g * 0x10000) 0x10000

/-- The bytes of 64 KiB granule `g` at its home, by offset in the granule. -/
def Dev.granuleBytes (d : Dev) (o : Obj) (g : Nat) : List Host.Cell :=
  match o.phys (g * 0x10000) with
  | some a => sliceRange d.hbm a 0x10000
  | none => sliceRange (if (o.locOf (g * 0x10000)).tier = 3 then o.t3 else o.t4) (g * 0x10000) 0x10000

/-- Write granules back to the backing copy and clear their bits (R409). -/
def Dev.writeBack (d : Dev) (o : Obj) (gs : List Nat) : Obj :=
  gs.foldl (fun x g =>
    { x with back := putRange x.back (g * 0x10000) 0x10000 (d.granuleBytes o g), dirty := smDel x.dirty g }) o

/-- Drop the T1 bytes of an object's frames. -/
def Dev.dropFrames (d : Dev) (o : Obj) (frames : List Nat) : Dev :=
  { d with hbm := frames.foldl (fun m a => clearRange m a o.pageSize) d.hbm
           hbmBad := d.hbmBad.filter fun e => !frames.any fun a => decide (a ≤ 64 * e.1) && decide (64 * e.1 < a + o.pageSize) }

/-- The T1 frames of an object. -/
def Obj.allFrames (o : Obj) : List Nat := o.locs.flatMap fun l => if l.tier = 1 then l.frames else []

/-- The first of an object's granules whose flash copy lies on a FAILED member, where its backing is T4 (16 R468). -/
def Dev.flashErr (d : Dev) (o : Obj) (gs : List Nat) : Option Nat :=
  if o.backing = 4 then (gs.find? fun g => d.stripeBad o.id (g / 16)).map (0x10000 * ·) else none

/-- Evict one object into its backing tier; `false` where a dirty granule cannot be read (R411, R417). -/
def Dev.evictOne (d : Dev) (o : Obj) : Dev × Bool :=
  let gs := o.dirty.map (·.1)
  match (match d.dirtyErr o gs with | some x => some x | none => d.flashErr o gs) with
  | some off => (d.modObj o.bay o.id fun x =>
      { x with fault := true, faults := addSat 32 x.faults 1, faultOff := match x.faultOff with | none => some (off - off % 64) | f => f }, false)
  | none =>
    let o1 := d.writeBack o gs
    let o2 : Obj :=
      { o1 with home := o.backing, backing := 0, back := [], dirty := [], locs := [{ tier := o.backing }], tileAt := []
                t3 := if o.backing = 3 then o1.back else [], t4 := if o.backing = 4 then o1.back else [] }
    let d0 := if o.backing = 4 then d.nvmeGranules o.id gs else d.tx (0x10000 * gs.length)
    let d1 := (d0.dropFrames o o.allFrames).modObj o.bay o.id fun _ => o2
    ((d1.addW .bayEvictedObjs o.bay 1).addW .bayWritebackBytes o.bay (0x10000 * gs.length), true)

/-- Evict objects in order, until one fails. -/
def evictAll : Dev → List Obj → Dev × Bool
  | d, [] => (d, true)
  | d, o :: r => match d.evictOne o with
    | (d1, false) => (d1, false)
    | (d1, true) => evictAll d1 r

/-- How a placement of `size` bytes in a tier is classified (R410, R411): residency and pool bytes to free; `none`: QUOTA.
`own`: what the object itself holds there already (quota, pool). -/
def Dev.classify (d : Dev) (b t size ownQuota ownPool : Nat) (pinned backed : Bool) : Option (Bool × Nat) :=
  if d.quotaUsed b t - ownQuota + size ≤ d.quota b t then some (false, 0)
  else if !(backed || pinned) then none
  else some (true, size - (d.poolFree t + ownPool))

end Sys2Proof.Machine
end

