-- ==== Sys2Proof/Machine/Stats.lean ====
section
/-!
DEFINITION. Machine/Stats.lean: the scale statistics (03): the table, merging of contributions, saturation windows, layer
slots; the commands STAT_READ, STAT_RESET, STAT_CLOSE and the writes of NUMSTAT_CTRL.
Where the spec is silent or is read by inference: DEDUCED logs 38, 47, 76; DESIGN CHOICE log 73 (notes/assumptions).
-/
namespace Sys2Proof.Machine

/-- A record slot after reset (R68, R93). -/
def StatRec.fresh (cls histBase layer : Nat) : StatRec := { cls := cls, histBase := histBase, layer := layer }

/-- The record slots of a table. -/
def StatTable.size (t : StatTable) : Nat := 2 ^ t.log2

/-- A record slot. -/
def StatTable.rec_ (t : StatTable) (i : Nat) : StatRec := smGet {} t.recs i

/-- A layer slot. -/
def StatTable.layer (t : StatTable) (i : Nat) : LayerSlot := smGet {} t.layers i

/-- The bin of a histogram key (R77): zeros, non-finite values, or the clamped exponent. -/
def histBin (base8 key : Nat) : Nat :=
  if key = 0 then 0 else if key = 1 then 63
  else (min (max ((key : Int) - 200 - signed 8 base8 + 1) 1) 62).toNat

/-! ## Bytes of the slots (Tables 3-1 and 3-2) -/

/-- A flag as a bit. -/
def bit (b : Bool) : Nat := if b then 1 else 0

/-- The 512 bytes of a record slot, as one number. -/
def StatRec.bytes (r : StatRec) : Nat :=
  let flags := bit r.valid + 2 * bit r.isConst + 4 * bit r.flushed + 8 * bit r.drift + 16 * bit r.alias_ + 32 * bit r.learned
    + 64 * bit r.mixed
  let head := mkFields [(0, 32, r.tensorId), (32, 2, r.cls), (40, 8, flags), (48, 4, r.elemFmt), (52, 3, r.mode), (56, 8, r.histBase),
    (64, 64, r.elements), (128, 64, r.sse), (192, 32, r.absmax), (224, 16, r.layer), (256, 64, r.blocks), (320, 32, r.constBlocks),
    (352, 32, r.zeroBlocks), (384, 32, r.satTotal), (416, 32, r.winSat), (448, 64, r.winElems), (512, 32, r.driftWindows),
    (576, 64, r.sumDw2), (640, 64, r.sumW2), (704, 64, r.lastTime)]
  r.hist.foldl (fun n e => setFld n (1024 + 32 * e.1) 32 e.2) head

/-- The 64 bytes of a layer slot. -/
def LayerSlot.bytes (s : LayerSlot) : Nat :=
  let flags := bit s.isOpen + 2 * bit s.low + 4 * bit s.high + 8 * bit s.nonfinite
  mkFields [(0, 64, s.sumDw2), (64, 64, s.sumW2), (128, 32, s.step), (160, 32, s.lastStep), (192, 32, s.lastRatio), (224, 8, flags),
    (256, 64, s.params), (320, 64, s.lastParams), (384, 64, s.lastTime)]

/-! ## Merging (R69 to R79) -/

/-- Saturating 32-bit addition. -/
def sat32 (a b : Nat) : Nat := addSat 32 a b

/-- A record after a store contribution, with its DRIFT not yet judged. -/
def StatRec.store (r : StatRec) (c : Contrib) (now : Nat) : StatRec :=
  { r with
    tensorId := if r.valid then r.tensorId else c.tensorId
    alias_ := r.alias_ || (r.valid && r.tensorId != c.tensorId)
    valid := true
    isConst := r.isConst || c.isConst
    flushed := r.flushed || c.flushed
    learned := r.learned || c.learned
    mixed := r.mixed || c.mixed || (r.blocks != 0 && (r.elemFmt != c.elemFmt || r.block != c.block))
    elemFmt := c.elemFmt, mode := c.mode, block := c.block
    elements := addWrap 64 r.elements c.elements
    sse := f64Add r.sse c.sse
    absmax := max r.absmax c.absmax
    blocks := addWrap 64 r.blocks c.blocks
    constBlocks := sat32 r.constBlocks c.constBlocks
    zeroBlocks := sat32 r.zeroBlocks c.zeroBlocks
    satTotal := sat32 r.satTotal c.sats
    winElems := r.winElems + c.written
    winSat := sat32 r.winSat c.sats
    lastTime := now
    hist := if r.cls = 1 then c.hist.foldl (fun h e =>
        let b := histBin r.histBase e.1
        smSet 0 h b (sat32 (smGet 0 h b) e.2)) r.hist else r.hist }

/-- A PARAM record after the optimiser's sums (R78). -/
def StatRec.optim (r : StatRec) (c : Contrib) (now : Nat) : StatRec :=
  { r with
    tensorId := if r.valid then r.tensorId else c.tensorId
    alias_ := r.alias_ || (r.valid && r.tensorId != c.tensorId)
    valid := true
    sumDw2 := f64Add r.sumDw2 c.sumDw2, sumW2 := f64Add r.sumW2 c.sumW2, lastTime := now }

/-- LAST_RATIO (R79): fp32_rne(sqrt(SUM_DW2 / SUM_W2)) in FP64. -/
def layerRatio (dw2 w2 : Nat) : Nat :=
  if isZero .fp64 w2 then (if isZero .fp64 dw2 then 0 else infCode .fp32 false)
  else f32OfF64 (sqrtIeee .fp64 (decode .fp64 (divIeee .fp64 (decode .fp64 dw2) (decode .fp64 w2))))

/-- Close the open step of layer slot `l` (R79, R80): the slot and its event. -/
def Dev.closeLayer (d : Dev) (b l : Nat) (s : LayerSlot) : Dev × LayerSlot :=
  let r := layerRatio s.sumDw2 s.sumW2
  let low := (f32 r).lt (f32 (d.rd .numstatRatioLo b))
  let high := (f32 (d.rd .numstatRatioHi b)).lt (f32 r)
  let s1 : LayerSlot :=
    { s with lastRatio := r, low := low, high := high, nonfinite := s.openNonfinite, openNonfinite := false
             lastStep := s.step, lastParams := s.params, lastTime := d.now, sumDw2 := 0, sumW2 := 0, params := 0 }
  let raise := (low || high || s.openNonfinite) && d.rbit .numstatEven b 1
  (if raise then d.event b 0x0002 (mkFields [(0, 8, l), (8, 1, bit s.isOpen), (9, 1, bit low), (10, 1, bit high),
      (11, 1, bit s.openNonfinite)]) r else d, s1)

/-- Add the optimiser's sums of a step to a layer slot (R79). -/
def Dev.layerMerge (d : Dev) (b : Nat) (t : StatTable) (l : Nat) (c : Contrib) : Dev × StatTable :=
  let s := t.layer l
  let (d1, s1) := if s.isOpen && s.step != c.step then
      -- the event carries OPEN as the close by a contribution leaves it
      d.closeLayer b l s else (d, s)
  let s2 : LayerSlot :=
    { s1 with isOpen := true, step := c.step, sumDw2 := f64Add s1.sumDw2 c.sumDw2, sumW2 := f64Add s1.sumW2 c.sumW2
              params := addWrap 64 s1.params c.params, openNonfinite := s1.openNonfinite || c.nonfinite }
  (d1, { t with layers := smSet {} t.layers l s2 })

/-- Close the saturation window of a record where it is full (R75). DESIGN CHOICE log 76: SAT_DRIFT carries the TENSOR_ID that the record
holds, where a merge under another set ALIAS. -/
def Dev.windowClose (d : Dev) (b i : Nat) (r : StatRec) : Dev × StatRec :=
  if r.winElems < 2 ^ d.fd .numstatSatwin b 0 6 then (d, r)
  else
    let tooMany := decide (r.winSat * 2 ^ 24 > d.fd .numstatSatfrac b 0 24 * r.winElems)
    let r1 := { r with winElems := 0, winSat := 0 }
    if !tooMany then (d, r1)
    else
      let r2 := { r1 with driftWindows := sat32 r.driftWindows 1 }
      if r.drift then (d, r2)
      else
        let d1 := d.addS .numstatDrifts b 1
        (if d1.rbit .numstatEven b 0 then d1.event b 0x0001 i r.tensorId else d1, { r2 with drift := true })

/-- Merge one contribution of bay `b` (R69 to R79). -/
def Dev.mergeOne (d : Dev) (b : Nat) (c : Contrib) : Dev :=
  match (d.bay b).stats with
  | none => d.addS .numstatDropped b 1
  | some t =>
    let i := c.tensorId % 2 ^ 16
    if i ≥ t.size then d.addS .numstatDropped b 1
    else
      let r := t.rec_ i
      if c.optim then
        if r.cls ≠ 2 then d
        else
          let t1 := { t with recs := smPut t.recs i (r.optim c d.now) }
          let (d1, t2) := if r.layer < 256 then d.layerMerge b t1 r.layer c else (d, t1)
          d1.modBay b fun x => { x with stats := some t2 }
      else
        let (d1, r1) := d.windowClose b i (r.store c d.now)
        d1.modBay b fun x => { x with stats := some { t with recs := smPut t.recs i r1 } }

/-- Merge a command's contributions (R70). -/
def Dev.mergeAll (d : Dev) (b : Nat) (cs : List Contrib) : Dev := cs.foldl (fun d c => d.mergeOne b c) d

/-- A command that ran ends: its contributions merge, and a NaN it produced turns OK into NAN_TRAP (R61, R70). -/
def Dev.finish (d : Dev) (q status result : Nat) (extra : Nat := 0) : Dev :=
  match smFind d.sqs q with
  | none => d
  | some s => match s.run with
    | none => d
    | some c => (d.mergeAll c.bay c.contribs).complete c (if status = stOk && c.nan then stNanTrap else status) result extra

/-! ## NUMSTAT_CTRL (R68, R90) -/

/-- NUMSTAT_ENABLE: a write of NUMSTAT_CTRL that takes ENABLE from 0 to 1. -/
def Dev.numstatEnable (d : Dev) (b v : Nat) : Dev :=
  let log2 := fld v 8 5
  if d.rbit .numstatCtrl b 0 || !bitAt v 0 || !inRange 4 16 log2 || b ≥ 16 then d
  else
    let d1 := d.wr .numstatCtrl b (mkFields [(0, 1, 1), (8, 5, log2)])
    let bytes := 2 ^ log2 * 512 + 16384
    if d1.quotaUsed b 1 + bytes ≤ d1.quota b 1 then
      ((d1.sf .numstatSts b 0 2 1).wr .numstatTableBytes b bytes).modBay b fun x =>
        { x with stats := some { log2 := log2, recs := (upFrom 0 (2 ^ log2)).map fun i => (i, StatRec.fresh 0 0xD8 0xFFFF) } }
    else d1.sf .numstatSts b 0 2 2

/-- The table is discarded and its memory returned. -/
def Dev.dropStats (d : Dev) (b : Nat) : Dev :=
  ((d.sf .numstatSts b 0 2 0).wr .numstatTableBytes b 0).modBay b fun x => { x with stats := none }

/-- NUMSTAT_DISABLE: a write of NUMSTAT_CTRL that takes ENABLE from 1 to 0, with the size for the next table. -/
def Dev.numstatDisable (d : Dev) (b v : Nat) : Dev :=
  let log2 := fld v 8 5
  if !d.rbit .numstatCtrl b 0 || bitAt v 0 || !inRange 4 16 log2 then d
  else (d.wr .numstatCtrl b (mkFields [(8, 5, log2)])).dropStats b

/-! ## STAT_READ and STAT_RESET (R91 to R94) -/

/-- The slots of a table: record slots or layer slots. -/
def StatTable.slots (t : StatTable) (layers : Bool) : Nat := if layers then 256 else t.size

/-- A layer slot read with CLEAR: it keeps its open step (R92). -/
def LayerSlot.cleared (s : LayerSlot) : LayerSlot :=
  { s with low := false, high := false, nonfinite := false, lastStep := 0, lastRatio := 0, lastParams := 0, lastTime := 0 }

/-- Replace slots `first .. first + n - 1`. -/
def StatTable.mapSlots (t : StatTable) (layers : Bool) (first n : Nat) (f : StatRec → StatRec) (g : LayerSlot → LayerSlot) : StatTable :=
  if layers then { t with layers := (upFrom first n).foldl (fun m i => smSet {} m i (g (smGet {} m i))) t.layers }
  else { t with recs := (upFrom first n).foldl (fun m i => smPut m i (f (smGet {} m i))) t.recs }

/-- The first slot of those asked for in which an uncorrectable error stands (R94). -/
def StatTable.badSlot (t : StatTable) (layers : Bool) (first n : Nat) : Option Nat :=
  (upFrom first n).find? fun i => t.bad.contains (layers, i)

/-- STAT_READ or STAT_RESET meets an uncorrectable error in the table: it does nothing, and the error is recorded as one of the stack
that holds the slot (Table 3-9, 07 R222). DESIGN CHOICE log 73: the spec does not say where the table lies. -/
def Dev.statUncorr (d : Dev) (c : Cmd) (layers : Bool) (i : Nat) : Dev :=
  let a := 64 * (Config.statSlot c.bay (if layers then 1 else 0) i % 2 ^ 35)
  ((d.sb .eaveErr (a / 2 ^ 36) 0 true).record
    { kind := 0x0001, bay := some c.bay, unit := unitId (0x20 + a / 2 ^ 36) 7 (a / 64 % 32), addr := a, tag := c.tag, queue := c.sq
      opcode := c.opcode, status := stUncorr, detail0 := bankOf (a / 64 % 2 ^ 30) }).complete c stUncorr 0

/-- STAT_READ (R92). -/
def Dev.statReadCmd (d : Dev) (q : Nat) : Dev :=
  match d.running? q 0x80 with
  | none => d
  | some c =>
    let table := c.bits 16 0 2
    let first := c.at 20 4
    let n := c.at 24 4
    let dst := c.at 32 8
    match (d.bay c.bay).stats with
    | none => d.complete c stBadParam 0
    | some t =>
      let layers := table == 1
      let size := if layers then 64 else 512
      if !c.only 1 [(16, 0, 3), (20, 0, 64), (32, 0, 48)] || table > 1 || n = 0 || first + n > t.slots layers then d.complete c stBadParam 0
      else match d.writeErr c.bay dst (n * size), t.badSlot layers first n with
      | some e, _ => d.complete c e.status 0
      | none, some i => d.statUncorr c layers i
      | none, none =>
        let bytes := (upFrom first n).flatMap fun i => if layers then toLe 64 (t.layer i).bytes else toLe 512 (t.rec_ i).bytes
        match d.writeVa c.bay dst bytes with
        | (d1, some e) => (d1.faultIn c dst (n * size)).complete c e.status 0
        | (d1, none) =>
          let t1 := if bitAt c.pkt (128 + 2) then
              t.mapSlots layers first n (fun r => StatRec.fresh r.cls r.histBase r.layer) LayerSlot.cleared else t
          (d1.modBay c.bay fun x => { x with stats := some t1 }).complete c stOk n

/-- The checks of a STAT_RESET packet (Table 3-9). -/
def Dev.statResetOk (c : Cmd) (t : StatTable) : Bool :=
  let table := c.bits 16 0 2
  let action := c.bits 16 2 2
  let layers := table == 1
  let layer := c.at 28 2
  c.only 1 ([(16, 0, 4), (20, 0, 64)] ++ (if layers then [] else [(17, 0, 2), (18, 0, 8), (28, 0, 16)]))
  && decide (table ≤ 1) && decide (action ≤ 1) && !(action == 1 && !layers) && c.at 24 4 != 0
  && decide (c.at 20 4 + c.at 24 4 ≤ t.slots layers)
  && (layers || (c.bits 17 0 2 != 3 && (decide (layer < 256) || layer == 0xFFFF)))

/-- STAT_RESET with ACTION RESET (R93). -/
def Dev.statResetCmd (d : Dev) (q : Nat) : Dev :=
  match d.running? q 0x81 with
  | none => d
  | some c =>
    if c.bits 16 2 2 = 1 then d
    else match (d.bay c.bay).stats with
    | none => d.complete c stBadParam 0
    | some t =>
      if !Dev.statResetOk c t then d.complete c stBadParam 0
      else match t.badSlot (c.bits 16 0 2 == 1) (c.at 20 4) (c.at 24 4) with
      | some i => d.statUncorr c (c.bits 16 0 2 == 1) i
      | none =>
        let n := c.at 24 4
        let t1 := t.mapSlots (c.bits 16 0 2 == 1) (c.at 20 4) n
          (fun _ => StatRec.fresh (c.bits 17 0 2) (c.at 18 1) (c.at 28 2)) (fun _ => {})
        (d.modBay c.bay fun x => { x with stats := some t1 }).complete c stOk n

/-- Close layer slots in order, counting those with an open step. -/
def closeLayers (b : Nat) : Dev → StatTable → List Nat → Dev × StatTable × Nat
  | d, t, [] => (d, t, 0)
  | d, t, l :: r =>
    let s := t.layer l
    if !s.isOpen then closeLayers b d t r
    else
      let (d1, s1) := d.closeLayer b l { s with isOpen := false }
      let (d2, t2, n) := closeLayers b d1 { t with layers := smSet {} t.layers l s1 } r
      (d2, t2, n + 1)

/-- STAT_RESET with ACTION CLOSE (R93). -/
def Dev.statCloseCmd (d : Dev) (q : Nat) : Dev :=
  match d.running? q 0x81 with
  | none => d
  | some c =>
    if c.bits 16 2 2 ≠ 1 then d
    else match (d.bay c.bay).stats with
    | none => d.complete c stBadParam 0
    | some t =>
      if !Dev.statResetOk c t then d.complete c stBadParam 0
      else match t.badSlot true (c.at 20 4) (c.at 24 4) with
      | some i => d.statUncorr c true i
      | none =>
        let (d1, t1, n) := closeLayers c.bay d t (upFrom (c.at 20 4) (c.at 24 4))
        (d1.modBay c.bay fun x => { x with stats := some t1 }).complete c stOk n

end Sys2Proof.Machine
end

