-- ==== Sys2Proof/Machine/Objects.lean ====
section
/-!
DEFINITION. Machine/Objects.lean: the commands over objects and mappings (14): OBJ_CREATE with its three OPs, OBJ_PLACE and
its tiles, OBJ_FLUSH, MAP, MAP REMOTE and UNMAP.
Where the spec is silent or is read by inference: DESIGN CHOICE logs 6, 29 (notes/assumptions).
-/
namespace Sys2Proof.Machine

/-- A backing tier is none, or T3 or T4 slower than the home (Table 14-1). -/
def backingOk (tier bk : Nat) : Bool := bk == 0 || ((bk == 3 || bk == 4) && decide (tier < bk))

/-- May a placement use a tier now (Table 17-5, 17-8)? -/
def Dev.tierShut (d : Dev) (t pages first runLog2 : Nat) : Bool :=
  !d.ready && (t == 4 || (t == 3 && d.rd .tierT3Bytes 0 == 0)
    || (t == 1 && (placeStacks pages first runLog2).any fun s => !d.rbit .bringStacksReady 0 s))

/-! ## OBJ_CREATE -/

/-- OP CREATE (R401). `hint`: where the allocator looks for frames. -/
def Dev.objCreateCmd (d : Dev) (q hint : Nat) : Dev :=
  match d.running? q 0x60 with
  | none => d
  | some c =>
    if c.bits 16 0 2 ≠ 0 then d
    else
      let tier := c.bits 17 0 3
      let bk := c.bits 17 3 3
      let small := bitAt c.pkt (136 + 6)
      let under := bitAt c.pkt 144
      let export_ := c.bits 18 1 2
      let first := c.bits 19 0 5
      let run := c.bits 20 0 4
      let id := c.at 24 8
      let size := c.at 32 8
      let key := c.at 40 4
      let page := if small then 0x10000 else 0x200000
      let ok := c.only 1 ([(16, 0, 2), (17, 0, 8), (18, 0, 3), (24, 0, 40), (32, 0, 64), (40, 0, 32)]
          ++ (if tier == 1 then [(19, 0, 5), (20, 0, 4)] else []))
        && (tier == 1 || tier == 3) && backingOk tier bk && (tier == 1 || (!under && export_ == 0)) && export_ != 3
        && (export_ != 0) == (key != 0) && id != 0 && size % page == 0 && inRange page (2 ^ 40) size && (d.obj? c.bay id).isNone
      if !ok then d.complete c stBadParam 0
      else if d.tierShut tier (size / page) first run || (bk != 0 && d.tierShut bk 0 0 0) then d.complete c stBusy 0
      else match d.classify c.bay tier size 0 0 (bitAt c.pkt (136 + 7)) (bk != 0) with
        | none => d.complete c stQuota 0
        | some (pool, need) => match (if need = 0 then some [] else d.victims tier need c.order []) with
          | none => d.complete c stQuota 0
          | some vs =>
            if c.trapped then d.complete c stAborted 0
            else match evictAll d vs with
              | (d1, false) => d1.complete c stUncorr 0
              | (d1, true) =>
                let o (l : Loc) : Obj :=
                  { bay := c.bay, id := id, size := size, small := small, home := tier, backing := bk, pool := pool
                    pin := bitAt c.pkt (136 + 7), underlay := under, exportMode := export_, key := key, locs := [l], touched := d.now }
                if tier = 3 then
                  { d1 with objs := d1.objs ++ [o { tier := 3 }] }.complete c stOk (size / page)
                else match d1.frames page (size / page) first run hint with
                  | none => d.complete c stQuota 0
                  | some fr =>
                    { d1 with objs := d1.objs ++ [o { tier := 1, frames := fr, firstStack := first, runLog2 := run }] }.complete c stOk (size / page)

/-- The shape of DESTROY and QUERY: only OP, OBJ_ID and, for QUERY, CLEAR_FAULT and DST_VA. -/
def Cmd.objOnly (c : Cmd) (query : Bool) : Bool :=
  c.only 1 ([(16, 0, 2), (24, 0, 40)] ++ (if query then [(16, 2, 1), (48, 0, 48)] else []))

/-- Remove an object with its mappings and bytes; a set that is being written keeps its bytes (19 R527). -/
def Dev.removeObj (d : Dev) (o : Obj) : Dev :=
  let d1 := d.dropFrames o o.allFrames
  { d1 with
    objs := d1.objs.filter fun x => !(x.bay == o.bay && x.id == o.id)
    ulPages := d1.ulPages.map fun u =>
      if u.st == 0 && u.objBay == o.bay && u.objId == o.id then { u with st := 1, data := d.cutBytes o u.page u.set } else u
    bays := d1.bays.map fun x => { x with maps := x.maps.filter fun m => m.peer.isSome || !(m.objBay == o.bay && m.objId == o.id) } }

/-- The local mappings of an object in its bay. -/
def Dev.mappingsOf (d : Dev) (o : Obj) : Nat :=
  ((d.bay o.bay).maps.filter fun m => m.peer.isNone && m.objBay == o.bay && m.objId == o.id).length

/-- OP DESTROY (R418). -/
def Dev.objDestroyCmd (d : Dev) (q : Nat) : Dev :=
  match d.running? q 0x60 with
  | none => d
  | some c =>
    if c.bits 16 0 2 ≠ 1 then d
    else match d.obj? c.bay (c.at 24 8) with
      | none => d.complete c stBadParam 0
      | some o =>
        if !c.objOnly false then d.complete c stBadParam 0
        else if d.isHeld o c.order || o.place.isSome then d.complete c stBusy 0
        else if c.trapped then d.complete c stAborted 0
        else (d.removeObj o).complete c stOk (d.mappingsOf o)

/-- The object state record (Table 14-2). -/
def Dev.objRecord (d : Dev) (o : Obj) (order : Nat) : Nat :=
  let l : Loc := (o.locs[0]?).getD { tier := o.home }
  mkFields [(0, 40, o.id), (64, 64, o.size), (128, 3, o.home), (131, 3, o.backing), (134, 1, bit o.pool), (136, 1, bit o.small),
    (137, 1, bit o.pin), (138, 1, bit o.underlay), (139, 2, o.exportMode), (141, 1, bit o.fault), (142, 1, bit o.place.isSome),
    (143, 1, bit o.split), (144, 5, l.firstStack), (152, 4, l.runLog2), (160, 32, d.mappingsOf o + o.peers.length),
    (192, 64, o.touched), (256, 64, 0x10000 * o.dirty.length), (320, 64, o.faultOff.getD (2 ^ 64 - 1)), (384, 32, o.faults),
    (416, 5, d.heldBits o order)]

/-- OP QUERY (R402, R417). -/
def Dev.objQueryCmd (d : Dev) (q : Nat) : Dev :=
  match d.running? q 0x60 with
  | none => d
  | some c =>
    if c.bits 16 0 2 = 0 ∨ c.bits 16 0 2 = 1 then d
    else match d.obj? c.bay (c.at 24 8) with
      | none => d.complete c stBadParam 0
      | some o =>
        let dst := c.at 48 8
        if c.bits 16 0 2 = 3 || !c.objOnly true || (d.checkVa c.bay dst 64 true).isSome then d.complete c stBadParam 0
        else if c.trapped then d.complete c stAborted 0
        else
          let (d1, e) := d.writeVa c.bay dst (toLe 64 (d.objRecord o c.order))
          match e with
          | some er => (d1.faultIn c dst 64).complete c er.status 0
          | none =>
            let d2 := if bitAt c.pkt 130 then
                d1.modObj o.bay o.id fun x => { x with fault := false, faults := 0, faultOff := none } else d1
            d2.complete c stOk o.pages

/-! ## OBJ_PLACE (R406 to R408) -/

/-- Is a location the target of a placement? -/
def Loc.is (l : Loc) (tier first run : Nat) : Bool :=
  l.tier == tier && (tier != 1 || (l.firstStack == first && l.runLog2 == run))

/-- 64 KiB granules of an object not at location `t`. -/
def Obj.outside (o : Obj) (t : Nat) : List Nat := (upFrom 0 (o.size / 0x10000)).filter fun g => smGet 0 o.tileAt g != t

/-- Does a placement leave every tile where it is? -/
def Obj.stays (o : Obj) (tier first run : Nat) : Bool :=
  let t := o.locs.findIdx fun l => l.is tier first run
  decide (t < o.locs.length) && (o.outside t).isEmpty

/-- Put every tile of the object at the location `t`, which becomes its one location. -/
def Obj.settle (o : Obj) (t : Nat) : Obj :=
  { o with locs := [(o.locs[t]?).getD { tier := o.home }], tileAt := [], split := false }

/-- A placement ends with every tile at its target: tier, backing, residency and pin change (R406, R408). -/
def Dev.placeEnd (d : Dev) (o : Obj) (p : PlaceRun) : Dev :=
  let target : Loc := (o.locs[p.target]?).getD { tier := o.home }
  let gone := o.allFrames.filter fun a => !target.frames.contains a
  let o1 := o.settle p.target
  let all := (upFrom 0 (o.size / 0x10000)).map fun g => (g, ())
  let o2 : Obj :=
    { o1 with
      home := p.tier, pool := p.pool, pin := p.pin, place := none, backing := p.backing
      back := if p.intoBacking || p.backing = 0 then [] else if p.keepClean then o.t4 else if p.backing ≠ o.backing then [] else o1.back
      dirty := if p.backing = 0 then [] else if p.keepClean || p.backing = o.backing then o1.dirty else all
      t3 := if p.tier = 3 then o1.t3 else [], t4 := if p.tier = 4 then o1.t4 else [] }
  (d.dropFrames o gone).modObj o.bay o.id fun _ => o2

/-- The granules of tile `k` that a placement still moves. -/
def PlaceRun.granulesOf (p : PlaceRun) (o : Obj) (k : Nat) : List Nat :=
  (granules (k * p.tileBytes) (min p.tileBytes (o.size - k * p.tileBytes))).filter fun g => smGet 0 o.tileAt g != p.target

/-- The granules of a tile that are read from, and that are written to, T4. -/
def PlaceRun.flashReads (p : PlaceRun) (o : Obj) (k : Nat) : List Nat :=
  (p.granulesOf o k).filter fun g => (o.locOf (g * 0x10000)).tier == 4
def PlaceRun.flashWrites (p : PlaceRun) (o : Obj) (k : Nat) : List Nat :=
  if p.tier = 4 then (p.granulesOf o k).filter fun g => !p.intoBacking || (smFind o.dirty g).isSome else []

/-- The NVMe commands of a tile are sent (16 R466). -/
def Dev.tileCommands (d : Dev) (q order : Nat) (o : Obj) (p : PlaceRun) (k : Nat) : Dev :=
  (d.nvmeTile false o.id (p.flashReads o k) (.tile q order k)).nvmeTile true o.id (p.flashWrites o k) (.tile q order k)

/-- A tile needs a FAILED member: the access is an uncorrectable error (16 R468). -/
def Dev.tileBad (d : Dev) (o : Obj) (p : PlaceRun) (k : Nat) : Bool :=
  (p.flashReads o k ++ p.flashWrites o k).any fun g => d.stripeBad o.id (g / 16)

/-- OBJ_PLACE (R406, R418): its checks and allocation; the tiles land one by one. -/
def Dev.objPlaceCmd (d : Dev) (q hint : Nat) : Dev :=
  match d.running? q 0x61 with
  | none => d
  | some c => match d.obj? c.bay (c.at 24 8) with
    | none => d.complete c stBadParam 0
    | some o =>
      let tier := c.bits 16 0 3
      let bk := c.bits 16 3 3
      let tiled := bitAt c.pkt 134
      let log2 := c.bits 17 0 5
      let pinOp := c.bits 18 0 2
      let first := c.bits 19 0 5
      let run := c.bits 20 0 4
      let ev := c.at 32 4
      let ok := c.only 1 ([(16, 0, 7), (17, 0, 5), (18, 0, 2), (24, 0, 40), (32, 0, 32)]
          ++ (if tier == 1 then [(19, 0, 5), (20, 0, 4)] else []))
        && (tier == 1 || tier == 3 || tier == 4) && backingOk tier bk
        && (if tiled then inRange 16 28 log2 else log2 == 0 && decide (o.size ≤ 0x10000000)) && pinOp != 3
        && (ev == 0xFFFFFFFF || decide (ev < 4096))
      if o.place.any fun p => p.sq == q then d   -- its tiles are landing
      else if !ok then d.complete c stBadParam 0
      else if o.place.isSome || (o.home = 1 && tier ≠ 1 && (d.isHeld o c.order || o.underlay))
          || (o.home = 3 && tier ≠ 3 && d.heldRing o)
          || (!o.stays tier first run && d.ulPages.any fun u => u.objBay == o.bay && u.objId == o.id && u.st != 3)
          || d.tierShut tier o.pages first run then d.complete c stBusy 0
      else
        let pin := if pinOp = 0 then o.pin else pinOp == 1
        let ownQ := if o.home = tier && !o.pool then o.size else 0
        let ownP := if o.home = tier && o.pool then o.size else 0
        match d.classify c.bay tier o.size ownQ ownP pin (bk != 0) with
        | none => d.complete c stQuota 0
        | some (pool, need) => match (if need = 0 then some [] else d.victims tier need c.order [(o.bay, o.id)]) with
          | none => d.complete c stQuota 0
          | some vs =>
            if c.trapped then d.complete c stAborted 0
            else match evictAll d vs with
              | (d1, false) => d1.complete c stUncorr 0
              | (d1, true) =>
                let tile := if tiled then 2 ^ log2 else o.size
                let found := o.locs.findIdx fun l => l.is tier first run
                let start (d : Dev) (o1 : Obj) (t : Nat) : Dev :=
                  let out := o1.outside t
                  let tiles := (upFrom 0 (ceilDiv o.size tile)).filter fun k =>
                    out.any fun g => decide (k * tile ≤ g * 0x10000) && decide (g * 0x10000 < (k + 1) * tile)
                  let into := tier == o.backing && bk == 0
                  let p : PlaceRun :=
                    { sq := q, tileBytes := tile, target := t, total := ceilDiv o.size tile, left := tiles, moved := tiles.length, event := ev
                      tier := tier, backing := bk, pool := pool, pin := pin, intoBacking := into
                      keepClean := o.home == 4 && tier != 4 && bk == 4 }
                  let o2 : Obj :=
                    { o1 with place := some p
                              t3 := if into && tier = 3 then o1.back else o1.t3
                              t4 := if into && tier = 4 then o1.back else o1.t4 }
                  let d2 := d.modObj o.bay o.id fun _ => o2
                  if tiles.isEmpty then (d2.placeEnd o2 p).complete c stOk 0 else tiles.foldl (fun d k => d.tileCommands q c.order o2 p k) d2
                if found < o.locs.length then start d1 o found
                else if tier ≠ 1 then start d1 { o with locs := o.locs ++ [{ tier := tier }] } o.locs.length
                else match d1.frames o.pageSize o.pages first run hint with
                  | none => d.complete c stQuota 0
                  | some fr =>
                    start d1 { o with locs := o.locs ++ [{ tier := 1, frames := fr, firstStack := first, runLog2 := run }] } o.locs.length

/-- The length of the longest run of tiles, from tile 0, that are not left. -/
def landedPrefix (left : List Nat) : Nat → Nat → Nat
  | 0, n => n
  | fuel + 1, n => if left.contains n then n else landedPrefix left fuel (n + 1)

/-- Move one granule of an object to location `t`: its listed bytes. -/
def Dev.moveGranule (d : Dev) (o : Obj) (t g : Nat) (only : Bool) : Dev :=
  let bytes := d.granuleBytes o g
  let l : Loc := (o.locs[t]?).getD { tier := o.home }
  let put := !only || (smFind o.dirty g).isSome
  match (l.frames[g * 0x10000 / o.pageSize]?).map (· + g * 0x10000 % o.pageSize) with
  | some a => { d with hbm := if put then putRange d.hbm a 0x10000 bytes else d.hbm }.modObj o.bay o.id fun x =>
      { x with tileAt := smSet 0 x.tileAt g t, dirty := if only then smDel x.dirty g else x.dirty }
  | none => (if put && l.tier = 3 then d.tx 0x10000 else d).modObj o.bay o.id fun x =>
      { x with tileAt := smSet 0 x.tileAt g t, dirty := if only then smDel x.dirty g else x.dirty
               t3 := if put && l.tier = 3 then putRange x.t3 (g * 0x10000) 0x10000 bytes else x.t3
               t4 := if put && l.tier = 4 then putRange x.t4 (g * 0x10000) 0x10000 bytes else x.t4 }

/-- TILE_LANDED: tile `k` of the placement that the command of SQ `q` runs has been read and its last byte lands; or the
read met an error that only the reading shows (`err`). -/
def Dev.tileLanded (d : Dev) (q k : Nat) (err : Bool) : Dev :=
  match d.running? q 0x61 with
  | none => d
  | some c => match d.obj? c.bay (c.at 24 8) with
    | none => d
    | some o => match o.place with
      | none => d
      | some p =>
        let flash := !(p.flashReads o k ++ p.flashWrites o k).isEmpty
        let err := err || d.tileBad o p k
        if !p.left.contains k || !d.enginesRun || (flash && !d.stepDone 10) || (!err && d.nvmeBusy (.tile q c.order k)) then d
        else
          let lo := k * p.tileBytes
          let gs := p.granulesOf o k
          let read := if p.intoBacking then gs.filter fun g => (smFind o.dirty g).isSome else gs
          match (if err then some lo else d.dirtyErr o read) with
          | some off =>
            let d1 := d.objFault c o off
            (d1.modObj o.bay o.id fun x => { x with place := none, split := p.left.length < p.total || x.split
                                                    dirty := if x.backing = 0 then [] else x.dirty }).complete c stUncorr (p.moved - p.left.length)
          | none =>
            let d1 := gs.foldl (fun d g => match d.obj? o.bay o.id with
              | some x => d.moveGranule x p.target g p.intoBacking
              | none => d) d
            let left := p.left.filter (· != k)
            let p1 := { p with left := left }
            let d2 := d1.modObj o.bay o.id fun x => { x with place := some p1 }
            let d3 := if p.event = 0xFFFFFFFF then d2
              else d2.setCounter c.bay p.event (max (d2.counter c.bay p.event) (landedPrefix left p.total 0))
            if !left.isEmpty then d3
            else match d3.obj? o.bay o.id with
              | none => d3
              | some x => (d3.placeEnd x p1).complete c stOk (min p.moved (2 ^ 32 - 1))

/-! ## OBJ_FLUSH (R409, R417) -/

/-- OBJ_FLUSH. -/
def Dev.objFlushCmd (d : Dev) (q : Nat) : Dev :=
  match d.running? q 0x62 with
  | none => d
  | some c =>
    if !d.enginesRun then d
    else match d.obj? c.bay (c.at 24 8) with
      | none => d.complete c stBadParam 0
      | some o =>
        let off := c.at 32 8
        let n := if c.at 40 8 = 0 then o.size - off else c.at 40 8
        let ok := c.only 1 [(24, 0, 40), (32, 0, 64), (40, 0, 64)] && aligned off 16 && aligned n 16 && n != 0
          && decide (off + n ≤ o.size) && o.backing != 0
        if !ok then d.complete c stBadParam 0
        else if c.trapped then d.complete c stAborted 0
        else
          let gs := (o.dirty.map (·.1)).filter fun g => decide (off ≤ g * 0x10000) && decide (g * 0x10000 < off + n)
          let bad := gs.filter fun g => (d.objErr o (g * 0x10000) 0x10000).isSome || (d.flashErr o [g]).isSome
          let good := gs.filter fun g => !bad.contains g
          let d0 := if o.backing = 4 then d.nvmeGranules o.id good else d.tx (0x10000 * good.length)
          let d1 := (d0.modObj o.bay o.id fun x => d.writeBack x good).addW .bayWritebackBytes c.bay (0x10000 * good.length)
          let errs := bad.filterMap fun g => (d.objErr o (g * 0x10000) 0x10000).or (d.flashErr o [g])
          (errs.foldl (fun d e => d.objFault c o e) d1).complete c (if errs.isEmpty then stOk else stUncorr) (min good.length (2 ^ 32 - 1))

/-! ## MAP and UNMAP (R403, R414 to R418) -/

/-- The mapping that a MAP packet asks for, in pages of `page` bytes of an object of `size` bytes. -/
def Dev.mapOk (d : Dev) (c : Cmd) (page size : Nat) : Bool :=
  let va := c.at 24 8
  let off := c.at 40 8
  let n := c.at 48 8
  va % page == 0 && off % page == 0 && n % page == 0 && n != 0 && decide (0x200000 ≤ va) && decide (va + n ≤ 2 ^ 48)
  && decide (off + n ≤ size) && !((d.bay c.bay).maps.any fun m => overlap va n m.va m.bytes)

/-- The fields of a MAP packet. -/
def Cmd.mapOnly (c : Cmd) (remote : Bool) : Bool :=
  c.only 1 ([(16, 0, 3), (24, 0, 48), (32, 0, 40), (40, 0, 128)] ++ (if remote then [(18, 0, 15), (20, 0, 32)] else []))

/-- Insert a mapping. -/
def Dev.addMap (d : Dev) (b : Nat) (m : Mapping) : Dev := d.modBay b fun x => { x with maps := x.maps ++ [m] }

/-- MAP of a local object (R403). -/
def Dev.mapCmd (d : Dev) (q : Nat) : Dev :=
  match d.running? q 0x63 with
  | none => d
  | some c =>
    if bitAt c.pkt 130 then d
    else match d.obj? c.bay (c.at 32 8) with
      | none => d.complete c stBadParam 0
      | some o =>
        if !c.mapOnly false || !d.mapOk c o.pageSize o.size then d.complete c stBadParam 0
        else if c.trapped then d.complete c stAborted 0
        else
          (d.addMap c.bay { va := c.at 24 8, bytes := c.at 48 8, objBay := c.bay, objId := o.id, off := c.at 40 8, write := bitAt c.pkt 128
                            prefetch := bitAt c.pkt 129, small := o.small }).complete c stOk (c.at 48 8 / o.pageSize)

/-- MAP REMOTE (R414 to R416), once the owner has answered what it knows of the object; `fail`: the status where it cannot. -/
def Dev.mapRemoteCmd (d : Dev) (q : Nat) (fail : Option Nat) (ans : Option PeerObj) : Dev :=
  match d.running? q 0x63 with
  | none => d
  | some c =>
    if !bitAt c.pkt 130 then d
    else if !c.mapOnly true then d.complete c stBadParam 0
    else if !d.ready then d.complete c stBusy 0
    else match ans with
      | none => d.complete c (fail.getD stBadParam) 0
      | some o =>
        let page := if o.small then 0x10000 else 0x200000
        let n := c.at 48 8
        if !d.mapOk c page o.size then d.complete c stBadParam 0
        else if o.exportMode = 0 || o.key ≠ c.at 20 4 || (bitAt c.pkt 128 && o.exportMode ≠ 2) then d.complete c stNoPerm 0
        else if d.t2Mapped c.bay + n > d.quota c.bay 2 then d.complete c stQuota 0
        else if c.trapped then d.complete c stAborted 0
        else
          (d.addMap c.bay { va := c.at 24 8, bytes := n, objBay := c.bay, objId := c.at 32 8, off := c.at 40 8, write := bitAt c.pkt 128
                            prefetch := bitAt c.pkt 129, small := o.small, peer := some (c.at 18 2), key := c.at 20 4 }).complete c stOk (n / page)

/-- The page size of a mapping. -/
def Mapping.page (m : Mapping) : Nat := if m.small then 0x10000 else 0x200000

/-- What is left of a mapping outside `[a, a + n)`. -/
def Mapping.without (m : Mapping) (a n : Nat) : List Mapping :=
  if !overlap a n m.va m.bytes then [m]
  else
    (if m.va < a then [{ m with bytes := a - m.va }] else [])
    ++ (if a + n < m.va + m.bytes then [{ m with va := a + n, off := m.off + (a + n - m.va), bytes := m.va + m.bytes - (a + n) }] else [])

/-- The pages of a mapping inside `[a, a + n)`. -/
def Mapping.pagesIn (m : Mapping) (a n : Nat) : Nat := (min (m.va + m.bytes) (a + n) - max m.va a) / m.page

/-- UNMAP (R418): once every earlier command that uses the range has completed. -/
def Dev.unmapCmd (d : Dev) (q : Nat) : Dev :=
  match d.running? q 0x64 with
  | none => d
  | some c =>
    let va := c.at 24 8
    let n := c.at 32 8
    let maps := (d.bay c.bay).maps
    let cuts (m : Mapping) (x : Nat) : Bool := !m.small && decide (m.va < x) && decide (x < m.va + m.bytes) && (x - m.va) % 0x200000 != 0
    let ok := c.only 1 [(24, 0, 64), (32, 0, 64)] && aligned va 16 && aligned n 16 && decide (va + n ≤ 2 ^ 48)
      && !(maps.any fun m => cuts m va || cuts m (va + n))
    if !ok then d.complete c stBadParam 0
    else if d.readOnly c.bay va n then d.complete c stNoPerm 0
    else if d.runningAll.any fun x => x.bay == c.bay && decide (x.order < c.order) && x.uses.any fun r => overlap va n r.1 r.2 then d
    else
      let hit := maps.filter fun m => overlap va n m.va m.bytes
      let removed := sumN (hit.map fun m => m.pagesIn va n)
      let d1 := hit.foldl (fun d m => d.unmapPeer m (min (m.va + m.bytes) (va + n) - max m.va va)) d
      (d1.modBay c.bay fun x => { x with maps := maps.flatMap fun m => m.without va n }).complete c stOk (min removed (2 ^ 32 - 1))

end Sys2Proof.Machine
end

