-- ==== Sys2Proof/Machine/Batten.lean ====
section
/-!
DEFINITION. Machine/Batten.lean: the Batten network (01 R10 to R17, R19, R20, R26): the dies and their link endpoints, the working modules of
each link, the fixed routes, and the traffic classes with their virtual channels, credits and order.
Where the spec is silent or is read by inference: DESIGN CHOICE log 54; DEDUCED log 55 (notes/assumptions).
-/
namespace Sys2Proof.Machine

/-! ## Dies and links (R10, R11, R26) -/

/-- The links of the dies around the grid (Table 1-1), each die's in ascending site code of the die at the far end; the order of an edge
die's links to Thatch dies is the model's choice (log 54: R26 orders grid neighbours, and links to edge dies). -/
def edgeLinks : List (Nat × List Nat) :=
  [(12, [0, 4, 18]), (13, [3, 7]), (14, [4, 8]), (15, [7, 11, 19]), (16, [1, 2]), (17, [9, 10]), (18, [0, 12]), (19, [11, 15])]

/-- The Batten link endpoints of a die in the order of R26, by the die at the far end. -/
def dieLinks (n : Nat) : List Nat :=
  if n < 12 then
    (if 4 ≤ n then [n - 4] else []) ++ (if n % 4 < 3 then [n + 1] else []) ++ (if n < 8 then [n + 4] else []) ++ (if n % 4 > 0 then [n - 1] else [])
      ++ (edgeLinks.filter fun e => e.2.contains n).map (·.1)
  else match edgeLinks.find? fun e => e.1 == n with
    | some e => e.2
    | none => []

/-- The die that hosts a stack (R11): its site code. -/
def hostDie (stack : Nat) : Nat := if stack < 24 then stack / 2 else 12 + (stack - 24) / 2

/-- The NI of a stack's PHY on its host die (Table 1-7a), as a unit identifier. -/
def phyNi (stack : Nat) : Nat := unitId (hostDie stack) 5 ((if stack < 24 then 24 else 15) + stack % 2)

/-- The die-row and die-column of a Thatch die. -/
def dieRow (n : Nat) : Nat := n / 4
def dieCol (n : Nat) : Nat := n % 4

/-- The site codes of the first-course ring in its order (R19). -/
def ringDies : List Nat := [0, 1, 2, 3, 13, 7, 15, 11, 10, 6, 5, 9, 8, 14, 4, 12]

/-- The place of a die on the ring. -/
def ringPos (die : Nat) : Nat := ringDies.findIdx (· == die)

/-- The die after a die of the ring. -/
def ringNext (die : Nat) : Nat := (ringDies[(ringPos die + 1) % 16]?).getD 0

/-! ## Working modules (R20) -/

/-- A link by its two dies, the lower site code first. -/
def linkKey (a b : Nat) : Nat := min a b * 32 + max a b

/-- UCIe modules of a link (Table 1-3): links of the Gable dies are narrow. -/
def linkModules (a b : Nat) : Nat := if a ≥ 18 || b ≥ 18 then 2 else 16

/-- The least number of working modules with which a link has not failed (R21). -/
def linkFloor (a b : Nat) : Nat := if a ≥ 18 || b ≥ 18 then 1 else 12

/-- UCIe modules of a link that still work. -/
def Dev.linkWorking (d : Dev) (a b : Nat) : Nat := linkModules a b - smGet 0 d.linkDropped (linkKey a b)

/-! ## Routes (R17) -/

/-- Hops between two Thatch dies along the grid. -/
def gridDist (a b : Nat) : Nat :=
  (max (dieRow a) (dieRow b) - min (dieRow a) (dieRow b)) + (max (dieCol a) (dieCol b) - min (dieCol a) (dieCol b))

/-- The Thatch die of a list that is nearest a Thatch die, the first on ties. -/
def nearestOf (goal : Nat) (xs : List Nat) : Nat :=
  xs.foldl (fun best x => if gridDist x goal < gridDist best goal then x else best) (xs.headD 0)

/-- The Thatch die by which a message to `dst` leaves the grid: `dst` itself, or its linked Thatch die with the lowest number, for all
of them are one hop from it. -/
def gridExit (dst : Nat) : Nat := if dst < 12 then dst else ((dieLinks dst).filter (· < 12)).headD 0

/-- The die after `at_` on the fixed route to `dst`: along the die-row first, then along the die-column; a die around the grid sends
into it by its linked Thatch die nearest the destination. Dies that a link joins use that link (log 55). -/
def battenNext (at_ dst : Nat) : Nat :=
  if (dieLinks at_).contains dst then dst
  else
    let y := gridExit dst
    if at_ ≥ 12 then nearestOf y ((dieLinks at_).filter (· < 12))
    else if dieCol at_ < dieCol y then at_ + 1
    else if dieCol y < dieCol at_ then at_ - 1
    else if dieRow at_ < dieRow y then at_ + 4
    else at_ - 4

/-- The dies that a message passes, after its source and up to its destination. -/
def battenPath : Nat → Nat → Nat → List Nat
  | 0, _, _ => []
  | n + 1, at_, dst => if at_ = dst then [] else battenNext at_ dst :: battenPath n (battenNext at_ dst) dst

/-- The fixed route between two dies; none is longer than 7 hops. -/
def battenRoute (src dst : Nat) : List Nat := battenPath 7 src dst

/-! ## Classes, channels and order (R15, R16) -/

/-- The die of an NI's unit identifier. -/
def niDie (u : Nat) : Nat := fld u 0 8

/-- Messages of a class that a die buffers, the ones still at the die that sent them apart: the credits of the class's virtual channel that
are in use there. -/
def Dev.vcUsed (d : Dev) (die : Nat) (cls : TClass) : Nat :=
  (d.batten.filter fun m => m.at_ == die && m.cls == cls && m.at_ != niDie m.src).length

/-- Has a die a credit of a class left? Only messages of that class use them, so no class blocks another. -/
def Dev.vcFree (d : Dev) (die : Nat) (cls : TClass) : Bool := decide (d.vcUsed die cls < Config.battenCredits cls.code + 1)

/-- Messages of one flow keep their order: the same source NI, destination NI and class. -/
def BMsg.sameFlow (a b : BMsg) : Bool := a.src == b.src && a.dst == b.dst && a.cls == b.cls

/-- Is a message a request whose stack withholds credits, its ingress queue not being empty (07 R194)? It waits where it was sent. -/
def Dev.withheld (d : Dev) (m : BMsg) : Bool :=
  m.cls == .request && m.at_ == niDie m.src && (upFrom 0 32).any fun k => phyNi k == m.dst && !(smGet {} d.eave k).ingress.isEmpty

/-- Is an NI one of a die of the package? -/
def niOk (u : Nat) : Bool := decide (niDie u < 20) && fld u 8 4 == 5 && onlyFields u 32 [(0, 12), (16, 12)]

/-- Put a message on the network at its source; it waits there for its first credit. -/
def Dev.battenSend (d : Dev) (src dst : Nat) (cls : TClass) (words : List Nat) : Dev :=
  { d with batten := d.batten ++ [{ src := src, dst := dst, cls := cls, at_ := niDie src, words := words }] }

/-- Message number `n` goes one hop on, where the next die has a credit of its class and no earlier message of its flow is still
where it is; at its destination it is handed over. -/
def Dev.battenHop (d : Dev) (n : Nat) : Dev :=
  match d.batten[n]? with
  | none => d
  | some m =>
    if (d.batten.take n).any (fun x => x.sameFlow m && x.at_ == m.at_) || d.withheld m then d
    else if m.at_ = niDie m.dst then { d with batten := d.batten.eraseIdx n, delivered := m :: d.delivered }
    else
      let x := battenNext m.at_ (niDie m.dst)
      if d.vcFree x m.cls then { d with batten := modAt d.batten n fun y => { y with at_ := x } } else d

/-- Every message from number `n` on that may goes one hop, the oldest first; one that is handed over leaves its number to the next. -/
def Dev.battenHops : Nat → Nat → Dev → Dev
  | 0, _, d => d
  | fuel + 1, n, d =>
    let d1 := d.battenHop n
    Dev.battenHops fuel (if d1.batten.length < d.batten.length then n else n + 1) d1

/-- A beat of the network. What was delivered in the beat before has been taken. -/
def Dev.battenBeat (d : Dev) : Dev := Dev.battenHops d.batten.length 0 { d with delivered := [] }

end Sys2Proof.Machine
end

