-- ==== Sys2Proof/Machine/Entries.lean ====
section
/-!
DEFINITION. Machine/Entries.lean: what the entries of a KERNEL share (13 R381, R382, R549; 05 R143; 06 R178, R180): their
state, their order, the start of an entry, its failure, and the reports it makes.
Where the spec is silent or is read by inference: DESIGN CHOICE log 6; DEDUCED log 22 (notes/assumptions).
-/
namespace Sys2Proof.Machine

/-- The KERNEL running on an SQ. -/
def Dev.kernel? (d : Dev) (q : Nat) : Option KernelRun := d.kernels.find? fun k => k.sq == q

/-- Change the KERNEL running on an SQ. -/
def Dev.modKernel (d : Dev) (q : Nat) (f : KernelRun → KernelRun) : Dev :=
  { d with kernels := d.kernels.map fun k => if k.sq == q then f k else k }

/-- Change an entry of a KERNEL. -/
def Dev.modEntry (d : Dev) (q i : Nat) (f : Entry → Entry) : Dev :=
  d.modKernel q fun k => { k with entries := modAt k.entries i f }

/-- Set the state of an entry. -/
def Dev.setEntry (d : Dev) (q i : Nat) (st : EntrySt) : Dev := d.modEntry q i fun e => { e with st := st }

/-- An entry of a KERNEL and the command that runs it. -/
def Dev.entry? (d : Dev) (q i : Nat) : Option (Cmd × KernelRun × Entry) :=
  match d.running? q 0x20, d.kernel? q with
  | some c, some k => match k.entries[i]? with
    | some e => some (c, k, e)
    | none => none
  | _, _ => none

/-- Has an entry ended (or never to start)? -/
def EntrySt.isOver : EntrySt → Bool
  | .ended | .failed _ => true
  | _ => false

/-- Has an entry failed? -/
def EntrySt.bad : EntrySt → Bool
  | .failing _ | .failed _ => true
  | _ => false

/-- Is an entry running, or finished with its end still to be processed? -/
def EntrySt.live : EntrySt → Bool
  | .thatch _ | .copy _ | .stream _ | .finished | .failing _ => true
  | _ => false

/-- A KERNEL starts no further entry once one has failed or its deadline has passed (R549, R379). -/
def KernelRun.stopped (k : KernelRun) : Bool := k.missed || k.entries.any fun e => e.st.bad

/-- Entries before index `i`. -/
def KernelRun.before (k : KernelRun) (i : Nat) : List Entry := k.entries.take i

/-- Is the entry a copy descriptor or Eave operation with GATE set (R178, R206)? -/
def Entry.gate (e : Entry) : Bool := (e.cls == 3 || e.cls == 4) && bitAt e.desc 4

/-- Thatch operations of a KERNEL start in descriptor order, after earlier Lath operations and gating copies have ended
(R381, R143, R178). -/
def KernelRun.thatchMayStart (k : KernelRun) (i : Nat) : Bool :=
  (k.before i).all fun e => e.st.isOver || !(e.cls == 1 || e.cls == 2 || e.gate)

/-- Lath operations run in descriptor order; with AFTER_THATCH they wait for earlier Thatch operations (R143, R178). -/
def KernelRun.lathMayStart (k : KernelRun) (i : Nat) (afterThatch : Bool) : Bool :=
  (k.before i).all fun e => e.st.isOver || !(e.cls == 2 || e.gate || (afterThatch && e.cls == 1))

/-- The deadline of a command has passed (R379). -/
def Dev.passed (d : Dev) (c : Cmd) : Bool := c.deadline != 0 && decide (c.deadline < d.now)

/-- A KERNEL whose deadline has passed before an entry starts leaves it and the rest unstarted (R379). -/
def Dev.missKernel (d : Dev) (q : Nat) : Dev := d.modKernel q fun k => { k with missed := true }

/-- An entry fails with a status (R549). -/
def Dev.failEntry (d : Dev) (q i status : Nat) : Dev := d.setEntry q i (.failing status)

/-- The 32-bit counter at a Loft address. -/
def Dev.loftCounter (d : Dev) (a : Nat) : Nat := ofLe (d.loftRead a 4)

/-- Write a 32-bit counter (R166); address 0xFFFF_FFFF is none. -/
def Dev.setLoftCounter (d : Dev) (a v : Nat) : Dev := if a = 0xFFFFFFFF then d else d.loftWrite a (toLe 4 v)

/-- Write a 32-bit counter for entry `i` of a KERNEL: where it cuts a Loft word with an uncorrectable error, the word stays and the entry
fails (R161). -/
def Dev.putCounter (d : Dev) (c : Cmd) (q i a v : Nat) : Dev :=
  if a = 0xFFFFFFFF then d
  else match d.loftCut a 4 with
    | some w => (d.recordLoft c w).failEntry q i stUncorr
    | none => d.loftWrite a (toLe 4 v)

end Sys2Proof.Machine
end

