-- ==== Sys2Proof/Machine/Thatch.lean ====
section
/-!
DEFINITION. Machine/Thatch.lean: Thatch operations (04): the descriptor and its checks, the product of R98 to R106, the
passes of R115 to R117, the drain of R122 to R124, and the rows THATCH_OP_START and THATCH_PASS_END; and the array
configuration switch (R109 to R114).
Where the spec is silent or is read by inference: DESIGN CHOICE logs 6, 77; DEDUCED logs 26, 48, 49, 57, 76 (notes/assumptions).
-/
namespace Sys2Proof.Machine

/-! ## The descriptor -/

/-- A Thatch operation (Table 4-5). -/
structure ThatchOp where
  grouped : Bool
  bwd : Bool
  fold : Nat
  sr : Nat
  addend : Bool
  reduce : Bool
  spar : Bool
  kstrA : Bool
  kstrB : Bool
  subRows : Nat
  subCols : Nat
  m : Nat
  n : Nat
  k : Nat
  groups : Nat
  step : Nat
  aLoft : Nat
  bLoft : Nat
  dLoft : Nat
  addLoft : Nat
  table : Nat
  done : Nat
  sparA : Nat
  sparB : Nat
  fa : FmtDesc
  fb : FmtDesc
  fdst : FmtDesc
  deriving DecidableEq, Repr

/-- The operand pairs of Table 4-1. -/
def pairOk (a b : Fmt) : Bool :=
  (!a.wide && !b.wide) || ((a == .bf16 || a == .fp16) && (b == .bf16 || b == .fp16))

/-- Cycles per unit of K, times two (Table 4-1). -/
def pairHalfCycles (a b : Fmt) : Nat := if a == .e2m1 && b == .e2m1 then 1 else if a.wide then 8 else 2

/-- The fields of a descriptor in use (Table 4-5), for the reserved-field check of R545. -/
def thatchFields (grouped addend spar : Bool) : List (Nat × Nat) :=
  [(0, 4), (4, 1), (8, 2), (10, 2), (12, 1), (13, 1), (14, 1), (16, 2), (24, 4), (32, 5), (64, 32), (96, 32), (128, 32),
    (160, 32), (192, 32), (256, 32), (288, 32), (320, 32), (416, 32), (768, 320), (1088, 320), (1408, 320)]
  ++ (if addend then [(352, 32)] else []) ++ (if grouped then [(384, 32)] else [])
  ++ (if spar then [(448, 32), (480, 32)] else [])

/-- A format descriptor of a Loft tensor: its addresses are Loft addresses (R119, R160). -/
def loftFmt (f : FmtDesc) : Bool := decide (f.scaleVa < 2 ^ 32) && decide (f.coarseVa < 2 ^ 32)

/-- Read a Thatch operation and make the issue checks of Table 4-7 but for the Loft ranges. -/
def parseThatch (n : Nat) : Option ThatchOp :=
  match parseFmt true (bytesAt n 96 40), parseFmt true (bytesAt n 136 40), parseFmt false (bytesAt n 176 40) with
  | some fa, some fb, some fdst =>
    let kind := fld n 0 4
    let o : ThatchOp :=
      { grouped := kind == 2, bwd := bitAt n 4, fold := fld n 8 2, sr := fld n 10 2, addend := bitAt n 12
        reduce := bitAt n 13, spar := bitAt n 14, kstrA := bitAt n 16, kstrB := bitAt n 17, subRows := fld n 24 4
        subCols := fld n 32 5, m := bytesAt n 8 4, n := bytesAt n 12 4, k := bytesAt n 16 4, groups := bytesAt n 20 4
        step := bytesAt n 24 4, aLoft := bytesAt n 32 4, bLoft := bytesAt n 36 4, dLoft := bytesAt n 40 4
        addLoft := bytesAt n 44 4, table := bytesAt n 48 4, done := bytesAt n 52 4, sparA := bytesAt n 56 4
        sparB := bytesAt n 60 4, fa := fa, fb := fb, fdst := fdst }
    let ok :=
      onlyFields n 2048 (thatchFields o.grouped o.addend o.spar)
      && (kind == 1 || kind == 2)
      && (if o.grouped then inRange 1 65536 o.groups else o.groups == 1)
      && inRange 1 16777216 o.m && inRange 1 16777216 o.n && inRange 1 268435456 o.k
      && pairOk fa.elem fb.elem && loftFmt fa && loftFmt fb && loftFmt fdst
      && (o.grouped || (fa.rowLen == (if o.kstrA then o.m else o.k) && fb.rowLen == (if o.kstrB then o.n else o.k)
            && fdst.rowLen == o.n && !fa.coarseSrc && !fb.coarseSrc && !fdst.coarseSrc))
      && (!fa.coarseSrc || fa.sliceBlocks == 1) && (!fb.coarseSrc || fb.sliceBlocks == 1)
      && (!fdst.coarseSrc || fdst.sliceBlocks == 1)
      && (if o.fold = 0 then o.subRows == 0 && o.subCols == 0 else inRange 1 12 o.subRows && inRange 1 16 o.subCols)
      && (o.fold != 1 || decide (o.k > 4096))
      && (!o.spar || (!fa.elem.wide && !fb.elem.wide))
      && (!o.reduce || (!o.addend && fdst.elem == .fp32 && fdst.mode == .none && !fdst.coarseSrc && fdst.coarse == 0x3F800000))
    if ok then some o else none
  | _, _, _ => none

/-- A group of an operation: its effective extents and offsets (Table 4-6). -/
structure Group where
  m : Nat
  n : Nat
  k : Nat
  aOff : Nat
  bOff : Nat
  dOff : Nat
  addOff : Nat
  aSoff : Nat
  bSoff : Nat
  dSoff : Nat
  aSp : Nat
  bSp : Nat
  deriving DecidableEq, Repr

/-- The group of a SINGLE operation. -/
def ThatchOp.single (o : ThatchOp) : Group :=
  { m := o.m, n := o.n, k := o.k, aOff := 0, bOff := 0, dOff := 0, addOff := 0, aSoff := 0, bSoff := 0, dSoff := 0, aSp := 0, bSp := 0 }

/-- Read a group table entry (Table 4-6); `none` where it breaks a range or a reserved field. ADD_OFF is zero without ADDEND
(its description). DESIGN CHOICE log 77: A_SPOFF and B_SPOFF, whose descriptions name no case, must be zero when SPAR is 0 (R545). -/
def ThatchOp.group (o : ThatchOp) (e : Nat) : Option Group :=
  let m := bytesAt e 0 4
  let n := bytesAt e 4 4
  let k := bytesAt e 8 4
  let g : Group :=
    { m := m, n := if n = 0 then o.n else n, k := if k = 0 then o.k else k, aOff := bytesAt e 16 4, bOff := bytesAt e 20 4
      dOff := bytesAt e 24 4, addOff := bytesAt e 28 4, aSoff := bytesAt e 32 4, bSoff := bytesAt e 36 4, dSoff := bytesAt e 40 4
      aSp := bytesAt e 48 4, bSp := bytesAt e 52 4 }
  let ok := onlyFields e 512 ([(0, 32), (32, 32), (64, 32), (128, 32), (160, 32), (192, 32), (256, 32), (288, 32), (320, 32)]
      ++ (if o.addend then [(224, 32)] else []) ++ (if o.spar then [(384, 32), (416, 32)] else []))
    && decide (m ≤ 16777216) && decide (n ≤ 16777216) && decide (k ≤ 268435456)
  if ok then some g else none

/-- The stored shape of A: (rows, contiguous extent) (R107). -/
def ThatchOp.shapeA (o : ThatchOp) (g : Group) : Nat × Nat := if o.kstrA then (g.k, g.m) else (g.m, g.k)

/-- The stored shape of B. -/
def ThatchOp.shapeB (o : ThatchOp) (g : Group) : Nat × Nat := if o.kstrB then (g.k, g.n) else (g.n, g.k)

/-- A format descriptor with a group's own row length (R107). -/
def FmtDesc.withRow (f : FmtDesc) (l : Nat) : FmtDesc := { f with rowLen := l }

/-- The Loft ranges that a group's extents cover: A, B, D, the addend, the fine scales (R121). -/
def ThatchOp.ranges (o : ThatchOp) (g : Group) : List (Nat × Nat) :=
  let (ra, la) := o.shapeA g
  let (rb, lb) := o.shapeB g
  let fa := o.fa.withRow la
  let fb := o.fb.withRow lb
  let fd := o.fdst.withRow g.n
  [(o.aLoft + g.aOff, elemBytes o.fa.elem (ra * la)), (o.bLoft + g.bOff, elemBytes o.fb.elem (rb * lb)),
   (fa.scaleVa + g.aSoff, fa.scaleBytes ra), (fb.scaleVa + g.bSoff, fb.scaleBytes rb)]
  ++ (if o.reduce then [] else
    [(o.dLoft + g.dOff, elemBytes o.fdst.elem (g.m * g.n)), (fd.scaleVa + g.dSoff, fd.scaleBytes g.m)])
  ++ (if o.addend then [(o.addLoft + g.addOff, 4 * g.m * g.n)] else [])

/-- The Loft ranges a group's passes read (R161). -/
def ThatchOp.readRanges (o : ThatchOp) (g : Group) : List (Nat × Nat) :=
  let (ra, la) := o.shapeA g
  let (rb, lb) := o.shapeB g
  [(o.aLoft + g.aOff, elemBytes o.fa.elem (ra * la)), (o.bLoft + g.bOff, elemBytes o.fb.elem (rb * lb)),
   (o.fa.scaleVa + g.aSoff, (o.fa.withRow la).scaleBytes ra), (o.fb.scaleVa + g.bSoff, (o.fb.withRow lb).scaleBytes rb)]
  ++ (if o.addend then [(o.addLoft + g.addOff, 4 * g.m * g.n)] else [])

/-- The Loft ranges a descriptor fixes (R121, issue). -/
def ThatchOp.fixedRanges (o : ThatchOp) : List (Nat × Nat) :=
  (if o.grouped then [(o.table, 64 * o.groups)] else o.ranges o.single)
  ++ (if o.done = 0xFFFFFFFF then [] else [(o.done, 4 * o.groups)])
  ++ (if o.spar then [(o.sparA, 272), (o.sparB, 272)] else [])
  ++ (if o.fa.coarseSrc then [(o.fa.coarseVa, 4 * o.groups)] else [])
  ++ (if o.fb.coarseSrc then [(o.fb.coarseVa, 4 * o.groups)] else [])
  ++ (if o.fdst.coarseSrc then [(o.fdst.coarseVa, 4 * o.groups)] else [])

/-- Are all ranges inside the bay's grant? Empty ranges name no byte. -/
def Dev.grants (d : Dev) (b : Nat) (rs : List (Nat × Nat)) : Bool := rs.all fun r => r.2 == 0 || d.loftGranted b r.1 r.2

/-- The issue check of a Thatch operation (R121): the status that fails it. -/
def Dev.thatchIssue (d : Dev) (b desc : Nat) : Option Nat :=
  match parseThatch desc with
  | none => some stBadParam
  | some o => if d.grants b o.fixedRanges then none else some stNoPerm

/-! ## Spar lists (03 R83) -/

/-- A spar list (Table 3-4). -/
structure SparList where
  row : Bool
  extent : Nat
  va : Nat
  chans : List Nat
  deriving DecidableEq, Repr

/-- Are the channels strictly ascending and below the extent? -/
def chansOk (extent : Nat) : List Nat → Bool
  | [] => true
  | [a] => decide (a < extent)
  | a :: b :: r => decide (a < b) && chansOk extent (b :: r)

/-- Read a spar list from its 272 bytes; `none` where it is invalid (R83). -/
def parseSpar (n : Nat) : Option SparList :=
  let count := bytesAt n 0 2
  let chans := (upFrom 0 count).map fun i => bytesAt n (16 + 4 * i) 4
  let l : SparList := { row := bitAt n 16, extent := bytesAt n 4 4, va := bytesAt n 8 8, chans := chans }
  let ok := inRange 1 64 count && onlyFields n 2176 [(0, 16), (16, 1), (32, 32), (64, 48), (128, 32 * count)]
    && chansOk l.extent chans
  if ok then some l else none

/-! ## Operands (R98) -/

/-- The exact values of one block (R98): element times fine scale, coarse scale not applied. -/
def exactBlock (f : FmtDesc) (flush coarseBad : Bool) (k bi : Nat) (codes : List Nat) : List Fv × Report :=
  if coarseBad || (f.mode.fine && k != 0 && badFine k) || (f.mode == .mx && k == 0xFF) then
    (codes.map fun _ => .nan, { nans := [(6, bi % 2 ^ 32)] })
  else if f.mode.fine && k == 0 then (codes.map fun _ => .num false 0 0, {})
  else
    let s : Fv := if f.mode == .mx then decode .e8m0 k else if f.mode.fine then decode .ue4m3 k else .num false 1 0
    let rs := codes.map fun q => flushCode flush f.elem q
    (rs.map fun r => (decode f.elem r.1).mul s,
      { nans := if codes.any (isNan f.elem) then [(4, bi % 2 ^ 32)] else [], flushed := rs.any (·.2) })

/-- One stored row of an operand: its blocks' values and reports, block indices from `bi`. -/
def exactRow (f : FmtDesc) (flush coarseBad : Bool) : Nat → List (List Nat) → List Nat → List Fv × List Report
  | _, [], _ => ([], [])
  | bi, cs :: r, ks =>
    let (v, rep) := exactBlock f flush coarseBad (ks.headD 0) bi cs
    let (vs, reps) := exactRow f flush coarseBad (bi + 1) r ks.tail
    (v ++ vs, rep :: reps)

/-- An operand of a group as stored: per row its values, and per row its blocks' reports. -/
structure Operand where
  rows : List (List Fv)
  reps : List (List Report)
  deriving DecidableEq, Repr

/-- The element codes of `rows` rows of `f.rowLen` elements from packed bytes (R34). -/
def rowCodes (f : FmtDesc) (rows : Nat) (bs : List Byte) : List (List Nat) :=
  let total := rows * f.rowLen
  chunksOf f.rowLen rows (unpackCodes f.elem.bits total (ofLe bs))

/-- Decode an operand's rows from its bytes and fine scales. -/
def operandRows (f : FmtDesc) (flush coarseBad : Bool) : Nat → List (List Nat) → List Nat → List (List Fv × List Report)
  | _, [], _ => []
  | bi, row :: r, ks =>
    let nb := f.blocksPerRow
    exactRow f flush coarseBad bi (chunksOf f.block nb row) (ks.take nb) :: operandRows f flush coarseBad (bi + nb) r (ks.drop nb)

/-- Load an operand of a group from the Loft; `b0` is the index of the group's first block in the tensor. -/
def Dev.operand (d : Dev) (f : FmtDesc) (flush : Bool) (coarse rows a s b0 : Nat) : Operand :=
  let codes := rowCodes f rows (d.loftRead a (elemBytes f.elem (rows * f.rowLen)))
  let ks := (d.loftRead s (f.scaleBytes rows)).map (·.toNat)
  let rs := operandRows f flush (!posNormal32 coarse && f.mode != .mx) b0 codes ks
  { rows := rs.map (·.1), reps := rs.map (·.2) }

/-- Element (i, k) of an operand, K_CONTIG or K_STRIDED; a listed spar channel reads as zero (R85). -/
def Operand.at (p : Operand) (strided : Bool) (chans : List Nat) (i k : Nat) : Fv :=
  if chans.contains k then .num false 0 0
  else
    let r := if strided then k else i
    let c := if strided then i else k
    ((p.rows[r]?).getD [])[c]? |>.getD (.num false 0 0)

/-- The reports of the blocks that feed lanes `i0 .. i0 + n - 1` over the whole of K. DEDUCED log 76: a NaN code stored at a spar position is
an item of its block, though R85 reads the position as zero. -/
def Operand.reportFor (p : Operand) (strided : Bool) (block i0 n : Nat) : Report :=
  let pick := if strided then
      p.reps.map fun r => (r.drop (i0 / block)).take ((i0 + n - 1) / block - i0 / block + 1)
    else (p.reps.drop i0).take n
  pick.foldl (fun a r => r.foldl Report.join a) {}

/-! ## The product (R99, R101, R106) -/

/-- The exact sum of products over the listed k (R99, at most 16 of them). -/
def exactSum (va vb : Nat → Fv) (ks : List Nat) : Fv :=
  ks.foldl (fun s k => s.add ((va k).mul (vb k))) (.num false 0 0)

/-- The chunk sum of R99 over `[k0, k1)`: groups of 16, each added with one rounding. -/
def chunkSum (va vb : Nat → Fv) (k0 k1 : Nat) : Nat :=
  (chunksOf 16 ((k1 - k0) / 16 + 1) (upFrom k0 (k1 - k0))).foldl
    (fun ch ks => fp32Rne ((f32 ch).add (exactSum va vb ks))) 0

/-- fp32_sr of R101 for the exact sum of two FP32 codes. -/
def fp32Sr (v : Fv) (r : Nat) : Nat :=
  match v with
  | .nan => nanOf .fp32
  | .inf s => infCode .fp32 s
  | .num s m e => let (a, b) := scaleFrac m 1 e; roundIeee .fp32 (.sr r) s a b

/-- The folds of R99 from chunk `c` on, `n` chunks left. -/
def foldChunks (va vb : Nat → Fv) (k : Nat) (sr : Bool) (draw : Nat → Nat) : Nat → Nat → Nat → Nat
  | 0, _, run => run
  | n + 1, c, run =>
    let ch := chunkSum va vb (4096 * c) (min (4096 * c + 4096) k)
    let run' := if c = 0 then ch
      else if sr then fp32Sr ((f32 run).add (f32 ch)) (draw c)
      else f32Add run ch
    foldChunks va vb k sr draw n (c + 1) run'

/-- thatch_element of R99: the drained value. -/
def thatchElement (va vb : Nat → Fv) (k : Nat) (sr : Bool) (draw : Nat → Nat) (ca cb : Nat) (spar addend : Option Nat) : Nat :=
  let run := foldChunks va vb k sr draw (ceilDiv k 4096) 0 0
  let v := f32Mul run (f32Mul ca cb)
  let v := match spar with | none => v | some s => f32Add v s
  match addend with | none => v | some a => f32Add v a

/-- sr_active of R100 for a group with contraction length `k`. -/
def srActive (mode k : Nat) : Bool := mode == 2 || (mode == 1 && decide (k > 16384))

/-- The SR mode of an operation from its SR field and the latched THATCH_CFG.SR_MODE (R100): 0 OFF, 1 AUTO, 2 ON. -/
def srModeOf (field latched : Nat) : Nat := if field = 0 then latched else field - 1

/-! ## Passes (R115 to R117) -/

/-- The sub-arrays of an operation on an engine of `e` row units: (rows, columns, count, columns of sub-arrays). -/
def ThatchOp.subs (o : ThatchOp) (e : Nat) : Nat × Nat × Nat × Nat :=
  if o.fold = 0 then (256 * e, 4096, 1, 1)
  else
    let sr := min o.subRows e
    (256 * sr, 256 * o.subCols, (e / sr) * (16 / o.subCols), 16 / o.subCols)

/-- A pass: its group, its block row and block column (R116). -/
structure Pass where
  g : Nat
  br : Nat
  bc : Nat
  deriving DecidableEq, Repr

/-- The passes of a group's output blocks, block rows first. -/
def groupPasses (g : Nat) (gr : Group) (rows cols : Nat) : List Pass :=
  if gr.m = 0 then []
  else (upFrom 0 (ceilDiv gr.m rows)).flatMap fun br => (upFrom 0 (ceilDiv gr.n cols)).map fun bc => ⟨g, br, bc⟩

/-- All passes in their numbering (R116). -/
def allPasses (rows cols : Nat) : Nat → List Group → List Pass
  | _, [] => []
  | g, gr :: r => groupPasses g gr rows cols ++ allPasses rows cols (g + 1) r

/-- The pass time of a group in cycles (R127). -/
def passTime (o : ThatchOp) (g : Group) : Nat := max (ceilDiv g.k 16 * 16 * pairHalfCycles o.fa.elem o.fb.elem / 2) 2048

/-- The index of the least member, the lowest on ties. -/
def argMin : List Nat → Nat
  | [] => 0
  | a :: r => (r.foldl (fun (acc : Nat × Nat × Nat) x => let (bi, bv, i) := acc
      if x < bv then (i + 1, x, i + 1) else (bi, bv, i + 1)) (0, a, 0)).1

/-- SPLIT_GROUP's sub-array of each group (R116): the one with the fewest cycles assigned so far. -/
def assignGroups (o : ThatchOp) (rows cols : Nat) : List Group → List Nat → List Nat
  | [], _ => []
  | g :: r, load =>
    let s := argMin load
    let t := (groupPasses 0 g rows cols).length * passTime o g
    s :: assignGroups o rows cols r (modAt load s (· + t))

/-- The sub-array that runs pass number `n` (R116, R117: SPLIT_K folds on sub-array 0). -/
def passSub (o : ThatchOp) (gs : List Group) (rows cols s n : Nat) (p : Pass) : Nat :=
  match o.fold with
  | 3 => n % s
  | 2 => ((assignGroups o rows cols gs (List.replicate s 0))[p.g]?).getD 0
  | _ => 0

/-! ## Starting an operation (R108, R113, R114, R120, R121) -/

/-- THATCH_ARRAY_STS.CONFIG is SPLIT. -/
def Dev.split (d : Dev) : Bool := d.fd .thatchArraySts 0 0 2 == 2

/-- The engine an operation runs on: first row unit, row units, and the slot it needs (R108, R114, R391). -/
def Dev.engineOf (d : Dev) (bwd : Bool) : Nat × Nat × Nat :=
  if !d.split then (0, 12, 0)
  else if bwd && d.ready then (4, 8, 1) else (0, 4, 0)

/-- Is an engine running a Thatch operation? `slot` 0 is Ridge or the joined array, 1 is Valley. -/
def Dev.engineBusy (d : Dev) (slot : Nat) : Bool :=
  d.kernels.any fun k => k.entries.any fun e => match e.st with
    | .thatch r => (if slot = 0 then decide (r.firstUnit = 0) else decide (r.firstUnit = 4))
    | _ => false

/-- Does SQ `q` hold a slot? -/
def Dev.holdsSlot (d : Dev) (q slot : Nat) : Bool :=
  match (if slot = 0 then d.sched.slot0 else d.sched.slot1) with
  | some (x, _) => x.sq == q
  | none => false

/-- Read the group table of an operation, or its one group. -/
def Dev.thatchGroups (d : Dev) (o : ThatchOp) : List Nat × List (Option Group) :=
  if o.grouped then
    let es := (upFrom 0 o.groups).map fun g => ofLe (d.loftRead (o.table + 64 * g) 64)
    (es, es.map o.group)
  else ([], [some o.single])

/-- The groups of a running operation, from the table read at its start. -/
def ThatchOp.groupsOf (o : ThatchOp) (table : List Nat) : List Group :=
  if o.grouped then table.map fun e => (o.group e).getD o.single else [o.single]

/-- Does a group with work keep the packing multiples of R34 (R107)? -/
def ThatchOp.packOk (o : ThatchOp) (g : Group) : Bool :=
  g.m == 0 || ((o.shapeA g).2 % o.fa.elem.rowMultiple == 0 && (o.shapeB g).2 % o.fb.elem.rowMultiple == 0
    && g.n % o.fdst.elem.rowMultiple == 0)

/-- The spar lists of an operation read and checked (R83, R85, R107). -/
def Dev.sparLists (d : Dev) (o : ThatchOp) : Option (SparList × SparList) :=
  match parseSpar (ofLe (d.loftRead o.sparA 272)), parseSpar (ofLe (d.loftRead o.sparB 272)) with
  | some a, some b =>
    if a.chans == b.chans && a.row == o.kstrA && b.row == o.kstrB && a.extent == b.extent
      && decide (a.va < 2 ^ 32) && decide (b.va < 2 ^ 32) then some (a, b) else none
  | _, _ => none

/-- The start check of an operation (R121, R272): the status that fails it. -/
def Dev.thatchStart (d : Dev) (b : Nat) (o : ThatchOp) : Option Nat :=
  let gs := (d.thatchGroups o).2
  if gs.any (·.isNone) then some stBadParam
  else
    let gs := gs.filterMap id
    let work := gs.filter fun g => g.m != 0
    let sp := d.sparLists o
    if !(work.all o.packOk) then some stBadParam
    else if o.fold == 1 && gs.any (fun g => decide (g.k ≤ 4096)) then some stBadParam
    else if o.spar && (match sp with
        | none => true
        | some (a, _) => !(work.all fun g => g.k == a.extent)) then some stBadParam
    else if o.grouped && !(d.grants b (work.flatMap o.ranges)) then some stNoPerm
    else if o.spar && (match sp with
        | none => true
        | some (a, c) => !(d.grants b (work.flatMap fun g =>
            [(a.va + g.aSp, 2 * a.chans.length * g.m), (c.va + g.bSp, 2 * a.chans.length * g.n)]))) then some stNoPerm
    else if o.reduce then
      match smFind (d.bay b).handles o.dLoft with
      | none => some stBadParam
      | some h =>
        let total := (gs.map fun g => g.m * g.n).foldl (· + ·) 0
        if total > h.elements then some stBadParam
        else if (d.checkVa b h.accVa (4 * total) true).isSome then some stNotMapped
        else if !d.inTiers b h.accVa (4 * total) [1] then some stBadParam
        else none
    else none

/-- Are Thatch operations admitted (R110; in early service once TD0 to TD3 have their microcode, 17 R496; not before a deferred test that a
TURN's end made due, 19 R541)? -/
def Dev.thatchAdmits (d : Dev) : Bool := !d.rbit .thatchArraySts 0 2 && !d.rbit .thatchArraySts 0 3 && d.enginesRun
  && (d.ready || fld (d.rd .bringPegDone 0) 0 4 == 15) && !d.turnEnded

/-- THATCH_OP_START: entry `i` of the KERNEL on SQ `q` starts on its engine. -/
def Dev.thatchOpStart (d : Dev) (q i : Nat) : Dev :=
  match d.entry? q i with
  | none => d
  | some (c, k, e) =>
    match e.st, parseThatch e.desc with
    | .waiting, some o =>
      let (u0, us, slot) := d.engineOf o.bwd
      if e.cls != 1 || k.stopped || !k.thatchMayStart i || !(d.holdsSlot q 0 || d.holdsSlot q 1) || d.engineBusy slot || !d.thatchAdmits then d
      else if d.passed c then d.missKernel q
      else match d.thatchStart c.bay o with
        | some s => d.failEntry q i s
        | none =>
          let r : ThatchRun :=
            { srMode := srModeOf o.sr (d.fd .thatchCfg 0 0 2), groups := (d.thatchGroups o).1, firstUnit := u0, units := us
              accVa := ((smFind (d.bay c.bay).handles o.dLoft).map (·.accVa)).getD 0 }
          let d1 := d.setEntry q i (.thatch r)
          if o.done = 0xFFFFFFFF then d1 else (upFrom 0 o.groups).foldl (fun d g => d.putCounter c q i (o.done + 4 * g) 0) d1
    | _, _ => d

/-! ## Ending a pass (R122 to R124) -/

/-- Tiles of a group's output (R105). -/
def Group.tiles (g : Group) : Nat := ceilDiv g.m 64 * ceilDiv g.n 64

/-- The sum of `f` over the first `n` groups. -/
def sumGroups (f : Group → Nat) (gs : List Group) (n : Nat) : Nat := ((gs.take n).map f).foldl (· + ·) 0

/-- Blocks of a group's rows of a tensor. The blocks of an operand count on from group to group, for A, B and D are one tensor
each, of which a group has rows, and a group whose M_G is 0 has none (R107, R547). -/
def blocksOf (f : FmtDesc) (shape : Nat × Nat) : Nat := shape.1 * ceilDiv shape.2 f.block

/-- A coarse scale of an operand or destination of group `g` (R120). -/
def Dev.coarseOf (d : Dev) (f : FmtDesc) (g : Nat) : Nat := if f.coarseSrc then ofLe (d.loftRead (f.coarseVa + 4 * g) 4) else f.coarse

/-- The coarse factor of an operand in a product (R99): 1.0 in MX mode, which does not use its coarse scale (02 R36). -/
def Dev.coarseFactor (d : Dev) (f : FmtDesc) (g : Nat) : Nat := if f.mode == .mx then 0x3F800000 else d.coarseOf f g

/-- The die of a cell: (array row, array column) (R28). -/
def dieAt (row col : Nat) : Nat := row / 1024 * 4 + col / 1024

/-- The unit identifier of the tile of a cell (01 Table 1-7): 16 × 16 tiles a die. -/
def tileUnit (row col : Nat) : Nat := unitId (dieAt row col) 1 (row % 1024 / 64 * 16 + col % 1024 / 64)

/-- The TILE of a drained NaN (R122, 02 Table 2-8): output tile row and output tile column, 16 bits each. -/
def drainTile (row col : Nat) : Nat := row % 65536 * 65536 + col % 65536

/-- The dies that hold a cell of `ni` rows and `nj` columns of the array from (row, column) on. -/
def diesOf (row col ni nj : Nat) : List Nat :=
  if ni = 0 || nj = 0 then []
  else (upFrom (row / 1024) ((row + ni - 1) / 1024 - row / 1024 + 1)).flatMap fun r =>
    (upFrom (col / 1024) ((col + nj - 1) / 1024 - col / 1024 + 1)).map fun k => r * 4 + k

/-- The stack of an accumulator element, where its page lies in T1. -/
def Dev.stackOf (d : Dev) (b va : Nat) : Nat :=
  match d.pieces b va 1 with
  | [some p] => match d.obj? p.objBay p.objId with
    | some o => match o.phys p.off with | some a => a / 2 ^ 36 | none => 0
    | none => 0
  | _ => 0

/-- What the block of a pass drains: per row its FP32 values, before the output flush that every use of them makes; the report of its
operands; and its NaNs, by the tile that drained them. -/
structure Drained where
  i0 : Nat
  j0 : Nat
  rows : List (List Nat)
  rep : Report
  nans : List (Nat × List (Nat × Nat))
  deriving DecidableEq, Repr

/-- Compute the drained values of a pass's block (R99, R122 steps 1 to 3); its first cell lies at (`ur`, `uc`) of the array. -/
def Dev.passValues (d : Dev) (c : Cmd) (o : ThatchOp) (r : ThatchRun) (gs : List Group) (p : Pass) (rows cols ur uc : Nat) : Drained :=
  let g := (gs[p.g]?).getD o.single
  let (ra, la) := o.shapeA g
  let (rb, lb) := o.shapeB g
  let ca := d.coarseOf o.fa p.g
  let cb := d.coarseOf o.fb p.g
  let pa := d.operand (o.fa.withRow la) c.flush ca ra (o.aLoft + g.aOff) (o.fa.scaleVa + g.aSoff)
    (sumGroups (fun h => blocksOf o.fa (o.shapeA h)) gs p.g)
  let pb := d.operand (o.fb.withRow lb) c.flush cb rb (o.bLoft + g.bOff) (o.fb.scaleVa + g.bSoff)
    (sumGroups (fun h => if h.m = 0 then 0 else blocksOf o.fb (o.shapeB h)) gs p.g)
  let i0 := p.br * rows
  let j0 := p.bc * cols
  let ni := min rows (g.m - i0)
  let nj := min cols (g.n - j0)
  let chans := if o.spar then (match d.sparLists o with | some (a, _) => a.chans | none => []) else []
  let sparVal (isA : Bool) (lane j : Nat) : Nat × Bool :=
    match d.sparLists o with
    | none => (0, false)
    | some (la', lb') =>
      let l := if isA then la' else lb'
      let base := l.va + (if isA then g.aSp else g.bSp)
      let lanes := if isA then g.m else g.n
      flushCode c.flush .bf16 (ofLe (d.loftRead (base + 2 * (if l.row then j * lanes + lane else lane * l.chans.length + j)) 2))
  let baseTile := sumGroups Group.tiles gs p.g
  let baseRow := sumGroups (fun h => ceilDiv h.m 64) gs p.g
  let sr := srActive r.srMode g.k
  let addend (i j : Nat) : Nat × Bool := flushCode c.flush .fp32 (ofLe (d.loftRead (o.addLoft + g.addOff + 4 * (i * g.n + j)) 4))
  let elem (i j : Nat) : Nat :=
    let tile := (baseTile + i / 64 * ceilDiv g.n 64 + j / 64) % 2 ^ 32
    let pos := 64 * (i % 64) + j % 64
    let spar := if o.spar then
        some (fp32Rne ((upFrom 0 chans.length).foldl (fun s x =>
          s.add ((decode .bf16 (sparVal true i x).1).mul (decode .bf16 (sparVal false j x).1))) (.num false 0 0)))
      else none
    let add := if o.addend then some (addend i j).1 else none
    thatchElement (pa.at o.kstrA chans i) (fun k => pb.at o.kstrB chans j k) g.k sr
      (fun ch => srDraw o.step o.fdst.tensorId tile (ch * 4096 + pos)) (d.coarseFactor o.fa p.g) (d.coarseFactor o.fb p.g) spar add
  let cells := (upFrom i0 ni).map fun i => (upFrom j0 nj).map fun j => (i, j, elem i j)
  let nans := cells.flatMap fun row => row.filterMap fun v =>
    if isNan .fp32 v.2.2 then
      some (tileUnit (ur + (v.1 - i0)) (uc + (v.2.1 - j0)), 1, drainTile (baseRow + v.1 / 64) (v.2.1 / 64)) else none
  let sparFlush := o.spar && (upFrom 0 chans.length).any fun x =>
    (upFrom i0 ni).any (fun i => (sparVal true i x).2) || (upFrom j0 nj).any fun j => (sparVal false j x).2
  let flushed := cells.any fun row => row.any fun v => (flushCode c.flush .fp32 v.2.2).2 || (o.addend && (addend v.1 v.2.1).2)
  { i0 := i0, j0 := j0, rows := cells.map fun row => row.map fun v => v.2.2, nans := gatherUnits nans
    rep := ((pa.reportFor o.kstrA o.fa.block i0 ni).join (pb.reportFor o.kstrB o.fb.block j0 nj)).join { flushed := sparFlush || flushed } }

/-- Store one row of a pass's block under D_FMT (R122 step 4): the flush of the store path's first step is the output flush. -/
def Dev.storeRow (d : Dev) (c : Cmd) (o : ThatchOp) (g : Group) (gi baseTile baseBlk i j0 : Nat) (vals : List Nat) : Dev × Report × Option Nat :=
  let f := o.fdst.withRow g.n
  let nb := ceilDiv vals.length f.block
  let b0 := i * f.blocksPerRow + j0 / f.block
  let coarse := d.coarseOf o.fdst gi
  let fines := if f.mode == .learned then (d.loftRead (f.scaleVa + g.dSoff + b0) nb).map (·.toNat) else []
  let cells := chunksOf f.block nb ((upFrom j0 vals.length).zip vals)
  let ins : List BlockIn := (upFrom 0 nb).zip cells |>.map fun e =>
    { x := e.2.map fun v => (v.2, false), fine := (fines[e.1]?).getD 0, coarse := coarse
      draws := e.2.map fun v => if f.round = 2 then
        srDraw o.step f.tensorId ((baseTile + i / 64 * ceilDiv g.n 64 + v.1 / 64) % 2 ^ 32) (64 * (i % 64) + v.1 % 64) else 0 }
  let (ks, codes, rep) := storeBlocks f c.flush (baseBlk + b0) ins
  let at_ := o.dLoft + g.dOff + (i * g.n + j0) * f.elem.bits / 8
  let bytes := toLe (elemBytes f.elem vals.length) (packCodes f.elem.bits codes)
  let scales := if f.mode == .mse || f.mode == .absmax || f.mode == .mx then ks.map (BitVec.ofNat 8) else []
  let sat := f.scaleVa + g.dSoff + b0
  ((d.loftWrite at_ bytes).loftWrite sat scales, rep, (d.loftCut at_ bytes.length).or (d.loftCut sat scales.length))

/-- Store the rows of a block in ascending order, up to a row that cuts a Loft word with an uncorrectable error: that word (06 R161). -/
def storeRows (c : Cmd) (o : ThatchOp) (g : Group) (gi baseTile baseBlk j0 : Nat) : Dev → Nat → List (List Nat) → Dev × Report × Option Nat
  | d, _, [] => (d, {}, none)
  | d, i, v :: r =>
    match d.storeRow c o g gi baseTile baseBlk i j0 v with
    | (d1, rep, some w) => (d1, rep, some w)
    | (d1, rep, none) =>
      let (d2, reps, cut) := storeRows c o g gi baseTile baseBlk j0 d1 (i + 1) r
      (d2, rep.join reps, cut)

/-- BF16 rounding of a drained value, after its output flush, for the first course (R273). -/
def courseBf16 (flush : Bool) (v : Nat) : Nat :=
  let b := (flushCode flush .bf16 (encodeIeee .bf16 (f32 (flushCode flush .fp32 v).1))).1
  if b = 0x8000 then 0 else b

/-- First-course pass buffers of a die in use (R275). -/
def bufsAt (ps : List FirstPass) (die : Nat) : Nat := (ps.filter fun p => p.buf && p.die == die).length

/-- Does a drain of a die wait for a pass buffer (R275)? -/
def Dev.drainStalls (d : Dev) (die : Nat) : Bool := d.passes.any fun p => !p.buf && p.die == die

/-- Hand a block's values, each with the die that drained it, to the first course: one pass for each segment and owning die, from the
die that drained them (R273). A new pass takes a buffer of its die, or waits for one (R275). -/
def Dev.toCourse (d : Dev) (c : Cmd) (entry acc : Nat) (xs : List (Nat × Nat × Nat)) : Dev :=
  xs.foldl (fun d x =>
    let die := x.1
    let owner := hostDie (d.stackOf c.bay (acc + 4 * x.2.1))
    let same (p : FirstPass) : Bool := p.sq == c.sq && p.entry == entry && p.accVa == acc && p.src == die && p.die == die && p.owner == owner &&
      (match p.elems with | [] => false | y :: _ => y.1 / 65536 == x.2.1 / 65536)
    if d.passes.any same then
      { d with passes := d.passes.map fun p => if same p then { p with elems := p.elems ++ [x.2] } else p }
    else
      { d with passes := d.passes ++ [{ sq := c.sq, entry := entry, bay := c.bay, accVa := acc, elems := [x.2], src := die, owner := owner
                                        die := die, buf := !d.drainStalls die && decide (bufsAt d.passes die < 32) }] }) d

/-- The tiles of a group fully drained: those of the passes ended, as the length of the prefix (R124). -/
def drainedPrefix (g : Group) (rows cols : Nat) (blocks : List (Nat × Nat)) : Nat → Nat → Nat
  | 0, n => n
  | fuel + 1, n =>
    let w := ceilDiv g.n 64
    let br := n / w * 64 / rows
    let bc := n % w * 64 / cols
    if n < g.tiles && blocks.contains (br, bc) then drainedPrefix g rows cols blocks fuel (n + 1) else n

/-- The module as a reader sees it whose bytes in these Loft ranges are unspecified (R143). -/
def Dev.blur (d : Dev) (rs : List (Nat × Nat)) : Dev :=
  { d with loft := rs.foldl (fun m r => writeBytes m r.1 ((upFrom 0 r.2).map fun k => Config.freeByte d.free (r.1 + k))) d.loft }

/-- Where a pass runs: its sub-array's first row and column in the array (R115). -/
def ThatchRun.corner (r : ThatchRun) (rows cols perRow sub : Nat) : Nat × Nat := (r.firstUnit * 256 + sub / perRow * rows, sub % perRow * cols)

/-- The blocks of group `g` whose passes have ended, by block row and block column. -/
def doneBlocks (ps : List Pass) (g : Nat) (passes : List Nat) : List (Nat × Nat) :=
  passes.filterMap fun m => match ps[m]? with
    | some p => if p.g = g then some (p.br, p.bc) else none
    | none => none

/-- The dies that take part in a pass: those of its block in its sub-array; under SPLIT_K those of the block in every sub-array that is
given a chunk (R117). -/
def ThatchRun.partDies (r : ThatchRun) (o : ThatchOp) (rows cols s perRow sub k h w : Nat) : List Nat :=
  let of (x : Nat) : List Nat := let (ur, uc) := r.corner rows cols perRow x; diesOf ur uc h w
  if o.fold = 1 then ((upFrom 0 (min s (ceilDiv k 4096))).flatMap of).eraseDups else of sub

/-- The cycle counters of the dies that took part in a pass move by cycles that the spec bounds and does not state (R127, R128). -/
def Dev.thatchCycles (d : Dev) (spar : Bool) (dies : List Nat) : Dev :=
  dies.foldl (fun d k => ([Reg.thatchActiveCyc, .thatchTileCyc, .thatchFeedStall] ++ (if spar then [Reg.thatchSparCyc] else [])).foldl
    (fun d x => (d.addW x k (Config.freeNat d.free)).tick) d) d

/-- Pass number `n` of entry `i` of the KERNEL on SQ `q` drains without a parity error. It waits while a die that it drains into the
first course has no pass buffer (R275). -/
def Dev.thatchPassOk (d : Dev) (q i n : Nat) : Dev :=
  match d.entry? q i with
  | none => d
  | some (c, _, e) =>
    match e.st, parseThatch e.desc with
    | .thatch r, some o =>
      let gs := o.groupsOf r.groups
      let (rows, cols, s, perRow) := o.subs r.units
      let ps := allPasses rows cols 0 gs
      match ps[n]? with
      | none => if ps.isEmpty && d.enginesRun then d.setEntry q i .finished else d
      | some p =>
        let sub := passSub o gs rows cols s n p
        let earlier := (upFrom 0 n).all fun m => r.passes.contains m ||
          (match ps[m]? with | some pm => passSub o gs rows cols s m pm != sub | none => true)
        let g := (gs[p.g]?).getD o.single
        let (ur, uc) := r.corner rows cols perRow sub
        let dies := diesOf ur uc (min rows (g.m - p.br * rows)) (min cols (g.n - p.bc * cols))
        if r.passes.contains n || !earlier || !d.enginesRun || (o.reduce && dies.any d.drainStalls) then d
        else
          match (o.readRanges g).findSome? (fun x => d.loftErr x.1 x.2) with
          | some w => (d.recordLoft c w).failEntry q i stUncorr
          | none =>
          let d := d.loftScan c.bay (o.readRanges g)
          let out := (d.blur r.spoiled).passValues c o r gs p rows cols ur uc
          let unit := tileUnit ur uc
          let d1 := (d.report c unit i out.rep).nansOf c i out.nans
          let cellRows := (upFrom 0 out.rows.length).zip out.rows
          let (d2, rep2, cut) :=
            if o.reduce then
              let base := sumGroups (fun h => h.m * h.n) gs p.g
              let xs := cellRows.flatMap fun row => ((upFrom 0 row.2.length).zip row.2).map fun v =>
                (dieAt (ur + row.1) (uc + v.1), base + (out.i0 + row.1) * g.n + out.j0 + v.1, courseBf16 c.flush v.2)
              (d1.toCourse c i r.accVa xs, ({} : Report), none)
            else storeRows c o g p.g (sumGroups Group.tiles gs p.g) (sumGroups (fun h => blocksOf o.fdst (h.m, h.n)) gs p.g) out.j0 d1 out.i0 out.rows
          let d3 := d2.report c unit i rep2
          match cut with
          | some w => (d3.recordLoft c w).failEntry q i stUncorr
          | none =>
          let passes := n :: r.passes
          let folds := if srActive r.srMode g.k then ceilDiv g.k 4096 - 1 else 0
          let cells (die : Nat) : Nat := sumN (cellRows.map fun row =>
            ((upFrom 0 row.2.length).filter fun j => dieAt (ur + row.1) (uc + j) == die).length)
          let part := r.partDies o rows cols s perRow sub g.k (min rows (g.m - p.br * rows)) (min cols (g.n - p.bc * cols))
          let d4 := (dies.foldl (fun d die => d.addW .thatchSrFolds die (folds * cells die))
            (part.foldl (fun d die => d.addW .thatchPasses die 1) d3)).thatchCycles o.spar part
          let d5 := d4.setEntry q i (if passes.length = ps.length then .finished else .thatch { r with passes := passes })
          if o.done = 0xFFFFFFFF then d5
          else d5.putCounter c q i (o.done + 4 * p.g) (drainedPrefix g rows cols (doneBlocks ps p.g passes) g.tiles 0)
    | _, _ => d

/-- Give free values to the elements and fine scales of `n` columns of row `i` of D from column `j` on (R125). -/
def Dev.spoilRow (d : Dev) (o : ThatchOp) (g : Group) (i j n : Nat) : Dev :=
  let f := o.fdst.withRow g.n
  let bits := f.elem.bits
  let free (d : Dev) (a k : Nat) : Dev := d.loftWrite a ((upFrom 0 k).map fun x => Config.freeByte d.free (a + x))
  let d1 := free d (o.dLoft + g.dOff + (i * g.n + j) * bits / 8) (elemBytes f.elem n)
  if f.mode == .mse || f.mode == .absmax || f.mode == .mx then
    free d1 (f.scaleVa + g.dSoff + i * f.blocksPerRow + j / f.block) ((j + n - 1) / f.block - j / f.block + 1)
  else d1

/-- D beyond the drain counters of an operation is unspecified (R125): in every group, the tiles after the prefix that its counter
covers, or would cover where DONE_LOFT names none. -/
def Dev.spoilBeyond (d : Dev) (c : Cmd) (o : ThatchOp) (r : ThatchRun) : Dev :=
  let gs := o.groupsOf r.groups
  let (rows, cols, _, _) := o.subs r.units
  let ps := allPasses rows cols 0 gs
  let d1 := (upFrom 0 gs.length).foldl (fun d gi =>
    let g := (gs[gi]?).getD o.single
    let done := drainedPrefix g rows cols (doneBlocks ps gi r.passes) g.tiles 0
    (upFrom done (g.tiles - done)).foldl (fun d t =>
      let i0 := t / ceilDiv g.n 64 * 64
      let j0 := t % ceilDiv g.n 64 * 64
      let n := min 64 (g.n - j0)
      (upFrom i0 (min 64 (g.m - i0))).foldl (fun d i =>
        if o.reduce then
          let va := r.accVa + 4 * (sumGroups (fun h => h.m * h.n) gs gi + i * g.n + j0)
          (d.writeVa c.bay va ((upFrom 0 (4 * n)).map fun x => Config.freeByte d.free (va + x))).1
        else d.spoilRow o g i j0 n) d) d) d
  d1.tick

/-- A parity error in the array while entry `i` of a KERNEL runs (R125): the die's bit, an error record, D beyond the drain counters
unspecified, and the KERNEL completes UNCORRECTABLE when its running entries have ended. -/
def Dev.thatchParity (d : Dev) (q i die bit : Nat) : Dev :=
  match d.entry? q i with
  | none => d
  | some (c, _, e) => match e.st, parseThatch e.desc with
    | .thatch r, some o =>
      (((d.sb .thatchDieErr die bit true).record
        { kind := 0x0003, bay := some c.bay, unit := unitId die 0 0, tag := c.tag, queue := c.sq
          opcode := c.opcode, status := stUncorr, detail0 := 2 ^ bit }).spoilBeyond c o r).failEntry q i stUncorr
    | _, _ => d

/-- THATCH_PASS_END: pass number `n` of entry `i` drains; `parity`: the die and register bit of a parity error met in it
(R125). -/
def Dev.thatchPassEnd (d : Dev) (q i n : Nat) (parity : Option (Nat × Nat)) : Dev :=
  match parity with
  | none => d.thatchPassOk q i n
  | some (die, bit) => if d.enginesRun && decide (die < 12) && decide (bit < 4) then d.thatchParity q i die bit else d

/-! ## The array configuration (R109 to R114) -/

/-- A request for a configuration (1 JOINED, 2 SPLIT) from a register write (`turn` false) or a TURN (R109, R111). -/
def Dev.arrayRequest (d : Dev) (target : Nat) (turn : Bool) : Dev :=
  let pending := d.rbit .thatchArraySts 0 2
  let switching := d.rbit .thatchArraySts 0 3
  let config := d.fd .thatchArraySts 0 0 2
  if switching then (if turn then { d with arr := { d.arr with held := some target } } else d)
  else if pending then
    if !turn then d
    else if target = config then d.sb .thatchArraySts 0 2 false
    else { d with arr := { d.arr with target := target } }
  else if target = config then d
  else { d.sb .thatchArraySts 0 2 true with arr := { d.arr with target := target } }

/-- ARRAY_REQ_JOINED and ARRAY_REQ_SPLIT: bay 0's write of REQ, ignored before READY (R109, R114). -/
def Dev.arrayReq (d : Dev) (target : Nat) : Dev := if d.ready then d.arrayRequest target false else d

/-- ARRAY_SWITCH_START: a pending switch starts once neither engine runs an operation (R110, Table 4-4). -/
def Dev.arraySwitchStart (d : Dev) : Dev :=
  if !d.rbit .thatchArraySts 0 2 || d.rbit .thatchArraySts 0 3 || d.engineBusy 0 || d.engineBusy 1 || d.powerHold || d.held || d.sarking then d
  else
    let d1 := (d.sb .thatchArraySts 0 2 false).sb .thatchArraySts 0 3 true
    { d1 with arr := { d1.arr with since := d.now } }

/-- Set THATCH_DIE_ID.ENGINE on every die (Table 4-4, R114). -/
def Dev.setEngines (d : Dev) (config : Nat) : Dev :=
  (upFrom 0 12).foldl (fun d n => d.sf .thatchDieId n 4 2 (if config = 1 then 0 else if n < 4 then 1 else 2)) d

end Sys2Proof.Machine
end

