-- ==== Sys2Proof/Machine/Convert.lean ====
section
/-!
DEFINITION. Machine/Convert.lean: the copy engines and their work units (06 R169, R189), reads and writes of formatted tensors in either
space, and conversion in the copy path (02 R52; 06 R174; 03 R84).
Where the spec is silent or is read by inference: DEDUCED logs 15, 46, 48, 57; DESIGN CHOICE log 56 (notes/assumptions).
-/
namespace Sys2Proof.Machine

/-- Fill the mapped rest of a destination with unspecified bytes (R173). -/
def Dev.scramble (d : Dev) (b : Nat) (sp : Space) (a n : Nat) : Dev :=
  let free (x k : Nat) : List Byte := (upFrom (x - a) k).map (Config.freeByte d.free)
  if n = 0 then d
  else (match sp with
    | .loft => d.loftWrite a (free a n)
    | .va => (d.pieces b a n).foldl (fun d p? => match p? with
        | none => d
        | some p => match d.pieceWritable b p with
          | .error _ => d
          | .ok _ => d.writePiece p (free p.va p.len)) d).tick

/-- An address in every slice of the mask, or the address itself. -/
def spread (sp : Space) (mask : List Nat) (a : Nat) : List Nat :=
  match sp, mask with
  | .loft, _ :: _ => mask.map fun s => s * 2 ^ 27 + loftOff a
  | _, _ => [a]

/-- The bytes `[a, a + n)` hold unspecified values in every slice of the mask. -/
def Dev.scrambleAll (d : Dev) (b : Nat) (sp : Space) (mask : List Nat) (a n : Nat) : Dev :=
  if n = 0 then d else (spread sp mask a).foldl (fun d x => d.scramble b sp x n) d

/-- Write bytes at an address in every slice of the mask: the first error met. -/
def Dev.writeAll (d : Dev) (b : Nat) (sp : Space) (mask : List Nat) (a : Nat) (bs : List Byte) : Dev × Option MemErr :=
  (spread sp mask a).foldl (fun (acc : Dev × Option MemErr) x =>
    let (d1, e) := acc.1.writeSp b sp x bs
    (d1, acc.2.or e)) (d, none)

/-- Bytes of such a write that come before the first error in any slice. -/
def Dev.reachAll (d : Dev) (b : Nat) (sp : Space) (mask : List Nat) (a n : Nat) : Nat :=
  (spread sp mask a).foldl (fun m x => min m (d.reach b sp x n)) n

/-! ## Copy engines (R169, R189) -/

/-- Bytes of source in a work unit (R169). -/
def unitBytes : Nat := 0x100000

/-- The copy engines that serve a transfer, and what tells it from other transfers. -/
structure Engines where
  key : Nat
  list : List Nat
  deriving DecidableEq, Repr

/-- The copy engines of DIES; 0 names all four Lath dies. -/
def enginesOf (dies : Nat) : List Nat := (upFrom 0 64).filter fun e => dies == 0 || bitAt dies (e / 16)

/-- The engines of a transfer of a command, or of entry `opidx` of its KERNEL. -/
def Cmd.engines (c : Cmd) (dies opidx : Nat) : Engines := { key := c.order * 2 ^ 32 + opidx % 2 ^ 32, list := enginesOf dies }

/-- The engine to which work unit `u` is dealt; the spec leaves the dealing open (log 56). -/
def Engines.at_ (g : Engines) (u : Nat) : Nat := (g.list[Config.dealUnit g.key u % g.list.length]?).getD 0

/-- The work units of the source bytes `[x, x + n)` of a transfer. -/
def unitsOf (x n : Nat) : List Nat := if n = 0 then [] else upFrom (x / unitBytes) ((x + n - 1) / unitBytes - x / unitBytes + 1)

/-- Add `times` for each source byte of `[x, x + n)` to a counter of the engine that moves it. -/
def Dev.engSpan (d : Dev) (g : Engines) (r : Reg) (times x n : Nat) : Dev :=
  (unitsOf x n).foldl (fun d u => d.addW r (g.at_ u) (times * (min (x + n) ((u + 1) * unitBytes) - max x (u * unitBytes)))) d

/-- The unit identifier of a copy engine (Table 1-7). -/
def unitCopy (e : Nat) : Nat := unitId (12 + e / 16) 4 (e % 16)

/-- The first engine among those of these work units that a parity error has struck. -/
def Dev.engStruck (d : Dev) (g : Engines) (us : List Nat) : Option Nat :=
  if d.engUpset.isEmpty then none else (us.map g.at_).find? fun e => (smFind d.engUpset e).isSome

/-- The parity error of an engine is met (R189). -/
def Dev.engParity (d : Dev) (e : Nat) : Dev := { d with engUpset := smDel d.engUpset e }.sb .pfstatEngErr e 0 true

/-! ## Formatted tensors -/

/-- The spar channels of a store: the list, or none. -/
abbrev Spar? := Option SparList

/-- Is element (row, column) at a spar position (03 R84)? -/
def sparAt (s : Spar?) (row col : Nat) : Bool :=
  match s with
  | none => false
  | some l => l.chans.contains (if l.row then row else col)

/-- The address of a spar element's BF16 value (R84). -/
def sparAddr (l : SparList) (rowLen row col : Nat) : Nat :=
  if l.row then l.va + 2 * (l.chans.findIdx (· == row) * rowLen + col)
  else l.va + 2 * (row * l.chans.length + l.chans.findIdx (· == col))

/-- The coarse scale of block `bi` of a tensor in a space (R36): from the descriptor or the slice table. In SCALE_MODE MX no coarse scale
is used, and no slice table is read (log 57). -/
def Dev.coarseIn (d : Dev) (b : Nat) (sp : Space) (f : FmtDesc) (bi : Nat) : Except MemErr Nat :=
  if f.coarseSrc && f.mode != .mx then
    match d.readSp b sp (f.coarseVa + 4 * (bi / f.sliceBlocks)) 4 with
    | .ok bs => .ok (ofLe bs)
    | .error e => .error e
  else .ok f.coarse

/-- Whether a store path writes the fine scales of a tensor: it chooses them. -/
def FmtDesc.writesFine (f : FmtDesc) : Bool := f.mode == .mse || f.mode == .absmax || f.mode == .mx

/-- The bytes of the elements `[x0, x1)` of a packed stream (R34): the first and their number. -/
def elemSpan (f : Fmt) (x0 x1 : Nat) : Nat × Nat := (x0 * f.bits / 8, ceilDiv (x1 * f.bits) 8 - x0 * f.bits / 8)

/-- The codes of elements `[x0, x1)` of a packed stream at `a` (R34). -/
def Dev.codesIn (d : Dev) (b : Nat) (sp : Space) (f : Fmt) (a x0 x1 : Nat) : Except MemErr (List Nat) :=
  let (lo, n) := elemSpan f x0 x1
  match d.readSp b sp (a + lo) n with
  | .error e => .error e
  | .ok bs => .ok (unpackCodes f.bits (x1 - x0) (ofLe bs / 2 ^ (x0 * f.bits - 8 * lo)))

/-- Decode elements `[x0, x1)` of one row of a tensor whose codes `codes` gives by their linear index: one piece per source block,
reporting each block once, with the piece in which it begins (R547). `row` is the row's index among these codes, `row0` the tensor's rows
before them, `x0` and `x1` columns. -/
def Dev.loadVia (d : Dev) (c : Cmd) (sp : Space) (f : FmtDesc) (codes : Nat → Nat → Except MemErr (List Nat)) (row0 row : Nat) :
    Nat → Nat → Nat → Except MemErr (List Nat × Report)
  | 0, _, _ => .ok ([], {})
  | fuel + 1, x0, x1 =>
    if x1 ≤ x0 then .ok ([], {})
    else
      let xe := min x1 ((x0 / f.block + 1) * f.block)
      let bi := (row0 + row) * f.blocksPerRow + x0 / f.block
      match codes (row * f.rowLen + x0) (row * f.rowLen + xe) with
      | .error e => .error e
      | .ok cs =>
        match (if f.mode.fine || f.mode == .mx then d.readSp c.bay sp (f.scaleVa + bi) 1 else .ok [0]), d.coarseIn c.bay sp f bi with
        | .error e, _ => .error e
        | _, .error e => .error e
        | .ok ks, .ok co =>
          let (v, rep) := loadBlock f c.flush co (ofLe ks) bi cs
          let rep' := { rep with nans := if x0 % f.block = 0 then
              (match codes (row * f.rowLen + x0) (row * f.rowLen + min f.rowLen (x0 + f.block)) with
                | .ok whole => (loadBlock f c.flush co (ofLe ks) bi whole).2.nans
                | .error _ => rep.nans) else [] }
          match d.loadVia c sp f codes row0 row fuel xe x1 with
          | .error e => .error e
          | .ok (vs, r) => .ok (v ++ vs, rep'.join r)

/-- Load elements `[x0, x1)` of row `row` of the tensor at `a`, which holds the tensor's rows from `row0` on. -/
def Dev.loadCols (d : Dev) (c : Cmd) (sp : Space) (f : FmtDesc) (a row0 row : Nat) : Nat → Nat → Nat → Except MemErr (List Nat × Report) :=
  d.loadVia c sp f (d.codesIn c.bay sp f.elem a) row0 row

/-- What the load of elements `[x0, x1)` of a row reads: elements, fine scales and coarse scales. -/
def FmtDesc.rowReads (f : FmtDesc) (sp : Space) (a row0 row x0 x1 : Nat) : List Rng :=
  let (lo, n) := elemSpan f.elem (row * f.rowLen + x0) (row * f.rowLen + x1)
  let b0 := (row0 + row) * f.blocksPerRow + x0 / f.block
  let nb := if x1 ≤ x0 then 0 else (x1 - 1) / f.block - x0 / f.block + 1
  [⟨sp, a + lo, n⟩] ++ (if f.mode.fine || f.mode == .mx then [⟨sp, f.scaleVa + b0, nb⟩] else [])
    ++ (if f.coarseSrc && f.mode != .mx && nb != 0 then
      [⟨sp, f.coarseVa + 4 * (b0 / f.sliceBlocks), 4 * ((b0 + nb - 1) / f.sliceBlocks - b0 / f.sliceBlocks + 1)⟩] else [])

/-- What the store of block `bi` of a tensor reads: its coarse scale, and a supplied fine scale, which lies at `k`. -/
def FmtDesc.blockReads (f : FmtDesc) (sp : Space) (k bi : Nat) : List Rng :=
  (if f.coarseSrc && f.mode != .mx then [⟨sp, f.coarseVa + 4 * (bi / f.sliceBlocks), 4⟩] else []) ++ (if f.mode == .learned then [⟨sp, k, 1⟩] else [])

/-- Encode block `bi` of a tensor in a space (Table 2-6), a supplied fine scale read at `k`. -/
def Dev.encode (d : Dev) (c : Cmd) (sp : Space) (f : FmtDesc) (k bi : Nat) (draws : List Nat) (xs : List (Nat × Bool)) : Except MemErr BlockOut :=
  match d.coarseIn c.bay sp f bi, (if f.mode == .learned then d.readSp c.bay sp k 1 else .ok [0]) with
  | .error e, _ => .error e
  | _, .error e => .error e
  | .ok co, .ok ks => .ok (storeBlock f c.flush co (ofLe ks) bi draws xs)

/-- What the store of a row has done: the error that ended it, element bytes and blocks of the row written before it. -/
structure RowOut where
  d : Dev
  bad : Option MemErr := none
  rep : Report := {}
  bytes : Nat := 0
  blocks : Nat := 0

/-- Store one row of FP32 values through a format (Table 2-6) into a space: row `r` of the tensor at `a`; `draw` gives the
stochastic-rounding draw of each column; `t1`: an Eave operation stores it (07 R206). An uncorrectable error met is recorded. -/
def Dev.storeFmtRow (d : Dev) (c : Cmd) (sp : Space) (f : FmtDesc) (a r : Nat) (draw : Nat → Nat) (vals : List Nat) (t1 : Bool := false) : RowOut :=
  let cells := chunksOf f.block f.blocksPerRow ((upFrom 0 vals.length).zip vals)
  let fail (o : RowOut) (d : Dev) (e : MemErr) (rs : List Rng) : RowOut := { o with d := if e = .uncorr then d.faultFirst c rs else d, bad := some e }
  ((upFrom 0 f.blocksPerRow).zip cells).foldl (fun (o : RowOut) x =>
    if o.bad.isSome then o
    else
      let bi := r * f.blocksPerRow + x.1
      match o.d.encode c sp f (f.scaleVa + bi) bi (x.2.map fun v => if f.round = 2 then draw v.1 else 0) (x.2.map fun v => (v.2, false)) with
      | .error e => fail o o.d e (f.blockReads sp (f.scaleVa + bi) bi)
      | .ok out =>
        let ea := a + (r * f.rowLen + x.1 * f.block) * f.elem.bits / 8
        let bs := toLe (elemBytes f.elem x.2.length) (packCodes f.elem.bits out.codes)
        let (d1, e1) := o.d.putSp c.bay sp t1 ea bs
        let (d2, e2) := if e1.isNone && f.writesFine then d1.putSp c.bay sp t1 (f.scaleVa + bi) [BitVec.ofNat 8 out.fine] else (d1, e1)
        match e2 with
        | none => { o with d := d2, rep := o.rep.join out.rep, bytes := o.bytes + bs.length, blocks := o.blocks + 1 }
        | some e =>
          let n := match sp, t1 with
            | .va, true => min (t1Reach o.d c.bay true (o.d.pieces c.bay ea bs.length)).1 (o.d.reach c.bay sp ea bs.length)
            | _, _ => o.d.reach c.bay sp ea bs.length
          fail { o with rep := o.rep.join out.rep.unwritten, bytes := o.bytes + (if e1.isSome then n else bs.length) } d2 e
            [⟨sp, ea, bs.length⟩, ⟨sp, f.scaleVa + bi, 1⟩]) { d := d }

/-! ## Conversion (02 R52; 06 R174) -/

/-- What a conversion works on: the two formats, spaces and addresses, the SR step, the spar list, the slices that take the destination
(none for the one in the address), and the copy engines. -/
structure Conv where
  sf : FmtDesc
  df : FmtDesc
  ssp : Space
  dsp : Space
  src : Nat
  dst : Nat
  step : Nat
  spar : Spar?
  mask : List Nat
  eng : Engines
  /-- Element index of row 0 column 0 in the whole transfer (R51). -/
  elem0 : Nat := 0
  /-- Rows of both tensors before row 0, for scales, slice tables, spar values and block indices. -/
  row0 : Nat := 0
  /-- Source bytes of the transfer before row 0. -/
  byte0 : Nat := 0
  deriving DecidableEq, Repr

/-- The work unit of an element: that of the first source byte of the blocks, of both tensors, that lie together (R169; log 56). -/
def Conv.unit (v : Conv) (row x : Nat) : Nat :=
  let l := Nat.lcm v.sf.block v.df.block
  (v.byte0 + (row * v.sf.rowLen + x / l * l) * v.sf.elem.bits / 8) / unitBytes

/-- The block index of a destination column. -/
def Conv.block (v : Conv) (row x : Nat) : Nat := (v.row0 + row) * v.df.blocksPerRow + x / v.df.block

/-- Where the supplied fine scale of destination block `bi` is read: under a SLICE_MASK in its lowest slice, for the SLICE field of
SCALE_VA is not used (Table 6-4; log 57). -/
def Conv.supplied (v : Conv) (bi : Nat) : Nat := (spread v.dsp v.mask (v.df.scaleVa + bi)).headD 0

/-- A destination block encoded: its row and columns, fine scale and codes, its spar elements as (column, BF16 code), and its report, NaNs
apart. -/
structure BlockEnc where
  row : Nat
  x0 : Nat
  x1 : Nat
  fine : Nat
  codes : List Nat
  spars : List (Nat × Nat)
  rep : Report
  nans : List (Nat × Nat × Nat)

/-- Encode columns `[x0, x1)` of row `row` from the FP32 values loaded with the report `lrep`. -/
def Dev.encBlock (d : Dev) (c : Cmd) (v : Conv) (row x0 x1 : Nat) (xs : List Nat) (lrep : Report) : Except MemErr BlockEnc :=
  let bi := v.block row x0
  let cols : List (Nat × Nat) := (upFrom x0 (x1 - x0)).zip xs
  let at_ (x : Nat) : Bool := sparAt v.spar (v.row0 + row) x
  match d.encode c v.dsp v.df (v.supplied bi) bi
      (cols.map fun e => if v.df.round = 2 then srDraw v.step v.df.tensorId 0 (v.elem0 + row * v.df.rowLen + e.1) else 0)
      (cols.map fun e => (e.2, at_ e.1)) with
  | .error e => .error e
  | .ok o =>
    -- R84: the elements at spar positions, as BF16
    let spars := (cols.filter fun e => at_ e.1).map fun e =>
      let (x, f1) := flushCode c.flush .fp32 e.2
      let (q, f2) := flushCode c.flush .bf16 (encodeElem .bf16 .rne v.df.ovfIeee x 0x3F800000).1
      (e.1, q, f1 || f2)
    let unit := unitCopy (v.eng.at_ (v.unit row x0))
    let rep := (lrep.join o.rep).join { flushed := spars.any (·.2.2) }
    .ok { row := row, x0 := x0, x1 := x1, fine := o.fine, codes := o.codes, spars := spars.map fun e => (e.1, e.2.1)
          rep := { rep with nans := [] }, nans := rep.nans.map fun n => (unit, n) }

/-- Write the fine scale of an encoded block, where the store path chooses it, and its spar elements. -/
def Dev.putScales (d : Dev) (c : Cmd) (v : Conv) (o : BlockEnc) : Dev × Option MemErr :=
  let bi := v.block o.row o.x0
  let (d1, e1) := if v.df.writesFine then d.writeAll c.bay v.dsp v.mask (v.df.scaleVa + bi) [BitVec.ofNat 8 o.fine] else (d, none)
  match v.spar with
  | none => (d1, e1)
  | some l => o.spars.foldl (fun (acc : Dev × Option MemErr) e =>
      if acc.2.isSome then acc else acc.1.writeAll c.bay v.dsp v.mask (sparAddr l v.df.rowLen (v.row0 + o.row) e.1) (toLe 2 e.2)) (d1, e1)

/-- The ranges that `putScales` writes. -/
def Conv.scaleRngs (v : Conv) (o : BlockEnc) : List Rng :=
  ((if v.df.writesFine then spread v.dsp v.mask (v.df.scaleVa + v.block o.row o.x0) else []).map fun a => ⟨v.dsp, a, 1⟩)
  ++ (match v.spar with
    | none => []
    | some l => o.spars.flatMap fun e => (spread v.dsp v.mask (sparAddr l v.df.rowLen (v.row0 + o.row) e.1)).map fun a => ⟨v.dsp, a, 2⟩)

/-- What part of a conversion has done: the state; the error that ended it, with the offset in the destination of the first byte that is
unspecified after it (R173); its report, and its NaNs with the engines that met them. -/
structure ConvOut where
  d : Dev
  bad : Option (MemErr × Nat) := none
  rep : Report := {}
  nans : List (Nat × Nat × Nat) := []

/-- Count what a block read and wrote on the engine of its work unit (R189). -/
def Dev.countBlock (d : Dev) (v : Conv) (row x0 x1 rd wr : Nat) : Dev :=
  let e := v.eng.at_ (v.unit row x0)
  ((d.addW .pfstatEngBytesRd e rd).addW .pfstatEngBytesWr e (wr * max 1 v.mask.length)).addW .pfstatEngConv e (x1 - x0)

/-- Source bytes of columns `[x0, x1)` of a row, each byte counted with the block in which it begins. -/
def Conv.srcLen (v : Conv) (row x0 x1 : Nat) : Nat :=
  ceilDiv ((row * v.sf.rowLen + x1) * v.sf.elem.bits) 8 - ceilDiv ((row * v.sf.rowLen + x0) * v.sf.elem.bits) 8

/-- Write an encoded block in every slice of the mask; `rd` source bytes were read for it. -/
def Dev.putBlock (d : Dev) (c : Cmd) (v : Conv) (rd : Nat) (o : BlockEnc) : ConvOut :=
  let off := (o.row * v.df.rowLen + o.x0) * v.df.elem.bits / 8
  let bs := toLe (elemBytes v.df.elem (o.x1 - o.x0)) (packCodes v.df.elem.bits o.codes)
  let (d1, e1) := d.writeAll c.bay v.dsp v.mask (v.dst + off) bs
  let (d2, e2) := if e1.isNone then d1.putScales c v o else (d1, e1)
  match e2 with
  | none => { d := d2.countBlock v o.row o.x0 o.x1 rd bs.length, rep := o.rep, nans := o.nans }
  | some e =>
    let n := if e1.isSome then d.reachAll c.bay v.dsp v.mask (v.dst + off) bs.length else bs.length
    let rs := ((spread v.dsp v.mask (v.dst + off)).map fun a => (⟨v.dsp, a, bs.length⟩ : Rng)) ++ v.scaleRngs o
    { d := ((if e = .uncorr then d2.faultFirst c rs else d2).countBlock v o.row o.x0 o.x0 rd n), bad := some (e, off + n)
      rep := o.rep.unwritten, nans := o.nans }

/-- Convert one destination block whose source elements `load` gives with the source bytes read: columns `[x0, x1)` of row `row`. -/
def Dev.convBlock (d : Dev) (c : Cmd) (v : Conv) (load : Except MemErr (List Nat × Report)) (rd row x0 x1 : Nat) : ConvOut :=
  let off := (row * v.df.rowLen + x0) * v.df.elem.bits / 8
  let bi := v.block row x0
  let reads := v.sf.rowReads v.ssp v.src v.row0 row x0 x1 ++ v.df.blockReads v.dsp (v.supplied bi) bi
  let fail (e : MemErr) : ConvOut := { d := if e = .uncorr then d.faultFirst c reads else d, bad := some (e, off) }
  match d.engStruck v.eng [v.unit row x0], load with
  | some e, _ => { d := d.engParity e, bad := some (.uncorr, off) }
  | none, .error e => fail e
  | none, .ok (xs, lrep) =>
    let d0 := d.loftScan c.bay (reads.filterMap fun r => if r.sp == .loft then some (r.a, r.n) else none)
    match d0.encBlock c v row x0 x1 xs lrep with
    | .error e => fail e
    | .ok o => d0.putBlock c v rd o

/-- One part of a conversion after another. -/
def ConvOut.join (a b : ConvOut) : ConvOut := { b with rep := a.rep.join b.rep, nans := a.nans ++ b.nans }

/-- Convert the destination blocks listed as (row, first column, end column), in order, up to the first error. -/
def convBlocks (c : Cmd) (v : Conv) : Dev → List (Nat × Nat × Nat) → ConvOut
  | d, [] => { d := d }
  | d, x :: r =>
    let o := d.convBlock c v (d.loadCols c v.ssp v.sf v.src v.row0 x.1 (x.2.2 - x.2.1 + 1) x.2.1 x.2.2) (v.srcLen x.1 x.2.1 x.2.2) x.1 x.2.1 x.2.2
    if o.bad.isSome then o else o.join (convBlocks c v o.d r)

/-- A conversion's element bytes from offset `lo` on, to `n` elements, and the fine scales that its store path writes for their blocks, are
unspecified after an error (Table 2-10, R173). -/
def Dev.scrambleFrom (d : Dev) (c : Cmd) (v : Conv) (lo n : Nat) : Dev :=
  let d1 := d.scrambleAll c.bay v.dsp v.mask (v.dst + lo) (elemBytes v.df.elem n - lo)
  if v.df.writesFine then
    let x := lo * 8 / v.df.elem.bits
    let b0 := x / v.df.rowLen * v.df.blocksPerRow + x % v.df.rowLen / v.df.block
    d1.scrambleAll c.bay v.dsp v.mask (v.df.scaleVa + v.row0 * v.df.blocksPerRow + b0) (ceilDiv n v.df.rowLen * v.df.blocksPerRow - b0)
  else d1

/-- The destination blocks of `rows` rows whose first element's linear index lies in `[u0, u1)`. -/
def destBlocks (f : FmtDesc) (rows u0 u1 : Nat) : List (Nat × Nat × Nat) :=
  (upFrom 0 rows).flatMap fun r => (upFrom 0 f.blocksPerRow).filterMap fun k =>
    let x := r * f.rowLen + k * f.block
    if u0 ≤ x ∧ x < u1 then some (r, k * f.block, min ((k + 1) * f.block) f.rowLen) else none

/-- The status of a transfer that met an error: an unmapped page of its ranges comes first (Tables 2-10 and 6-8). -/
def Dev.copyStatus (d : Dev) (b : Nat) (src dst : List Rng) (e : MemErr) : Nat :=
  if e = .uncorr && (src.any (d.unmapped b false) || dst.any (d.unmapped b true)) then stNotMapped else e.status

end Sys2Proof.Machine
end

