-- ==== Sys2Proof/Machine/Copy.lean ====
section
/-!
DEFINITION. Machine/Copy.lean: copies (06): copy descriptors and their checks, compression, FILL, and CONVERT (02 R64 to R66); the rows
COPY, FILL and CONVERT.
Where the spec is silent or is read by inference: DESIGN CHOICE logs 6, 56; DEDUCED logs 14, 15, 22, 38, 46, 48 (notes/assumptions).
-/
namespace Sys2Proof.Machine

/-! ## Copy descriptors (06 R171, R172) -/

/-- A copy descriptor (Table 6-4). -/
structure CopyDesc where
  kind : Nat
  gate : Bool
  ssp : Space
  dsp : Space
  conv : Bool
  spar : Bool
  pack : Nat
  adapt : Bool
  dies : Nat
  chunkLog2 : Nat
  step : Nat
  src : Nat
  dst : Nat
  len : Nat
  rows : Nat
  mask : Nat
  srcPitch : Nat
  dstPitch : Nat
  waitLoft : Nat
  waitCount : Nat
  done : Nat
  cons : Nat
  ring : Nat
  raMin : Nat
  raMax : Nat
  raInit : Nat
  aux : Nat
  capacity : Nat
  sf : Option FmtDesc
  df : Option FmtDesc
  deriving DecidableEq, Repr

/-- The slices of a SLICE_MASK. -/
def maskSlices (m : Nat) : List Nat := (upFrom 0 16).filter fun i => bitAt m i

/-- The chunk in bytes or elements. -/
def CopyDesc.chunk (k : CopyDesc) : Nat := 2 ^ k.chunkLog2

/-- An address field holds a Loft address or a VA. -/
def addrOk (sp : Space) (a : Nat) : Bool := match sp with | .loft => decide (a < 2 ^ 32) | .va => decide (a < 2 ^ 48)

/-- The bytes of a source (destination) row or whole linear range. -/
def CopyDesc.srcBytes (k : CopyDesc) : Nat := match k.sf with | some f => elemBytes f.elem k.len | none => k.len
def CopyDesc.dstBytes (k : CopyDesc) : Nat := match k.df with | some f => elemBytes f.elem k.len | none => k.len

/-- Format rows in one copy row (all of a LINEAR copy). -/
def CopyDesc.fmtRows (k : CopyDesc) : Nat := match k.sf with | some f => k.len / f.rowLen | none => 0

/-- Frames of a packed copy (R175). -/
def CopyDesc.frames (k : CopyDesc) : Nat := ceilDiv (if k.pack = 1 then k.dstBytes else k.srcBytes) 65536

/-- The ranges a copy reads: elements, scales and slice table, and for UNPACK the compressed region and frame table. -/
def CopyDesc.srcRanges (k : CopyDesc) : List Rng :=
  (if k.kind = 2 then (upFrom 0 k.rows).map fun r => ⟨k.ssp, k.src + r * k.srcPitch, k.srcBytes⟩
   else if k.pack = 2 then [⟨k.ssp, k.src, k.capacity⟩, ⟨.va, k.aux, 8 * k.frames⟩]
   else [⟨k.ssp, k.src, k.srcBytes⟩])
  ++ (match k.sf with
    | some f => [⟨k.ssp, f.scaleVa, f.scaleBytes (k.rows * k.fmtRows)⟩, ⟨k.ssp, f.coarseVa, f.sliceBytes (k.rows * k.fmtRows)⟩]
    | none => [])

/-- A range in every slice of the mask. -/
def CopyDesc.dstSpread (k : CopyDesc) (a n : Nat) : List Rng := (spread k.dsp (maskSlices k.mask) a).map fun x => ⟨k.dsp, x, n⟩

/-- The ranges a copy writes, and the destination's slice table (R65). -/
def CopyDesc.dstRanges (k : CopyDesc) : List Rng :=
  (if k.kind = 2 then (upFrom 0 k.rows).flatMap fun r => k.dstSpread (k.dst + r * k.dstPitch) k.dstBytes
   else if k.kind = 3 then k.dstSpread k.dst k.ring
   else if k.pack = 1 then k.dstSpread k.dst k.capacity ++ [⟨.va, k.aux, 8 * k.frames⟩]
   else k.dstSpread k.dst k.dstBytes)
  ++ (match k.df with
    | some f => k.dstSpread f.scaleVa (f.scaleBytes (k.rows * k.fmtRows)) ++ [⟨k.dsp, f.coarseVa, f.sliceBytes (k.rows * k.fmtRows)⟩]
    | none => [])

/-- Read a copy descriptor and make the issue checks of Table 6-5 but for the Loft grant. -/
def parseCopy (n : Nat) : Option CopyDesc :=
  let conv := bitAt n 10
  let kind := fld n 0 4
  let pack := fld n 12 2
  let spar := bitAt n 11
  let ssp : Space := if bitAt n 8 then .va else .loft
  let dsp : Space := if bitAt n 9 then .va else .loft
  let sf := if conv then parseFmt true (bytesAt n 112 40) else none
  let df := if conv then parseFmt false (bytesAt n 152 40) else none
  let k : CopyDesc :=
    { kind := kind, gate := bitAt n 4, ssp := ssp, dsp := dsp, conv := conv, spar := spar, pack := pack, adapt := bitAt n 14
      dies := fld n 16 4, chunkLog2 := fld n 24 5, step := bytesAt n 4 4, src := bytesAt n 8 8, dst := bytesAt n 16 8
      len := bytesAt n 24 8, rows := bytesAt n 32 4, mask := bytesAt n 36 2, srcPitch := bytesAt n 40 8
      dstPitch := bytesAt n 48 8, waitLoft := bytesAt n 56 4, waitCount := bytesAt n 60 4, done := bytesAt n 64 4
      cons := bytesAt n 68 4, ring := bytesAt n 72 4, raMin := bytesAt n 76 4, raMax := bytesAt n 80 4
      raInit := bytesAt n 84 4, aux := bytesAt n 88 8, capacity := bytesAt n 96 8, sf := sf, df := df }
  let strided := kind == 2
  let stream := kind == 3
  let used : List (Nat × Nat) :=
    [(0, 4), (4, 1), (8, 1), (9, 1), (10, 1), (11, 1), (12, 2), (16, 4), (24, 5), (32, 32), (64, 64), (128, 64), (192, 64),
      (256, 32), (448, 32), (480, 32), (512, 32), (544, 32)]
    ++ (if stream then [(14, 1), (576, 32), (608, 32), (640, 32), (672, 32)] else [])
    ++ (if dsp == .loft then [(288, 16)] else []) ++ (if strided then [(320, 64), (384, 64)] else [])
    ++ (if spar || pack != 0 then [(704, 64)] else []) ++ (if pack != 0 then [(768, 64)] else [])
    ++ (if conv then [(896, 320), (1216, 320)] else [])
  let fmtOk : Bool := match sf, df with
    | some s, some f =>
      s.rowLen == f.rowLen && k.len % s.rowLen == 0
      && (ssp == .va || loftFmt s) && (dsp == .va || loftFmt f)
    | _, _ => !conv
  let ok :=
    onlyFields n 1536 used && inRange 1 3 kind && pack != 3 && inRange 12 20 k.chunkLog2
    && addrOk ssp k.src && addrOk dsp k.dst && inRange 1 (2 ^ 40) k.len
    && (if strided then inRange 1 16777216 k.rows else k.rows == 1)
    && (stream || k.cons == 0xFFFFFFFF)
    && (!stream || (k.cons != 0xFFFFFFFF && k.ring % k.chunk == 0 && decide (k.raMax ≤ k.ring) && decide (k.raMax ≤ 8388608)
          && k.raMin % k.chunk == 0 && k.raMax % k.chunk == 0 && k.raInit % k.chunk == 0
          && decide (k.raMin ≤ k.raInit) && decide (k.raInit ≤ k.raMax)
          && ssp == .va && dsp == .loft && !conv && !spar && pack == 0 && aligned k.src 12))
    && (k.mask == 0 || dsp == .loft) && fmtOk
    && (!spar || conv) && !(pack == 1 && !conv && dsp == .loft) && (pack == 0 || kind == 1)
    && !(pack == 1 && dsp == .loft) && !(pack == 2 && ssp == .loft)
    && (!spar || addrOk dsp k.aux) && decide (k.aux < 2 ^ 48)
    && !(k.srcRanges.any fun s => k.dstRanges.any s.meets)
  if ok then some k else none

/-- The Loft ranges of a copy: all of them checked at issue (R172). -/
def CopyDesc.loftRanges (k : CopyDesc) : List (Nat × Nat) :=
  ((k.srcRanges ++ k.dstRanges).filterMap fun r => if r.sp == .loft && r.n != 0 then some (r.a, r.n) else none)
  ++ (if k.spar && k.dsp == .loft then [(k.aux, 272)] else [])
  ++ ([k.waitLoft, k.done, k.cons].filter (· != 0xFFFFFFFF)).map fun a => (a, 4)

/-- The issue check of a copy (R172). -/
def Dev.copyIssue (d : Dev) (b desc : Nat) : Option Nat :=
  match parseCopy desc with
  | none => some stBadParam
  | some k => if d.grants b k.loftRanges then none else some stNoPerm

/-- A spar list of a copy (R83, R160): `none` where it breaks a rule of the list or of its place. -/
def CopyDesc.sparOf (k : CopyDesc) (n : Nat) : Spar? :=
  match parseSpar n, k.df with
  | some l, some f =>
    if l.extent == (if l.row then k.rows * k.fmtRows else f.rowLen) && (k.dsp == .va || decide (l.va < 2 ^ 32)) then some l else none
  | _, _ => none

/-- The Loft ranges of the spar values of a copy. -/
def CopyDesc.sparRanges (k : CopyDesc) (l : SparList) : List (Nat × Nat) :=
  match k.dsp, k.df with
  | .loft, some f => (spread .loft (maskSlices k.mask) l.va).map fun a => (a, 2 * l.chans.length * (if l.row then f.rowLen else k.rows * k.fmtRows))
  | _, _ => []

/-- The spar list of a copy, read at its start (R172, R83): `error` is the status it fails with. -/
def Dev.copySpar (d : Dev) (b : Nat) (k : CopyDesc) : Except Nat Spar? :=
  if !k.spar then .ok none
  else match d.readSp b k.dsp k.aux 272 with
    | .error e => .error e.status
    | .ok bs => match k.sparOf (ofLe bs) with
      | none => .error stBadParam
      | some l => if d.grants b (k.sparRanges l) then .ok (some l) else .error stNoPerm

/-! ## Compression (R175 to R177) -/

/-- The 32 words of 16 bytes of a group's bit planes (R175): plane p, byte j, bit i is bit p of group byte 8 j + i. -/
def planeWords (g : List Byte) : List (List Byte) :=
  let arr := g ++ List.replicate (512 - g.length) 0
  let plane (p : Nat) : List Byte := (chunksOf 8 64 arr).map fun o =>
    BitVec.ofNat 8 ((upFrom 0 8).zip o |>.foldl (fun n e => n + (if bitAt e.2.toNat p then 2 ^ e.1 else 0)) 0)
  chunksOf 16 32 ((upFrom 0 8).flatMap plane)

/-- Encode a group: its header and non-zero words. -/
def packGroup (g : List Byte) : List Byte :=
  let ws := planeWords g
  let hdr := (upFrom 0 32).zip ws |>.foldl (fun n e => n + (if e.2.all (· == 0) then 0 else 2 ^ e.1)) 0
  toLe 4 hdr ++ (ws.filter fun w => !w.all (· == 0)).flatten

/-- Encode a frame: the stored bytes, and whether they are raw (R175). -/
def packFrame (fr : List Byte) : List Byte × Bool :=
  let enc := (chunksOf 512 128 fr).flatMap packGroup
  if enc.length ≥ fr.length then (fr, true) else (enc, false)

/-- Rebuild a group's 512 bytes from its words. -/
def unplane (ws : List (List Byte)) : List Byte :=
  let bytes := ws.flatten
  (upFrom 0 512).map fun j => BitVec.ofNat 8 ((upFrom 0 8).foldl (fun n p =>
    n + (if bitAt ((bytes[64 * p + j / 8]?).getD 0).toNat (j % 8) then 2 ^ p else 0)) 0)

/-- Take the words of a group by its header. -/
def takeWords (hdr : Nat) : Nat → Nat → List Byte → List (List Byte) × List Byte
  | 0, _, bs => ([], bs)
  | n + 1, w, bs =>
    let (x, rest) := if bitAt hdr w then (bs.take 16, bs.drop 16) else (List.replicate 16 0, bs)
    let (ws, r) := takeWords hdr n (w + 1) rest
    (x :: ws, r)

/-- Decode `n` groups, `none` where the bytes do not fill them exactly (R177). -/
def unpackGroups : Nat → List Byte → Option (List Byte)
  | 0, bs => if bs.isEmpty then some [] else none
  | n + 1, bs =>
    if bs.length < 4 then none
    else
      let hdr := ofLe (bs.take 4)
      let (ws, r) := takeWords hdr 32 0 (bs.drop 4)
      if bs.length < 4 + 16 * popCount 32 hdr then none
      else match unpackGroups n r with
        | none => none
        | some t => some (unplane ws ++ t)

/-- Decode a frame of `len` bytes. -/
def unpackFrame (raw : Bool) (len : Nat) (bs : List Byte) : Option (List Byte) :=
  if raw then (if bs.length = len then some bs else none)
  else (unpackGroups (ceilDiv len 512) bs).map (·.take len)

/-! ## Running a copy -/

/-- What a copy or part of one ends with: the state, a status that failed it, its report, its NaNs with the engines that met them, its
result. -/
structure CopyOut where
  d : Dev
  bad : Option Nat := none
  rep : Report := {}
  nans : List (Nat × Nat × Nat) := []
  res : Nat := 0
  /-- Units fully written (R179). -/
  done : Nat := 0

/-- The conversion of row `r` of a copy. -/
def CopyDesc.convOf (k : CopyDesc) (g : Engines) (s f : FmtDesc) (sp : Spar?) (r : Nat) : Conv :=
  { sf := s, df := f, ssp := k.ssp, dsp := k.dsp
    src := k.src + r * k.srcPitch, dst := k.dst + r * k.dstPitch, step := k.step, spar := sp, mask := maskSlices k.mask, eng := g
    elem0 := r * k.len, row0 := r * k.fmtRows, byte0 := r * k.srcBytes }

/-- Read bytes in order up to the first error: a Loft read up to the bad word, a read of bay memory up to the piece that fails. -/
def Dev.readUp (d : Dev) (b : Nat) (sp : Space) (a n : Nat) : List Byte × Option MemErr :=
  match sp with
  | .loft => match d.loftErr a n with
    | some w => (d.loftRead a (8 * w - a), some .uncorr)
    | none => (d.loftRead a n, none)
  | .va => readPieces d (d.pieces b a n)

/-- Leave the bytes of a row from offset `lo` to `hi` unspecified (R173). -/
def Dev.spoilBytes (d : Dev) (c : Cmd) (k : CopyDesc) (r lo hi : Nat) : Dev :=
  d.scrambleAll c.bay k.dsp (maskSlices k.mask) (k.dst + r * k.dstPitch + lo) (hi - lo)

/-- Move the bytes `[u0, u1)` of row `r`. -/
def Dev.copyBytes (d : Dev) (c : Cmd) (g : Engines) (k : CopyDesc) (r u0 u1 : Nat) : CopyOut :=
  let src := k.src + r * k.srcPitch + u0
  let dst := k.dst + r * k.dstPitch + u0
  let x := r * k.srcBytes + u0
  let slices := max 1 (maskSlices k.mask).length
  let status (e : MemErr) : Option Nat := some (d.copyStatus c.bay k.srcRanges k.dstRanges e)
  match d.engStruck g (unitsOf x (u1 - u0)) with
  | some e => { d := (d.engParity e).spoilBytes c k r u0 u1, bad := status .uncorr, done := u0 / k.chunk }
  | none =>
    -- a read that meets an error still delivers what lies before it (R173)
    let (bs, er) := d.readUp c.bay k.ssp src (u1 - u0)
    let d0 := if k.ssp == .loft then d.loftScan c.bay [(src, bs.length)] else d
    let (d1, ew) := (d0.flashRead c.bay ⟨k.ssp, src, bs.length⟩).writeAll c.bay k.dsp (maskSlices k.mask) dst bs
    let d2 := d1.engSpan g .pfstatEngBytesRd 1 x bs.length
    match ew, er with
    | some e, _ =>
      let w := d.reachAll c.bay k.dsp (maskSlices k.mask) dst bs.length
      let d3 := if e = .uncorr then d2.faultFirst c ((spread k.dsp (maskSlices k.mask) dst).map fun a => ⟨k.dsp, a, bs.length⟩) else d2
      { d := (d3.engSpan g .pfstatEngBytesWr slices x w).spoilBytes c k r (u0 + w) u1, bad := status e, done := (u0 + w) / k.chunk }
    | none, some e =>
      let d3 := (if e = .uncorr then d2.faultFirst c [⟨k.ssp, src, u1 - u0⟩] else d2).engSpan g .pfstatEngBytesWr slices x bs.length
      { d := d3.spoilBytes c k r (u0 + bs.length) u1, bad := status e, done := (u0 + bs.length) / k.chunk }
    | none, none => { d := d2.engSpan g .pfstatEngBytesWr slices x bs.length }

/-- The part `[u0, u1)` (bytes, or elements under CONVERT) of row `r` of a LINEAR or STRIDED copy without compression. -/
def Dev.copyPart (d : Dev) (c : Cmd) (g : Engines) (k : CopyDesc) (sp : Spar?) (r u0 u1 : Nat) : CopyOut :=
  match k.sf, k.df with
  | some s, some f =>
    let v := k.convOf g s f sp r
    let o := convBlocks c v (d.flashRead c.bay ⟨k.ssp, k.src + r * k.srcPitch + u0 * s.elem.bits / 8, ceilDiv ((u1 - u0) * s.elem.bits) 8⟩)
      (destBlocks f k.fmtRows u0 u1)
    match o.bad with
    | none => { d := o.d, rep := o.rep, nans := o.nans }
    | some (e, x) =>
      { d := o.d.scrambleFrom c v x (min u1 (k.fmtRows * f.rowLen)), bad := some (d.copyStatus c.bay k.srcRanges k.dstRanges e)
        rep := o.rep, nans := o.nans, done := x * 8 / f.elem.bits / k.chunk }
  | _, _ => d.copyBytes c g k r u0 u1

/-- The rows of a copy that come after one that failed hold unspecified bytes (R173). -/
def spoilRows (c : Cmd) (g : Engines) (k : CopyDesc) (d : Dev) (rs : List Nat) : Dev :=
  rs.foldl (fun d r => match k.sf, k.df with
    | some s, some f => d.scrambleFrom c (k.convOf g s f none r) 0 (k.fmtRows * f.rowLen)
    | _, _ => d.spoilBytes c k r 0 k.len) d

/-- One part of a copy after another. -/
def CopyOut.join (a b : CopyOut) : CopyOut := { b with rep := a.rep.join b.rep, nans := a.nans ++ b.nans }

/-- Rows of a copy in order, up to the first that fails. -/
def copyRows (c : Cmd) (g : Engines) (k : CopyDesc) (sp : Spar?) : Dev → List Nat → CopyOut
  | d, [] => { d := d }
  | d, r :: rs =>
    let o := d.copyPart c g k sp r 0 k.len
    if o.bad.isSome then { o with d := spoilRows c g k o.d rs, done := if k.kind = 2 then r else o.done }
    else o.join (copyRows c g k sp o.d rs)

/-! ## Running a compressed copy (R175 to R177) -/

/-- The destination elements of a packed copy: the bytes up to the first error, and the blocks that they make up. -/
structure PackIn where
  bytes : List Byte
  bad : Option MemErr := none
  blocks : List BlockEnc := []

/-- The blocks of a conversion encoded in order, up to the first error. -/
def encBlocks (c : Cmd) (v : Conv) (d : Dev) : List (Nat × Nat × Nat) → List BlockEnc × Option (MemErr × Nat × Nat × Nat)
  | [] => ([], none)
  | x :: r =>
    match d.loadCols c v.ssp v.sf v.src v.row0 x.1 (x.2.2 - x.2.1 + 1) x.2.1 x.2.2 with
    | .error e => ([], some (e, x))
    | .ok (xs, lrep) => match d.encBlock c v x.1 x.2.1 x.2.2 xs lrep with
      | .error e => ([], some (e, x))
      | .ok o => let (os, e) := encBlocks c v d r; (o :: os, e)

/-- The input of a packed copy, and the state once an error met in it is recorded. -/
def Dev.packInput (d : Dev) (c : Cmd) (g : Engines) (k : CopyDesc) (sp : Spar?) : Dev × PackIn :=
  match k.sf, k.df with
  | some s, some f =>
    let v := k.convOf g s f sp 0
    let (os, e) := encBlocks c v d (destBlocks f k.fmtRows 0 (k.fmtRows * f.rowLen))
    let codes := os.flatMap (·.codes)
    let n := match e with | none => k.dstBytes | some _ => codes.length * f.elem.bits / 8
    let d1 := match e with
      | some (.uncorr, x) => d.faultFirst c (s.rowReads k.ssp v.src v.row0 x.1 x.2.1 x.2.2 ++ f.blockReads k.dsp (v.supplied (v.block x.1 x.2.1)) (v.block x.1 x.2.1))
      | _ => d
    (d1, { bytes := toLe n (packCodes f.elem.bits codes), bad := e.map (·.1), blocks := os })
  | _, _ =>
    let (bs, e) := d.readUp c.bay k.ssp k.src k.len
    (if e = some .uncorr then d.faultFirst c [⟨k.ssp, k.src, k.len⟩] else d, { bytes := bs, bad := e })

/-- Frames stored so far: the state, the frames, the end of the last in the compressed region, why no further one was stored. -/
structure FramesOut where
  d : Dev
  n : Nat := 0
  used : Nat := 0
  bad : Option Nat := none

/-- The source bytes of frame `i` of a packed copy, as an offset in its source (R169). -/
def CopyDesc.frameAt (k : CopyDesc) (i : Nat) : Nat := i * 65536 * k.srcBytes / max 1 k.dstBytes

/-- Store frames in order (R176); each counts on the engine of its work unit (R189). -/
def packFrames (c : Cmd) (g : Engines) (k : CopyDesc) (o : FramesOut) (frs : List (List Byte)) : FramesOut :=
  frs.foldl (fun (o : FramesOut) fr =>
    if o.bad.isSome then o
    else
      let (bs, raw) := packFrame fr
      let at_ := alignUp o.used 64
      let u := (if k.pack = 1 then k.frameAt o.n else 65536 * o.n) / unitBytes
      let e := g.at_ u
      if at_ + bs.length > k.capacity then { o with bad := some stQuota }
      else match o.d.engStruck g [u] with
        | some x => { o with d := o.d.engParity x, bad := some stUncorr }
        | none =>
          let fail (d : Dev) (er : MemErr) (a n : Nat) : FramesOut :=
            { o with d := if er = .uncorr then d.faultFirst c [⟨.va, a, n⟩] else d, bad := some er.status }
          match o.d.writeSp c.bay k.dsp (k.dst + at_) bs with
          | (d1, some er) => fail d1 er (k.dst + at_) bs.length
          | (d1, none) =>
            let ent := mkFields [(0, 40, at_), (40, 17, bs.length), (63, 1, if raw then 1 else 0)]
            match d1.writeVa c.bay (k.aux + 8 * o.n) (toLe 8 ent) with
            | (d2, some er) => fail d2 er (k.aux + 8 * o.n) 8
            | (d2, none) =>
              let d3 := ((d2.addW .pfstatEngPackIn e fr.length).addW .pfstatEngPackOut e bs.length).addW .pfstatEngBytesWr e bs.length
              { d := d3, n := o.n + 1, used := at_ + bs.length }) o

/-- Write the fine scales and spar elements of the blocks that lie wholly in the frames stored, count what was read for them, and take
their reports. -/
def packScales (c : Cmd) (v : Conv) (stored : Nat) : CopyOut → List BlockEnc → CopyOut
  | o, [] => o
  | o, b :: r =>
    if o.bad.isSome && o.bad != some stQuota then o
    else if stored < ceilDiv ((b.row * v.df.rowLen + b.x1) * v.df.elem.bits) 8 then
      packScales c v stored { o with rep := o.rep.join b.rep.unwritten, nans := o.nans ++ b.nans } r
    else match o.d.putScales c v b with
      | (d1, some e) => { o with d := if e = .uncorr then d1.faultFirst c (v.scaleRngs b) else d1, bad := some e.status, rep := o.rep.join b.rep.unwritten }
      | (d1, none) =>
        packScales c v stored { o with d := d1.countBlock v b.row b.x0 b.x1 (v.srcLen b.row b.x0 b.x1) 0
                                       rep := o.rep.join b.rep, nans := o.nans ++ b.nans } r

/-- A whole copy under PACK (R175, R176): whole frames before the first error are stored, and the compressed region beyond them is
unspecified (R173). -/
def Dev.copyPack (d : Dev) (c : Cmd) (g : Engines) (k : CopyDesc) (sp : Spar?) : CopyOut :=
  let (d0, x) := (k.srcRanges.foldl (fun d r => d.flashRead c.bay r) d).packInput c g k sp
  let n := if x.bad.isSome then x.bytes.length / 65536 else k.frames
  let o := packFrames c g k { d := d0 } (chunksOf 65536 n x.bytes)
  let stored := min (o.n * 65536) k.dstBytes
  let bad := match o.bad, x.bad with
    | some s, _ => some s
    | none, some e => some (d.copyStatus c.bay k.srcRanges [] e)
    | none, none => none
  let d1 := if bad.isNone || bad = some stQuota then o.d else o.d.scrambleAll c.bay k.dsp [] (k.dst + o.used) (k.capacity - o.used)
  let o1 : CopyOut := { d := d1, bad := bad, res := ceilDiv o.used 64 }
  match k.sf, k.df with
  | some s, some f => packScales c (k.convOf g s f sp 0) stored o1 x.blocks
  | _, _ => { o1 with d := o1.d.engSpan g .pfstatEngBytesRd 1 0 stored }

/-- A frame table entry read and its frame decoded (R177). -/
def Dev.unpackAt (d : Dev) (c : Cmd) (k : CopyDesc) (i : Nat) : Except (MemErr × List Rng) (Option (List Byte × Nat)) :=
  match d.readVaNat c.bay (k.aux + 8 * i) 8 with
  | .error e => .error (e, [⟨.va, k.aux + 8 * i, 8⟩])
  | .ok ent =>
    let off := fld ent 0 40
    let len := fld ent 40 17
    if fld ent 57 6 != 0 || off + len > k.capacity then .ok none
    else match d.readSp c.bay k.ssp (k.src + off) len with
      | .error e => .error (e, [⟨k.ssp, k.src + off, len⟩])
      | .ok bs => .ok ((unpackFrame (bitAt ent 63) (min 65536 (k.srcBytes - 65536 * i)) bs).map fun fr => (fr, len))

/-- Decode frames of an UNPACK in order, each counted on the engine of its work unit: the state, the bytes before the first bad entry, and
the status that ended them. -/
def unpackFrames (c : Cmd) (g : Engines) (k : CopyDesc) : Dev → Nat → Nat → Dev × List Byte × Option Nat
  | d, 0, _ => (d, [], none)
  | d, n + 1, i =>
    let e := g.at_ (65536 * i / unitBytes)
    match d.engStruck g [65536 * i / unitBytes], d.unpackAt c k i with
    | some x, _ => (d.engParity x, [], some stUncorr)
    | none, .error (er, rs) => (if er = .uncorr then d.faultFirst c rs else d, [], some er.status)
    | none, .ok none => (d, [], some stBadParam)
    | none, .ok (some (fr, len)) =>
      let d1 := (((d.flashRead c.bay ⟨k.ssp, k.src + fld (match d.readVaNat c.bay (k.aux + 8 * i) 8 with | .ok n => n | .error _ => 0) 0 40, len⟩).addW
        .pfstatEngPackIn e fr.length).addW .pfstatEngPackOut e len).addW .pfstatEngBytesRd e len
      let (d2, r, s) := unpackFrames c g k d1 n (i + 1)
      (d2, fr ++ r, s)

/-- Convert the blocks whose source elements lie wholly in decoded bytes, up to the first error. -/
def unpackBlocks (c : Cmd) (k : CopyDesc) (v : Conv) (bs : List Byte) : Dev → List (Nat × Nat × Nat) → ConvOut
  | d, [] => { d := d }
  | d, x :: r =>
    let codes (lo hi : Nat) : Except MemErr (List Nat) := .ok (unpackCodes v.sf.elem.bits (hi - lo) (ofLe bs / 2 ^ (lo * v.sf.elem.bits)))
    let o := d.convBlock c v (d.loadVia c k.ssp v.sf codes 0 x.1 (x.2.2 - x.2.1 + 1) x.2.1 x.2.2) 0 x.1 x.2.1 x.2.2
    if o.bad.isSome then o else o.join (unpackBlocks c k v bs o.d r)

/-- A whole copy under UNPACK (R177): the bytes of frames before the first bad entry are written, the rest is unspecified. -/
def Dev.copyUnpack (d : Dev) (c : Cmd) (g : Engines) (k : CopyDesc) (sp : Spar?) : CopyOut :=
  let (d0, bs, s) := unpackFrames c g k d k.frames 0
  let mask := maskSlices k.mask
  let status (s : Nat) : Nat := if s = stUncorr then d.copyStatus c.bay (k.srcRanges.filter fun r => r.a != k.src || r.n != k.capacity) k.dstRanges .uncorr else s
  match k.sf, k.df with
  | some sf, some f =>
    let v := k.convOf g sf f sp 0
    let whole (x : Nat × Nat × Nat) : Bool := decide (ceilDiv ((x.1 * f.rowLen + x.2.2) * sf.elem.bits) 8 ≤ bs.length)
    let blocks := (destBlocks f k.fmtRows 0 (k.fmtRows * f.rowLen)).takeWhile whole
    let o := unpackBlocks c k v bs d0 blocks
    let n := match blocks.getLast? with | some x => (x.1 * f.rowLen + x.2.2) * f.elem.bits / 8 | none => 0
    match o.bad, s with
    | some (e, x), _ => { d := o.d.scrambleFrom c v x (k.fmtRows * f.rowLen), bad := some (status e.status), rep := o.rep, nans := o.nans, res := o.rep.sats }
    | none, some st => { d := o.d.scrambleFrom c v n (k.fmtRows * f.rowLen), bad := some (status st), rep := o.rep, nans := o.nans, res := o.rep.sats }
    | none, none => { d := o.d, rep := o.rep, nans := o.nans, res := o.rep.sats }
  | _, _ =>
    let (d1, e) := d0.writeAll c.bay k.dsp mask k.dst bs
    let n := if e.isSome then d0.reachAll c.bay k.dsp mask k.dst bs.length else bs.length
    let d2 := d1.engSpan g .pfstatEngBytesWr (max 1 mask.length) 0 n
    match e, s with
    | some e, _ => { d := (if e = .uncorr then d2.faultFirst c ((spread k.dsp mask k.dst).map fun a => ⟨k.dsp, a, bs.length⟩) else d2).spoilBytes c k 0 n k.len
                     bad := some (status e.status) }
    | none, some st => { d := d2.spoilBytes c k 0 n k.len, bad := some (status st) }
    | none, none => { d := d2 }

/-- A whole LINEAR or STRIDED copy. -/
def Dev.copyWhole (d : Dev) (c : Cmd) (g : Engines) (k : CopyDesc) (sp : Spar?) : CopyOut :=
  if k.pack = 1 then d.copyPack c g k sp
  else if k.pack = 2 then d.copyUnpack c g k sp
  else
    let o := copyRows c g k sp d (upFrom 0 k.rows)
    { o with res := if k.conv then o.rep.sats else 0 }

/-- The units of R179: rows of a STRIDED copy, chunks of a LINEAR one. -/
def CopyDesc.units (k : CopyDesc) : Nat := if k.kind = 2 then k.rows else ceilDiv k.len k.chunk

/-! ## The commands COPY, FILL and CONVERT -/

/-- Does early service shut out a format (Table 17-5)? -/
def Dev.fmtShut (d : Dev) (f : FmtDesc) : Bool := !d.ready && f.elem != .fp32 && f.elem != .bf16

/-- The formats of a copy that early service shuts out. -/
def Dev.copyShut (d : Dev) (k : CopyDesc) : Bool := (k.sf.any d.fmtShut) || (k.df.any d.fmtShut)

/-- OPIDX of a command that is no KERNEL and no STEP (Table 2-7). -/
def noOp : Nat := 0xFFFFFFFF

/-- The status that keeps a COPY from running, the first of Table 6-8: a spar list that can be read and breaks its rules counts before
the grant and the trap. -/
def Dev.copyRefused (d : Dev) (c : Cmd) (k : CopyDesc) : Option Nat :=
  let granted := d.grants c.bay k.loftRanges
  let list := if granted then d.copySpar c.bay k else .ok none
  match list with
  | .error s => if s = stBadParam || s = stNoPerm then some s else if c.trapped then some stAborted else some s
  | .ok _ => if !granted then some stNoPerm else if c.trapped then some stAborted else none

/-- COPY (R186, R188). -/
def Dev.copyCmd (d : Dev) (q : Nat) : Dev :=
  match d.running? q 0x10 with
  | none => d
  | some c =>
    if !d.enginesRun then d
    else match parseCopy (c.at 16 192) with
      | none => d.complete c stBadParam 0
      | some k =>
        if !onlyFields c.pkt 2048 [(0, 128), (128, 1536)] || k.kind = 3 || k.waitLoft ≠ 0xFFFFFFFF || k.gate || d.copyShut k then
          d.complete c stBadParam 0
        else match d.copyRefused c k with
          | some s => d.complete c s 0
          | none =>
            if !d.diesUp k.dies then d
            else match d.copySpar c.bay k, (if k.done = 0xFFFFFFFF then none else d.loftCut k.done 4) with
              | .error s, _ => d.complete c s 0
              | .ok _, some w => (d.recordLoft c w).complete c stUncorr 0
              | .ok sp, none =>
                let o := (d.setLoftCounter k.done 0).copyWhole c (c.engines k.dies noOp) k sp
                ((o.d.reportOf c noOp o.nans o.rep).setLoftCounter k.done (if o.bad.isSome then o.done else k.units)).finish q (o.bad.getD stOk) o.res

/-- The repeated pattern of FILL from its byte 0. -/
def fillBytes (pat : Nat) (n : Nat) : List Byte := (upFrom 0 n).map fun i => BitVec.ofNat 8 (bytesAt pat (i % 8) 1)

/-- FILL (R187, R188): its work units are dealt to the engines of all four Lath dies. -/
def Dev.fillCmd (d : Dev) (q : Nat) : Dev :=
  match d.running? q 0x11 with
  | none => d
  | some c =>
    if !d.enginesRun then d
    else
      let sp : Space := if bitAt c.pkt 320 then .va else .loft
      let dst := c.at 16 8
      let n := c.at 24 8
      let mask := maskSlices (c.at 42 2)
      let g := c.engines 0 noOp
      let ok := c.only 1 [(16, 0, 192), (40, 0, 1), (42, 0, 16)] && inRange 1 (2 ^ 40) n && addrOk sp dst
        && (sp == .loft || mask.isEmpty)
      let rs : List Rng := (spread sp mask dst).map fun a => ⟨sp, a, n⟩
      if !ok then d.complete c stBadParam 0
      else if sp == .loft && !d.grants c.bay ((spread sp mask dst).map fun a => (a, n)) then d.complete c stNoPerm 0
      else if c.trapped then d.complete c stAborted 0
      else match d.engStruck g (unitsOf 0 n), d.writeAll c.bay sp mask dst (fillBytes (c.at 32 8) n) with
        | some e, _ => ((d.engParity e).scrambleAll c.bay sp mask dst n).finish q (d.copyStatus c.bay [] rs .uncorr) 0
        | none, (d1, some e) =>
          let w := d.reachAll c.bay sp mask dst n
          (((if e = .uncorr then d1.faultFirst c rs else d1).engSpan g .pfstatEngBytesWr (max 1 mask.length) 0 w).scrambleAll c.bay sp mask (dst + w)
            (n - w)).finish q (d.copyStatus c.bay [] rs e) 0
        | none, (d1, none) => (d1.engSpan g .pfstatEngBytesWr (max 1 mask.length) 0 n).finish q stOk 0

/-- The ranges of bay memory of a tensor of `n` elements: elements, fine scales, slice table. -/
def tensorRngs (f : FmtDesc) (a n : Nat) : List Rng :=
  [⟨.va, a, elemBytes f.elem n⟩, ⟨.va, f.scaleVa, f.scaleBytes (n / f.rowLen)⟩, ⟨.va, f.coarseVa, f.sliceBytes (n / f.rowLen)⟩]

/-- The parts of a CONVERT that passed Table 2-5 and R65: the conversion and its rows. The spec names no engine for it: its work units are
dealt to the engines of all four Lath dies (log 56). -/
def parseConvert (c : Cmd) : Option (Conv × Nat) :=
  match parseFmt true (c.at 16 40), parseFmt false (c.at 56 40) with
  | some s, some f =>
    let src := c.at 96 8
    let dst := c.at 104 8
    let n := c.at 112 8
    let ok := c.only 2 [(16, 0, 640), (96, 0, 48), (104, 0, 48), (112, 0, 96)] && s.rowLen == f.rowLen && inRange 1 (2 ^ 40) n
      && n % s.rowLen == 0 && !((tensorRngs s src n).any fun x => (tensorRngs f dst n).any x.meets)
    if ok then some ({ sf := s, df := f, ssp := .va, dsp := .va, src := src, dst := dst, step := c.at 120 4, spar := none, mask := []
                       eng := c.engines 0 noOp }, n / s.rowLen)
    else none
  | _, _ => none

/-- CONVERT (02 R64 to R66): the result is the saturations written, whatever the status. -/
def Dev.convertCmd (d : Dev) (q : Nat) : Dev :=
  match d.running? q 0x12 with
  | none => d
  | some c =>
    if !d.enginesRun then d
    else match parseConvert c with
      | none => d.complete c stBadParam 0
      | some (v, rows) =>
        if d.fmtShut v.sf || d.fmtShut v.df then d.complete c stBadParam 0
        else if c.trapped then d.complete c stAborted 0
        else
          let n := rows * v.df.rowLen
          let o := convBlocks c v ((tensorRngs v.sf v.src n).foldl (fun d r => d.flashRead c.bay r) d) (destBlocks v.df rows 0 n)
          let d1 := o.d.reportOf c noOp o.nans o.rep
          match o.bad with
          | none => d1.finish q stOk o.rep.sats
          | some (e, x) => (d1.scrambleFrom c v x n).finish q (d.copyStatus c.bay (tensorRngs v.sf v.src n) (tensorRngs v.df v.dst n) e) o.rep.sats

end Sys2Proof.Machine
end

