-- ==== Sys2Proof/Machine/Sfu.lean ====
section
/-!
DEFINITION. Machine/Sfu.lean: the special functions of the Lath cores (05 R136, Table 5-3). The exact value is enclosed
between two neighbouring FP32 values by fixed-point arithmetic of 256 bits; which of the values within one ulp is returned
is not the spec's to say (`Config.sfu`), for rcp it is the correctly rounded one.
Where the spec is silent or is read by inference: DESIGN CHOICE log 21 (notes/assumptions).
-/
namespace Sys2Proof.Machine

/-- Bits of the fixed point. -/
def sfuBits : Nat := 256

/-- Choose among the magnitude codes within one ulp of a value whose rounding down is `y`. -/
def sfuPick (fn x y : Nat) (exact : Bool) : Nat :=
  let cands := (if exact && y != 0 then [y - 1, y] else [y]) ++ (if y + 1 ≤ Fmt.fp32.maxCode then [y + 1] else [])
  (cands[Config.sfu fn x % cands.length]?).getD y

/-- Multiply `acc` by 2^(2^-i) for each set bit of the fraction `f` of `n` bits, most significant first; `root` is
2^(2^-i) in fixed point. -/
def exp2Frac (f : Nat) : Nat → Nat → Nat → Nat
  | 0, _, acc => acc
  | n + 1, root, acc =>
    exp2Frac f n (isqrt (root * 2 ^ sfuBits)) (if bitAt f n then acc * root / 2 ^ sfuBits else acc)

/-- exp2 of an FP32 code. -/
def sfuExp2 (x : Nat) : Nat :=
  match f32 x with
  | .nan => nanOf .fp32
  | .inf s => if s then 0 else infCode .fp32 false
  | .num s m e =>
    if m = 0 then 0x3F800000
    else
      -- the fixed-point value of x with 160 fraction bits, rounded towards minus infinity
      let (a, b) := scaleFrac (m * 2 ^ 160) 1 e
      let mag := a / b
      let v : Int := if s then -((mag + (if a % b = 0 then 0 else 1) : Nat) : Int) else mag
      let i := v / 2 ^ 160
      let f := (v % 2 ^ 160).toNat
      if i ≥ 128 then infCode .fp32 false
      else if i < -149 then 0
      else
        let g := exp2Frac f 160 (isqrt (2 * 2 ^ sfuBits * 2 ^ sfuBits)) (2 ^ sfuBits)
        let (p, q) := scaleFrac g (2 ^ sfuBits) i
        sfuPick 1 x (roundMag .fp32 .rtz p q) (f == 0 && a % b == 0)

/-- Bits of log2 of the fixed-point `m` in [1, 2): `n` of them. -/
def log2Frac : Nat → Nat → Nat → Nat
  | 0, _, acc => acc
  | n + 1, m, acc =>
    let q := m * m / 2 ^ sfuBits
    if q ≥ 2 * 2 ^ sfuBits then log2Frac n (q / 2) (2 * acc + 1) else log2Frac n q (2 * acc)

/-- log2 of an FP32 code. -/
def sfuLog2 (x : Nat) : Nat :=
  match f32 x with
  | .nan => nanOf .fp32
  | .inf s => if s then nanOf .fp32 else infCode .fp32 false
  | .num s m e =>
    if m = 0 then infCode .fp32 true
    else if s then nanOf .fp32
    else
      let k : Int := (m.log2 : Int) + e
      let frac := log2Frac 100 (m * 2 ^ sfuBits / 2 ^ m.log2) 0
      let v : Int := k * 2 ^ 100 + frac
      if v = 0 then 0
      else
        let neg := decide (v < 0)
        let y := roundMag .fp32 .rtz v.natAbs (2 ^ 100)
        withSign .fp32 neg (sfuPick 2 x y (frac == 0))

/-- rcp, correctly rounded. -/
def sfuRcp (x : Nat) : Nat := f32Div 0x3F800000 x

/-- rsqrt of an FP32 code. -/
def sfuRsqrt (x : Nat) : Nat :=
  match f32 x with
  | .nan => nanOf .fp32
  | .inf s => if s then nanOf .fp32 else 0
  | .num s m e =>
    if m = 0 then infCode .fp32 s
    else if s then nanOf .fp32
    else
      -- 1 / sqrt(m 2^e) = sqrt(2^(2k) / (m 2^(e mod 2))) / 2^(k + e div 2)
      let h := e / 2
      let m2 := m * 2 ^ (e % 2).toNat
      let w := 2 ^ (2 * sfuBits) / m2
      let r := isqrt w
      let (p, q) := scaleFrac r (2 ^ sfuBits) (-h)
      sfuPick 3 x (roundMag .fp32 .rtz p q) (r * r * m2 == 2 ^ (2 * sfuBits))

end Sys2Proof.Machine
end

