-- ==== Sys2Proof/Machine/LathOps.lean ====
section
/-!
DEFINITION. Machine/LathOps.lean: the arithmetic of the Lath operations (05 R134 to R139, R146 to R157; 03 R82): rows, norms,
selection, sampling, acceptance, optimiser and learned-scale gradients. `Lane` carries whether a flush has replaced a
non-zero value (02 R55, R56).
Where the spec is silent or is read by inference: DEDUCED logs 19, 20, 49 (notes/assumptions).
-/
namespace Sys2Proof.Machine

/-- A computation that notes flushes. -/
abbrev Lane (α : Type) := StateM Bool α

/-- Flush a result. -/
def lane (fl : Bool) (c : Nat) : Lane Nat := fun s => let (v, f) := flushCode fl .fp32 c; (v, s || f)

def lAdd (fl : Bool) (a b : Nat) : Lane Nat := lane fl (f32Add a b)
def lSub (fl : Bool) (a b : Nat) : Lane Nat := lane fl (f32Sub a b)
def lMul (fl : Bool) (a b : Nat) : Lane Nat := lane fl (f32Mul a b)

/-- The larger of two codes of a format: NaN where either is NaN, max(-0, +0) = +0 (R135). -/
def fmtMax (f : Fmt) (a b : Nat) : Nat :=
  if isNan f a || isNan f b then nanOf f
  else if (decode f a).lt (decode f b) then b else if (decode f b).lt (decode f a) then a
  else if isZero f a && a != b then 0 else a

/-- The smaller of two codes: NaN where either is NaN, min(-0, +0) = -0 (R135). -/
def fmtMin (f : Fmt) (a b : Nat) : Nat :=
  if isNan f a || isNan f b then nanOf f
  else if (decode f a).lt (decode f b) then a else if (decode f b).lt (decode f a) then b
  else if isZero f a && a != b then f.signBit else a

/-- The larger of two FP32 codes. -/
def f32Max (a b : Nat) : Nat := fmtMax .fp32 a b

/-- Apply a computation to every member. -/
def lMap (f : Nat → Lane Nat) : List Nat → Lane (List Nat)
  | [] => pure []
  | x :: r => do let y ← f x; let ys ← lMap f r; pure (y :: ys)

/-- Apply a computation to the pairs of two lists. -/
def lZip (f : Nat → Nat → Lane Nat) : List Nat → List Nat → Lane (List Nat)
  | x :: r, y :: t => do let z ← f x y; let zs ← lZip f r t; pure (z :: zs)
  | _, _ => pure []

/-- Add list `v` from lane 0 on to the 128 lanes. -/
def addLanes (fl : Bool) (acc v : List Nat) : Lane (List Nat) := do
  let s ← lZip (lAdd fl) acc v
  pure (s ++ acc.drop v.length)

/-- The final loop of rowsum: halve the lanes. -/
def halveLanes (fl : Bool) : Nat → List Nat → Lane Nat
  | 0, acc => pure (acc.headD 0)
  | n + 1, acc => do
    let h := 2 ^ n
    let s ← lZip (lAdd fl) (acc.take h) ((acc.drop h).take h)
    halveLanes fl n s

/-- Sum chunks of 128 values into the lanes. -/
def sumLanes (fl : Bool) : List Nat → List (List Nat) → Lane (List Nat)
  | acc, [] => pure acc
  | acc, c :: r => do let a ← addLanes fl acc c; sumLanes fl a r

/-- rowsum (R135). -/
def rowsum (fl : Bool) (v : List Nat) : Lane Nat := do
  let acc ← sumLanes fl (List.replicate 128 0) (chunksOf 128 (ceilDiv v.length 128) v)
  halveLanes fl 7 acc

/-- log2 e in FP32 (R147). -/
def log2e : Nat := 0x3FB8AA3B

/-- softmax_fwd (R147). -/
def softmaxFwd (fl : Bool) (x : List Nat) (a : Nat) : Lane (List Nat) := do
  let z ← lMap (fun v => lMul fl v a) x
  let m := z.foldl f32Max (infCode .fp32 true)
  if m = infCode .fp32 true then pure (x.map fun _ => 0)
  else
    let e ← lMap (fun v => do
      let t ← lSub fl v m
      let u ← lMul fl t log2e
      lane fl (sfuExp2 u)) z
    let s ← rowsum fl e
    let r ← lane fl (sfuRcp s)
    lMap (fun v => lMul fl v r) e

/-- softmax_bwd (R147). -/
def softmaxBwd (fl : Bool) (x dy : List Nat) (a : Nat) : Lane (List Nat) := do
  let y ← softmaxFwd fl x a
  let p ← lZip (lMul fl) dy y
  let g ← rowsum fl p
  lZip (fun yi di => do
    let t ← lSub fl di g
    let u ← lMul fl yi t
    lMul fl u a) y dy

/-- rms_stats (R148): r and xh. -/
def rmsStats (fl : Bool) (x : List Nat) (invN eps : Nat) : Lane (Nat × List Nat) := do
  let sq ← lMap (fun v => lMul fl v v) x
  let s ← rowsum fl sq
  let ms ← lMul fl s invN
  let t ← lAdd fl ms eps
  let r ← lane fl (sfuRsqrt t)
  let xh ← lMap (fun v => lMul fl v r) x
  pure (r, xh)

/-- ln_stats (R148). -/
def lnStats (fl : Bool) (x : List Nat) (invN eps : Nat) : Lane (Nat × List Nat) := do
  let s ← rowsum fl x
  let mu ← lMul fl s invN
  let xc ← lMap (fun v => lSub fl v mu) x
  rmsStats fl xc invN eps

/-- A forward normalisation of a row; `beta` for LAYERNORM. -/
def normFwd (fl ln : Bool) (x gamma beta : List Nat) (invN eps : Nat) : Lane (List Nat) := do
  let (_, xh) ← if ln then lnStats fl x invN eps else rmsStats fl x invN eps
  let y ← lZip (lMul fl) xh gamma
  if ln then lZip (lAdd fl) y beta else pure y

/-- A backward normalisation of a row: dx and the row's terms of the gamma gradient. -/
def normBwd (fl ln : Bool) (x dy gamma : List Nat) (invN eps : Nat) : Lane (List Nat × List Nat) := do
  let (r, xh) ← if ln then lnStats fl x invN eps else rmsStats fl x invN eps
  let h ← lZip (lMul fl) gamma dy
  let hx ← lZip (lMul fl) h xh
  let s1 ← rowsum fl hx
  let c1 ← lMul fl s1 invN
  let c0 ← if ln then do
      let s0 ← rowsum fl h
      lMul fl s0 invN
    else pure 0
  let hc ← lMap (fun v => lSub fl v c0) h
  let xc ← lMap (fun v => lMul fl v c1) xh
  let df ← lZip (lSub fl) hc xc
  let dx ← lMap (fun v => lMul fl r v) df
  let dg ← lZip (lMul fl) dy xh
  pure (dx, dg)

/-- Column sums in blocks of 256 rows (R148): the block partials added in order. -/
def blockSums (fl : Bool) (n : Nat) : List (List (List Nat)) → List Nat → Lane (List Nat)
  | [], total => pure total
  | blk :: r, total => do
    let part ← blk.foldlM (fun acc row => lZip (lAdd fl) acc row) (List.replicate n 0)
    let t ← lZip (lAdd fl) total part
    blockSums fl n r t

/-- The gradient of gamma or beta from the rows' terms. -/
def columnSums (fl : Bool) (n : Nat) (rows : List (List Nat)) : Lane (List Nat) :=
  blockSums fl n (chunksOf 256 (ceilDiv rows.length 256) rows) (List.replicate n 0)

/-! ## Selection (R139) -/

/-- Does (value, index) `x` come before `y`: larger value first, equal values by index, NaN last? -/
def selBefore (x y : Nat × Nat) : Bool :=
  let nx := isNan .fp32 x.1
  let ny := isNan .fp32 y.1
  if nx || ny then (if nx && ny then decide (x.2 < y.2) else ny)
  else if (f32 y.1).lt (f32 x.1) then true
  else if (f32 x.1).lt (f32 y.1) then false
  else decide (x.2 < y.2)

/-- Insert in the order of R139. -/
def selInsert (x : Nat × Nat) : List (Nat × Nat) → List (Nat × Nat)
  | [] => [x]
  | y :: r => if selBefore x y then x :: y :: r else y :: selInsert x r

/-- The elements of a row in the order of R139, as (value, index). -/
def selOrder (x : List Nat) : List (Nat × Nat) := (x.zip (upFrom 0 x.length)).foldl (fun l e => selInsert e l) []

/-- The first element of R139: its index. -/
def selFirst (x : List Nat) : Nat := ((selOrder x).head?.map (·.2)).getD 0

/-! ## Sampling and acceptance (R149 to R151) -/

/-- A draw of R149. -/
def draw32 (seed seqId pos j : Nat) : Nat :=
  srDraw seed seqId (pos % 2 ^ 32) (2 * j) * 65536 + srDraw seed seqId (pos % 2 ^ 32) (2 * j + 1)

/-- The smallest prefix of the ordered elements whose sum reaches `p`: the indices kept. -/
def topP (fl : Bool) (p : Nat) : List (Nat × Nat) → Nat → Lane (List Nat)
  | [], _ => pure []
  | e :: r, s => do
    let t ← lAdd fl s e.1
    if (f32 p).le (f32 t) then pure [e.2]
    else do
      let ks ← topP fl p r t
      pure (e.2 :: ks)

/-- Keep the listed indices, others get `z`. -/
def keepOnly (ks : List Nat) (z : Nat) (x : List Nat) : List Nat :=
  (x.zip (upFrom 0 x.length)).map fun e => if ks.contains e.2 then e.1 else z

/-- How a row becomes a distribution. -/
structure Filter where
  invTemp : Nat
  topK : Nat
  topP : Nat
  deriving DecidableEq, Repr

/-- The distribution of a logits row (R150). The parameters are flushed as they are read (R55). -/
def distOf (fl : Bool) (f : Filter) (x : List Nat) : Lane (List Nat) := do
  let it ← lane fl f.invTemp
  let tp ← lane fl f.topP
  let z0 ← lMap (fun v => lMul fl v it) x
  let z := if f.topK = 0 then z0 else keepOnly (((selOrder z0).take f.topK).map (·.2)) (infCode .fp32 true) z0
  let p ← softmaxFwd fl z 0x3F800000
  if (f32 tp).lt (f32 0x3F800000) then do
    let ks ← topP fl tp (selOrder p) 0
    pure (keepOnly ks 0 p)
  else pure p

/-- `a × 2^32 > u × b`, exactly; false with a NaN. -/
def exceeds (a u b : Nat) : Bool := (((Fv.num false u 0).mul (f32 b))).lt ((f32 a).mul (.num false 1 32))

/-- `u × q ≥ p × 2^32`, exactly; false with a NaN. -/
def rejects (u q p : Nat) : Bool := ((f32 p).mul (.num false 1 32)).le ((Fv.num false u 0).mul (f32 q))

/-- The running sums of a row. -/
def runSums (fl : Bool) : Nat → List Nat → Lane (List Nat)
  | _, [] => pure []
  | s, v :: r => do
    let t ← lAdd fl s v
    let ts ← runSums fl t r
    pure (t :: ts)

/-- Sampling from `p` with a draw; `x` is the logits row it was formed from. For a distribution that holds a NaN the spec states no result:
it is a free value of the distribution and the draw. -/
def sampleFrom (fl : Bool) (p x : List Nat) (u : Nat) : Lane Nat := do
  let c ← runSums fl 0 p
  let total := c.getLastD 0
  let i := c.findIdx fun ci => exceeds ci u total
  let positive := ((p.zip (upFrom 0 p.length)).filter fun e => (f32 0).lt (f32 e.1)).map (·.2)
  pure (if p.any (isNan .fp32) then Config.sampleNan p u % max 1 p.length
    else if i < c.length then i
    else match positive.getLast? with
      | some k => k
      | none => selFirst x)

/-- A sequence table entry (Table 5-7). -/
structure SeqEntry where
  seqId : Nat
  pos : Nat
  drafts : List Nat
  xRow : Nat
  yRow : Nat
  deriving DecidableEq, Repr

/-- The decision of an entry (R151): tokens accepted, the token after them, and whether a NaN was met. `tx`, `qx`: the
target and draft logits rows from the entry's first on. -/
def acceptFrom (fl greedy : Bool) (f : Filter) (seed : Nat) (e : SeqEntry) (tx qx : List (List Nat)) :
    Nat → List Nat → Lane (Nat × Nat × Bool)
  | k, [] => do
    let x := (tx[k]?).getD []
    if greedy then pure (k, selFirst x, false)
    else do
      let p ← distOf fl f x
      let t ← sampleFrom fl p x (draw32 seed e.seqId (e.pos + k) 1)
      pure (k, t, p.any (isNan .fp32))
  | k, dk :: r => do
    let x := (tx[k]?).getD []
    if greedy then
      if dk ≠ selFirst x then pure (k, selFirst x, false) else acceptFrom fl greedy f seed e tx qx (k + 1) r
    else do
      let p ← distOf fl f x
      let q ← distOf fl f ((qx[k]?).getD [])
      let bad := p.any (isNan .fp32) || q.any (isNan .fp32)
      if rejects (draw32 seed e.seqId (e.pos + k) 0) ((q[dk]?).getD 0) ((p[dk]?).getD 0) then do
        let df ← lZip (lSub fl) p q
        let res := df.map (f32Max 0)
        let src := if res.all (isZero .fp32) then p else res
        let t ← sampleFrom fl src x (draw32 seed e.seqId (e.pos + k) 1)
        pure (k, t, bad)
      else do
        let (a, t, b) ← acceptFrom fl greedy f seed e tx qx (k + 1) r
        pure (a, t, bad || b)

/-! ## Learned-scale gradients (03 R81, R82) -/

/-- ue4m3_rne_clamped (R81): the code of a learned scale, 0x7F where it is not positive and finite. -/
def learnedCode (s : Nat) : Nat :=
  if !isFinite .fp32 s || isZero .fp32 s || decide (2 ^ 31 ≤ s) then 0x7F
  else match f32 s with
    | .num _ m e => let (a, b) := scaleFrac m 1 e; min (max (roundMag .ue4m3 .rne a b) 1) 0x7E
    | _ => 0x7F

/-- The term t of an element. -/
def scaleTerm (f : Fmt) (w d : Nat) : Nat :=
  match f32 w, f32 d with
  | .nan, _ | _, .nan => nanOf .fp32
  | .inf s, .inf _ => let _ := s; nanOf .fp32
  | .inf s, _ => encodeIeee .fp32 (match decode f f.maxCode with | .num _ m e => .num s m e | v => v)
  | .num _ _ _, .inf _ => 0
  | .num s m e, .num _ n g =>
    if n = 0 then (if m = 0 then nanOf .fp32 else encodeIeee .fp32 (match decode f f.maxCode with | .num _ a b => .num s a b | v => v))
    else
      let (a, b) := scaleFrac m n (e - g)            -- |u| = a / b
      match decode f f.maxCode with
      | .num _ fm fe =>
        let (fa, fb) := scaleFrac fm 1 fe
        if a * fb > fa * b then encodeIeee .fp32 (.num s fm fe)
        else
          let code := min (roundMag f .rne a b) f.maxCode
          match decode f code with
          | .num _ qm qe =>
            -- |q| - |u| = (qm 2^qe b - a) / b, one rounding to FP32
            let (qa, qb) := scaleFrac qm 1 qe
            let num : Int := (qa * b : Nat) - (a * qb : Nat)
            let neg := decide (num < 0)
            if num = 0 then 0 else roundIeee .fp32 .rne (s != neg) num.natAbs (b * qb)
          | _ => 0
      | _ => 0

/-- learned_scale_grad of a block (R82). -/
def scaleGrad (fl : Bool) (f : Fmt) (c gscale s : Nat) (w g : List Nat) : Lane Nat := do
  if (allFinite w && w.all (isZero .fp32)) || constBlock w then pure 0
  else do
    let k := learnedCode s
    let d ← lane fl (if k = 0x7F then nanOf .fp32 else scaleD k c)
    let acc ← (w.zip g).foldlM (fun acc e => do
      let t ← lane fl (scaleTerm f e.1 d)
      let p ← lMul fl e.2 t
      lAdd fl acc p) 0
    let a ← lMul fl acc c
    lMul fl a gscale

/-! ## The optimiser step (R154) -/

/-- The constants of OPTIM. -/
structure OptPar where
  lr : Nat
  b1 : Nat
  b2 : Nat
  eps : Nat
  wd : Nat
  c1 : Nat
  c2 : Nat
  gscale : Nat
  deriving DecidableEq, Repr

/-- One parameter: w', m', v'. -/
def optStep (fl adam : Bool) (p : OptPar) (w m v g0 : Nat) : Lane (Nat × Nat × Nat) := do
  let g ← lMul fl g0 p.gscale
  let ob1 ← lSub fl 0x3F800000 p.b1
  let ob2 ← lSub fl 0x3F800000 p.b2
  let bm ← lMul fl p.b1 m
  let (m1, v1, u) ← (if adam then do
      let gm ← lMul fl ob1 g
      let m1 ← lAdd fl bm gm
      let bv ← lMul fl p.b2 v
      let g2 ← lMul fl ob2 g
      let g3 ← lMul fl g2 g
      let v1 ← lAdd fl bv g3
      let mh ← lMul fl m1 p.c1
      let vh ← lMul fl v1 p.c2
      let s ← (if isZero .fp32 vh then pure 0 else do
        let r ← lane fl (sfuRsqrt vh)
        lMul fl vh r)
      let t ← lAdd fl s p.eps
      let r ← lane fl (sfuRcp t)
      let u ← lMul fl mh r
      pure (m1, v1, u)
    else do
      let m1 ← lAdd fl bm g
      pure (m1, 0, m1))
  let a ← lMul fl p.wd w
  let b ← lAdd fl u a
  let c ← lMul fl p.lr b
  let w1 ← lSub fl w c
  pure (w1, m1, v1)

end Sys2Proof.Machine
end

