-- ==== Sys2Proof/Machine/Vector.lean ====
section
/-!
DEFINITION. Machine/Vector.lean: the Lath cores (05 R129 to R139): their registers and lanes, the masked instructions of Table 5-2, the run
of a program instance, the errors a core meets (R132, Table 5-8) and the cores to which work is dealt (R153).
Where the spec is silent or is read by inference: DESIGN CHOICE logs 16, 18, 56, 73 (notes/assumptions).
-/
namespace Sys2Proof.Machine

/-! ## Registers and lanes (R130) -/

/-- Bits of a lane, and lanes of a register. -/
def LaneTy.bits (t : LaneTy) : Nat := 8 * t.bytes
def LaneTy.count (t : LaneTy) : Nat := 512 / t.bytes

/-- A vector register: 4,096 bits. -/
def LathCore.vreg (k : LathCore) (r : Nat) : Nat := smGet 0 k.v (r % 64) % 2 ^ 4096

/-- A mask register: 512 bits; K0 reads as all ones. -/
def LathCore.kreg (k : LathCore) (r : Nat) : Nat := if r % 16 = 0 then 2 ^ 512 - 1 else smGet 0 k.k (r % 16) % 2 ^ 512

/-- A scalar register: 64 bits. -/
def LathCore.sreg (k : LathCore) (r : Nat) : Nat := smGet 0 k.s (r % 32) % 2 ^ 64

/-- Write a vector register. -/
def LathCore.setV (k : LathCore) (r x : Nat) : LathCore := { k with v := smSet 0 k.v (r % 64) (x % 2 ^ 4096) }

/-- Write a mask register; a write to K0 is ignored. -/
def LathCore.setK (k : LathCore) (r x : Nat) : LathCore := if r % 16 = 0 then k else { k with k := smSet 0 k.k (r % 16) (x % 2 ^ 512) }

/-- Write a scalar register. -/
def LathCore.setS (k : LathCore) (r x : Nat) : LathCore := { k with s := smSet 0 k.s (r % 32) (x % 2 ^ 64) }

/-- The lanes of a register: element i of width w bytes in bits [8wi + 8w - 1 : 8wi]. -/
def LathCore.lanes (k : LathCore) (t : LaneTy) (r : Nat) : List Nat := unpackCodes t.bits t.count (k.vreg r)

/-- Is lane `i` active under a mask register? -/
def LathCore.active (k : LathCore) (m i : Nat) : Bool := bitAt (k.kreg m) i

/-- The active lanes among the first `n`, ascending. -/
def LathCore.actives (k : LathCore) (m n : Nat) : List Nat := (upFrom 0 n).filter (k.active m)

/-- Put new values into the active lanes among those given; every other lane of the destination keeps its value (R131). -/
def LathCore.merge (k : LathCore) (t : LaneTy) (r m : Nat) (new : List Nat) : LathCore :=
  let old := k.lanes t r
  k.setV r (packCodes t.bits (((upFrom 0 old.length).zip old).map fun e =>
    if decide (e.1 < new.length) && k.active m e.1 then (new[e.1]?).getD 0 else e.2))

/-- Put values into all lanes of a register, +0 where none is given. -/
def LathCore.fill (k : LathCore) (t : LaneTy) (r : Nat) (new : List Nat) : LathCore := k.setV r (packCodes t.bits (new.take t.count))

/-! ## Lane arithmetic -/

/-- Floating-point arithmetic of a lane: operands flushed (R55), one rounding to the format, the result flushed; and whether a flush
replaced a value (R134). -/
def laneArith (fl : Bool) (f : Fmt) (op : ArithOp) (a b c : Nat) : Nat × Bool :=
  let (x, f1) := flushCode fl f a
  let (y, f2) := flushCode fl f b
  let (z, f3) := if op = .fma then flushCode fl f c else (c, false)
  let vx := decode f x
  let vy := decode f y
  let r := match op with
    | .fma => encodeIeee f ((vx.mul vy).add (decode f z))
    | .add => encodeIeee f (vx.add vy)
    | .sub => encodeIeee f (vx.add vy.neg)
    | .mul => encodeIeee f (vx.mul vy)
    | .min => fmtMin f x y
    | .max => fmtMax f x y
  let (q, f4) := flushCode fl f r
  (q, f1 || f2 || f3 || f4)

/-- The number of a shift, for `Config.wideShift`. -/
def IntOp.number : IntOp → Nat
  | .shl => 1 | .shr => 2 | .sar => 3 | _ => 0

/-- Integer arithmetic, logic and shifts modulo 2 to the power of the width (R134). A shift by the width or more is a free value. -/
def laneInt (op : IntOp) (w a b : Nat) : Nat :=
  (match op with
    | .add => a + b
    | .sub => a + 2 ^ w - b % 2 ^ w
    | .and => Nat.land a b
    | .or => Nat.lor a b
    | .xor => Nat.xor a b
    | .shl => if b < w then a * 2 ^ b else Config.wideShift op.number w a b
    | .shr => if b < w then a / 2 ^ b else Config.wideShift op.number w a b
    | .sar => if b < w then (if bitAt a (w - 1) then (a + (2 ^ b - 1) * 2 ^ w) / 2 ^ b else a / 2 ^ b) else Config.wideShift op.number w a b)
    % 2 ^ w

/-- The integer of a lane. -/
def laneValue (signed : Bool) (w a : Nat) : Int := if signed && bitAt a (w - 1) then (a : Int) - 2 ^ w else a

/-- Does a comparison of two lanes hold? With a NaN only `ne` does. -/
def laneCompare (rel : Rel) (t : LaneTy) (signed : Bool) (a b : Nat) : Bool :=
  match t.fmt? with
  | some f =>
    let x := decode f a
    let y := decode f b
    (match rel with
      | .eq => x.le y && y.le x
      | .ne => !(x.le y && y.le x)
      | .lt => x.lt y
      | .le => x.le y)
  | none =>
    let x := laneValue signed t.bits a
    let y := laneValue signed t.bits b
    (match rel with
      | .eq => decide (x = y)
      | .ne => decide (x ≠ y)
      | .lt => decide (x < y)
      | .le => decide (x ≤ y))

/-- FP32 to INT32 by RNE; a value that has no such integer gives a free value. -/
def toInt32 (a : Nat) : Nat :=
  match f32 a with
  | .num s m e =>
    let (n, d) := scaleFrac m 1 e
    let q := n / d
    let r := n % d
    let k := if d < 2 * r || (2 * r == d && q % 2 == 1) then q + 1 else q
    if s then (if k ≤ 2 ^ 31 then (2 ^ 32 - k) % 2 ^ 32 else Config.intOf a % 2 ^ 32) else (if k < 2 ^ 31 then k else Config.intOf a % 2 ^ 32)
  | _ => Config.intOf a % 2 ^ 32

/-- A lane converted, and whether a flush replaced a value. -/
def laneConvert (fl : Bool) (src dst : LaneTy) (a : Nat) : Nat × Bool :=
  match src.fmt?, dst.fmt? with
  | some f, some g =>
    let (x, f1) := flushCode fl f a
    let (q, f2) := flushCode fl g (encodeIeee g (decode f x))
    (q, f1 || f2)
  | some f, none =>
    let (x, f1) := flushCode fl f a
    (toInt32 (encodeIeee .fp32 (decode f x)), f1)
  | none, some g =>
    let v := laneValue true 32 a
    (encodeIeee g (.num (decide (v < 0)) v.natAbs 0), false)
  | none, none => (a, false)

/-- A special function of an FP32 lane (R136). -/
def SfuOp.eval : SfuOp → Nat → Nat
  | .exp2 => sfuExp2 | .log2 => sfuLog2 | .rcp => sfuRcp | .rsqrt => sfuRsqrt

/-- A lane of a special function: operand and result flushed. -/
def laneSpecial (fl : Bool) (fn : SfuOp) (a : Nat) : Nat × Bool :=
  let (x, f1) := flushCode fl .fp32 a
  let (q, f2) := flushCode fl .fp32 (fn.eval x)
  (q, f1 || f2)

/-- A lane reduction (R135): for the sum the halving loop of rowsum alone. -/
def reduceLanes (fl : Bool) (op : RedOp) (v : List Nat) : Lane Nat := do
  let xs ← lMap (lane fl) v
  match op with
  | .sum => halveLanes fl 7 xs
  | .max => pure ((xs.drop 1).foldl (fmtMax .fp32) (xs.headD 0))
  | .min => pure ((xs.drop 1).foldl (fmtMin .fp32) (xs.headD 0))

/-! ## Runs of an instance -/

/-- A program instance under way: its core, the module, what it has reported, the bytes that running Thatch operations still write (R143),
the ranges it has stored to, and the status that stopped it. -/
structure LathRun where
  core : LathCore
  d : Dev
  bay : Nat
  cmd : Cmd
  inst : Nat
  und : List (Nat × Nat) := []
  rep : Report := {}
  wrote : List (Nat × Nat) := []
  pc : Nat := 0
  stop : Option Nat := none
  ended : Bool := false

/-- Report NaN items and flushes. -/
def LathRun.told (r : LathRun) (nans : Nat) (flushed : Bool) : LathRun :=
  { r with rep := r.rep.join { nans := List.replicate nans (2, r.inst % 2 ^ 32), flushed := flushed } }

/-- The lanes of a floating-point result computed for the active lanes: merged, with a NaN item for each that is NaN and the flushes. -/
def LathRun.put (r : LathRun) (t : LaneTy) (d m n : Nat) (f : Nat → Nat × Bool) : LathRun :=
  let act := r.core.actives m n
  let res : List (Nat × Bool) := (upFrom 0 n).map fun i => if r.core.active m i then f i else (0, false)
  let outs : List (Nat × Bool) := act.map f
  let k := match t.fmt? with
    | some g => (outs.filter fun (e : Nat × Bool) => isNan g e.1).length
    | none => 0
  { r with core := r.core.merge t d m (res.map Prod.fst) }.told k (outs.any fun (e : Nat × Bool) => e.2)

/-- Consecutive numbers of an ascending list, as (first, how many). -/
def runsOf : List Nat → List (Nat × Nat)
  | [] => []
  | x :: r => match runsOf r with
    | (y, n) :: t => if y = x + 1 then (x, n + 1) :: t else (x, 1) :: (y, n) :: t
    | [] => [(x, 1)]

/-- The Loft bytes of the active lanes of a load or store from an address. -/
def LathRun.spans (r : LathRun) (t : LaneTy) (a m : Nat) : List (Nat × Nat) :=
  (runsOf (r.core.actives m t.count)).map fun (e : Nat × Nat) => (a + t.bytes * e.1, t.bytes * e.2)

/-- A load or store stops: outside the grant, or at a bad word of the Loft, which is recorded (R142, R161). -/
def LathRun.shut (r : LathRun) (rs : List (Nat × Nat)) (bad : Nat → Nat → Option Nat) : Option LathRun :=
  if rs.all fun (x : Nat × Nat) => r.d.loftGranted r.bay x.1 x.2 then
    (rs.findSome? fun (x : Nat × Nat) => bad x.1 x.2).map fun w => { r with d := r.d.recordLoft r.cmd w, stop := some stUncorr }
  else some { r with stop := some stNoPerm }

/-- Load the active lanes. -/
def LathRun.load (r : LathRun) (t : LaneTy) (d a m : Nat) : LathRun :=
  let rs := r.spans t a m
  match r.shut rs r.d.loftErr with
  | some x => x
  | none =>
    let view := r.d.blur r.und
    { r with d := r.d.loftScan r.bay rs
             core := r.core.merge t d m ((upFrom 0 t.count).map fun i =>
               if r.core.active m i then ofLe (view.loftRead (a + t.bytes * i) t.bytes) else 0) }

/-- Store the active lanes. -/
def LathRun.store (r : LathRun) (t : LaneTy) (v a m : Nat) : LathRun :=
  let rs := r.spans t a m
  match r.shut rs r.d.loftCut with
  | some x => x
  | none =>
    let xs := r.core.lanes t v
    { r with wrote := r.wrote ++ rs
             d := (runsOf (r.core.actives m t.count)).foldl (fun d e =>
               d.loftWrite (a + t.bytes * e.1) (((xs.drop e.1).take e.2).flatMap (toLe t.bytes))) r.d }

/-- The lanes of block `j` of the 128 lanes that a format's block covers, the active ones. -/
def LathRun.blockLanes (r : LathRun) (f : FmtDesc) (m j : Nat) : List Nat :=
  (upFrom (j * f.block) f.block).filter fun i => decide (i < 128) && r.core.active m i

/-- Put the values of some lanes, given with their numbers. -/
def LathRun.putAt (r : LathRun) (t : LaneTy) (d m : Nat) (xs : List (Nat × Nat)) : LathRun :=
  { r with core := r.core.merge t d m ((upFrom 0 t.count).map fun i => ((xs.find? fun e => e.1 == i).map (·.2)).getD 0) }

/-- Decode the active codes of the register, block by block. -/
def LathRun.decode (r : LathRun) (f : FmtDesc) (d a s m : Nat) : LathRun :=
  let codes := r.core.lanes .int8 a
  let fl := r.cmd.flush
  let outs : List (List (Nat × Nat) × Report) := (upFrom 0 (128 / f.block)).map fun j =>
    let is := r.blockLanes f m j
    let (v, rep) := if is.isEmpty then ([], {}) else
      loadBlock f fl f.coarse (fld (r.core.sreg s) (8 * j) 8) (Config.freeNat (r.d.free + j)) (is.map fun i => ((codes[i]?).getD 0) % 2 ^ f.elem.bits)
    (is.zip v, rep)
  let r1 := r.putAt .fp32 d m (outs.flatMap (·.1))
  { r1 with d := r1.d.tick, rep := outs.foldl (fun x o => x.join o.2) r1.rep }

/-- Encode the active lanes of the register, block by block; the fine scales that the store path chooses go to S[s]. -/
def LathRun.encode (r : LathRun) (f : FmtDesc) (d a s m : Nat) : LathRun :=
  let xs := r.core.lanes .fp32 a
  let fl := r.cmd.flush
  let outs := (upFrom 0 (128 / f.block)).map fun j =>
    let is := r.blockLanes f m j
    let k := fld (r.core.sreg s) (8 * j) 8
    if is.isEmpty then (j, ([] : List (Nat × Nat)), k, ({} : Report))
    else
      let o := storeBlock f fl f.coarse k (Config.freeNat (r.d.free + j)) (is.map fun i => Config.freeNat (r.d.free + 256 + i) % 65536)
        (is.map fun i => ((xs[i]?).getD 0, false))
      (j, is.zip o.codes, (if f.writesFine then o.fine else k), o.rep)
  let r1 := r.putAt .int8 d m (outs.flatMap (·.2.1))
  let s1 := outs.foldl (fun x o => setFld x (8 * o.1) 8 o.2.2.1) (r.core.sreg s)
  { r1 with d := r1.d.tick, core := r1.core.setS s s1, rep := outs.foldl (fun x o => x.join o.2.2.2) r1.rep }

/-- The instruction `i` at `pc`: its effect, and the next place. -/
def LathRun.ins (r0 : LathRun) (i : Ins) : LathRun :=
  let r := { r0 with pc := r0.pc + 1 }
  let k := r.core
  let fl := r.cmd.flush
  let at_ (t : LaneTy) (v x : Nat) : Nat := ((k.lanes t v)[x]?).getD 0
  match i with
  | .arith op t d a b c m => match t.fmt? with
    | some f => r.put t d m t.count fun x => laneArith fl f op (at_ t a x) (at_ t b x) (at_ t c x)
    | none => { r with stop := some stBadParam }
  | .int op t d a b m => r.put t d m t.count fun x => (laneInt op t.bits (at_ t a x) (at_ t b x), false)
  | .compare rel t signed d a b m =>
    let flush (v : Nat) : Nat × Bool := match t.fmt? with | some f => flushCode fl f v | none => (v, false)
    let act := k.actives m t.count
    let bits : List (Nat × Bool) := act.map fun x => (x, laneCompare rel t signed (flush (at_ t a x)).1 (flush (at_ t b x)).1)
    { r with core := k.setK d (bits.foldl (fun v (e : Nat × Bool) => setFld v e.1 1 (if e.2 then 1 else 0)) (k.kreg d)) }.told 0
      (act.any fun (x : Nat) => (flush (at_ t a x)).2 || (flush (at_ t b x)).2)
  | .select t d a b c m => { r with core := k.merge t d m ((upFrom 0 t.count).map fun x => if k.active c x then at_ t a x else at_ t b x) }
  | .convert src dst d a m => r.put dst d m 128 fun x => laneConvert fl src dst (at_ src a x)
  | .decode f d a s m => r.decode f d a s m
  | .encode f d a s m => r.encode f d a s m
  | .special fn d a m => r.put .fp32 d m 128 fun x => laneSpecial fl fn (at_ .fp32 a x)
  | .reduce op s a =>
    let (v, f) := (reduceLanes fl op (k.lanes .fp32 a)).run false
    { r with core := k.setS s v }.told (if isNan .fp32 v then 1 else 0) f
  | .compress t d a m s =>
    let act := k.actives m t.count
    { r with core := (k.fill t d (act.map (at_ t a))).setS s act.length }
  | .expand t d a m =>
    let act := k.actives m t.count
    { r with core := k.merge t d m ((upFrom 0 t.count).map fun x => at_ t a (act.findIdx (· == x))) }
  | .permute t d a x m => { r with core := k.merge t d m ((upFrom 0 t.count).map fun j => at_ t a (at_ t x j % t.count)) }
  | .choose n d x a m =>
    let act := k.actives m 128
    let sel := (selOrder (act.map (at_ .fp32 a))).take n
    { r with core := (k.fill .fp32 d (sel.map (·.1))).fill .int32 x (sel.map fun e => (act[e.2]?).getD 0) }
  | .load t d s m => r.load t d (k.sreg s) m
  | .store t a s m => r.store t a (k.sreg s) m
  | .scalarImm d v => { r with core := k.setS d v }
  | .scalarInt op d a b => { r with core := k.setS d (laneInt op 64 (k.sreg a) (k.sreg b)) }
  | .scalarFp op wide d a b =>
    let f : Fmt := if wide then .fp64 else .fp32
    let (v, x) := laneArith fl f op (k.sreg a % 2 ^ f.bits) (k.sreg b % 2 ^ f.bits) (k.sreg d % 2 ^ f.bits)
    { r with core := k.setS d v }.told 0 x
  | .branch s dest => if k.sreg s = 0 then r else { r with pc := dest }
  | .halt => { r with ended := true }
  | .illegal => { r with stop := some stBadParam }

/-- Run an instance from its place in the image until it ends or stops, at most `n` instructions of it. -/
def LathRun.run (image : List Byte) : Nat → LathRun → LathRun
  | 0, r => r
  | n + 1, r => if r.ended || r.stop.isSome then r else (r.ins (Config.instruction image r.pc)).run image n

/-- The state of a core at the start of an instance (R141): S0 its index, S1 INSTANCES, S2 ARGS_LOFT, every other register zero. -/
def startCore (k : LathCore) (image : List Byte) (inst instances args : Nat) : LathCore :=
  ((({ k with v := [], k := [], s := [], buf := image }.setS 0 inst).setS 1 instances).setS 2 args)

/-! ## Dealing, and the errors of cores (R132, R153) -/

/-- The cores to which the items of an operation are dealt. -/
structure Cores where
  key : Nat
  list : List Nat
  deriving DecidableEq, Repr

/-- The cores of some Lath dies, for entry `i` of a command. -/
def Cmd.cores (c : Cmd) (dies : List Nat) (i : Nat) : Cores :=
  { key := c.order * 2 ^ 32 + i % 2 ^ 32, list := dies.flatMap fun k => upFrom (48 * k) 48 }

/-- The core of item `j`; the spec leaves the dealing open. -/
def Cores.at_ (g : Cores) (j : Nat) : Nat := (g.list[Config.dealLath g.key j % g.list.length]?).getD 0

/-- The unit identifier of a module core (Table 1-7). -/
def unitLath (core : Nat) : Nat := unitId (12 + core / 48) 2 (core % 48)

/-- Is core `x` dealt one of `n` items? -/
def Cores.deals (g : Cores) (n x : Nat) : Bool := (upFrom 0 n).any fun j => g.at_ j == x

/-- The dies that are dealt one of `n` items. -/
def Cores.dies (g : Cores) (n : Nat) : List Nat := (upFrom 0 4).filter fun k => (upFrom 0 n).any fun j => g.at_ j / 48 == k

/-- The bit of LATH_DIE_ERR of an error (Table 5-8). -/
def LathUpset.bit : LathUpset → Nat
  | .vregSingle | .vregDouble => 0 | .ibuf => 1 | .port => 2 | .stats => 3

/-- Does an operation meet an error of its core: that of the instruction buffer only under PROGRAM, that of an accumulator only with STATS? -/
def LathUpset.met (program stats : Bool) : LathUpset → Bool
  | .ibuf => program | .stats => stats | _ => true

/-- An error of core `x` is met: a single-bit error is corrected and counted, any other sets its bit and is recorded (R132, Table 5-8). -/
def Dev.lathUpset (d : Dev) (c : Cmd) (x : Nat) (u : LathUpset) : Dev :=
  let die := x / 48
  if u = .vregSingle then (d.addS .lathVregCorr die 1).addS .errlogCorr 0 1
  else (d.sb .lathDieErr die u.bit true).record
    { kind := 0x0003, bay := some c.bay, unit := unitLath x, tag := c.tag, queue := c.sq, opcode := c.opcode
      status := if u = .stats then stOk else stUncorr, detail0 := 2 ^ u.bit }

/-- The errors that an operation of `n` items meets on the cores it is dealt to: is it UNCORRECTABLE, and is its statistics contribution
dropped (Table 5-8)? -/
def Dev.lathMeet (d : Dev) (c : Cmd) (g : Cores) (n : Nat) (program stats : Bool) : Dev × Bool × Bool :=
  (d.lath.filter fun (e : Nat × LathCore) => !e.2.upsets.isEmpty && g.deals n e.1).foldl (fun (acc : Dev × Bool × Bool) e =>
    let us := e.2.upsets.filter (·.met program stats)
    let d1 := us.foldl (fun d u => d.lathUpset c e.1 u) acc.1
    ({ d1 with lath := smMod d1.lath e.1 fun k => { k with upsets := k.upsets.filter fun u => !u.met program stats } }
      , acc.2.1 || us.any (fun u => u != .vregSingle && u != .stats), acc.2.2 || us.contains .stats)) (d, false, false)

end Sys2Proof.Machine
end

