-- ==== Sys2Proof/Machine/Lath.lean ====
section
/-!
DEFINITION. Machine/Lath.lean: the Lath operations of a KERNEL (05 R140 to R158): descriptors, their checks and the rows
PROGRAM to SCALE_GRAD. An operation's whole work is its row's one step, item by item: rows, entries, segments or instances; then its end
is KERNEL_ENTRY_END.
Where the spec is silent or is read by inference: DESIGN CHOICE logs 6, 16, 18, 56, 73; DEDUCED logs 17, 20, 48, 49 (notes/assumptions).
-/
namespace Sys2Proof.Machine

/-- A Lath operation descriptor (Table 5-4). -/
structure LathOp where
  kind : Nat
  dies : Nat
  afterThatch : Bool
  guard : Bool
  adam : Bool
  step : Nat
  rows : Nat
  n : Nat
  x : Nat
  y : Nat
  z : Nat
  w : Nat
  done : Nat
  waitLoft : Nat
  waitCount : Nat
  fx : Option FmtDesc
  fy : Option FmtDesc
  fz : Option FmtDesc
  raw : Nat
  deriving DecidableEq, Repr

/-- A parameter of PARAMS by its byte in the descriptor. -/
def LathOp.par (o : LathOp) (b k : Nat) : Nat := bytesAt o.raw b k

/-- Which kinds. -/
def LathOp.norm (o : LathOp) : Bool := inRange 4 7 o.kind
def LathOp.ln (o : LathOp) : Bool := inRange 6 7 o.kind
def LathOp.bwd (o : LathOp) : Bool := o.kind == 3 || o.kind == 5 || o.kind == 7

/-- The block size of a TARGET (R157). -/
def LathOp.targetBlock (o : LathOp) : Nat := 16 * 2 ^ fld (o.par 188 1) 4 2

/-- Blocks per row of SCALE_GRAD. -/
def LathOp.blocks (o : LathOp) : Nat := ceilDiv o.n o.targetBlock

/-- A positive finite FP32 code. -/
def posFinite (c : Nat) : Bool := 1 ≤ c && c ≤ 0x7F7FFFFF

/-- The fields of PARAMS by KIND (Table 5-5). -/
def lathParams (kind : Nat) (guardBits : Bool) : List (Nat × Nat) :=
  let b (f : Nat × Nat) : Nat × Nat := (8 * f.1, 8 * f.2)
  let _ := guardBits
  (match kind with
    | 1 => [(184, 4), (188, 4), (192, 4)]
    | 2 => [(184, 4)]
    | 3 => [(184, 4)]
    | 4 => [(184, 4)]
    | 6 => [(184, 4)]
    | 5 => [(184, 8)]
    | 7 => [(184, 8)]
    | 8 => [(184, 4)]
    | 11 => [(184, 72)]
    | 12 => [(184, 4), (192, 4)]
    | _ => [(184, 16), (204, 8)]).map b
  ++ (if kind = 9 ∨ kind = 10 then [(1600, 1)] else if kind = 12 then [(1504, 6)] else [])

/-- Which format descriptors a KIND uses: X, Y, Z (Table 5-5a). -/
def lathFmts (kind : Nat) : Bool × Bool × Bool :=
  match kind with
  | 2 | 4 | 6 => (true, false, true)
  | 3 | 5 | 7 => (true, true, true)
  | 8 | 9 | 11 => (true, false, false)
  | 10 => (true, true, false)
  | 12 => (true, true, true)
  | _ => (false, false, false)

/-- Read a Lath descriptor and make the issue checks of Table 5-6 but for the grant. -/
def parseLath (n : Nat) : Option LathOp :=
  let kind := fld n 0 5
  let (ux, uy, uz) := lathFmts kind
  let fx := if ux then parseFmt true (bytesAt n 64 40) else none
  let fy := if uy then parseFmt true (bytesAt n 104 40) else none
  let fz := if uz then parseFmt false (bytesAt n 144 40) else none
  let o : LathOp :=
    { kind := kind, dies := fld n 8 4, afterThatch := bitAt n 12, guard := bitAt n 13, adam := fld n 16 2 == 0, step := bytesAt n 4 4
      rows := bytesAt n 8 4, n := bytesAt n 12 4, x := bytesAt n 16 4, y := bytesAt n 20 4, z := bytesAt n 24 4, w := bytesAt n 28 4
      done := bytesAt n 32 4, waitLoft := bytesAt n 36 4, waitCount := bytesAt n 40 4, fx := fx, fy := fy, fz := fz, raw := n }
  let used : List (Nat × Nat) :=
    [(0, 5), (8, 5), (32, 320)] ++ (if kind = 11 then [(13, 1), (16, 2), (832, 640)] else [])
    ++ (if ux then [(512, 320)] else []) ++ (if uy then [(832, 320)] else []) ++ (if uz then [(1152, 320)] else [])
    ++ lathParams kind true
  let rowsOk := if kind = 1 ∨ kind = 11 then o.rows == 1 && o.n == 1
    else inRange 1 16777216 o.rows && inRange 1 (if kind = 9 ∨ kind = 10 then 1048576 else 65536) o.n
  let fmtOk := (fx.isSome || !ux) && (fy.isSome || !uy) && (fz.isSome || !uz)
    && (fx.all fun f => (kind == 11 || f.rowLen == o.n) && loftFmt f)
    && (fy.all fun f => f.rowLen == o.n && loftFmt f)
    && (fz.all fun f => f.rowLen == (if kind = 12 then o.blocks else o.n) && loftFmt f)
  let kindOk : Bool := match kind with
    | 1 => inRange 1 65536 (o.par 188 4)
    | 2 | 3 => isFinite .fp32 (o.par 184 4)
    | 4 | 5 | 6 | 7 => posFinite (o.par 184 4)
    | 8 => inRange 1 4096 (o.par 184 4) && decide (o.par 184 4 ≤ o.n)
    | 9 | 10 => (bitAt n 1600 || posFinite (o.par 184 4)) && decide (o.par 188 4 ≤ 4096) && decide (o.par 188 4 ≤ o.n)
        && posFinite (o.par 192 4) && decide (o.par 192 4 ≤ 0x3F800000) && inRange 1 65536 (o.par 208 4)
    | 11 => (fx.all fun f => f.elem == .fp32 && f.mode == .none && !f.coarseSrc && f.coarse == 0x3F800000)
        && decide (fld n 16 2 ≤ 1) && isFinite .fp32 (o.par 196 4) && isFinite .fp32 (o.par 212 4)
        && inRange 1 (2 ^ 40) (o.par 216 8)
        && ([224, 232, 248].all fun b => o.par b 8 != 0 && decide (o.par b 8 < 2 ^ 48))
        && (if o.adam then o.par 240 8 != 0 && decide (o.par 240 8 < 2 ^ 48) else o.par 240 8 == 0)
    | 12 => isFinite .fp32 (o.par 184 4) && posNormal32 (o.par 192 4)
        && (match Fmt.ofCode (fld n 1504 4) with | some f => !f.wide | none => false)
        && (fx.all fun f => f.elem.wide) && (fz.all fun f => f.elem.wide)
    | _ => false
  if onlyFields n 2048 used && rowsOk && fmtOk && kindOk then some o else none

/-- The Loft ranges of a formatted array of `rows` rows. -/
def fmtRanges (f : FmtDesc) (a rows : Nat) : List (Nat × Nat) :=
  [(a, elemBytes f.elem (rows * f.rowLen)), (f.scaleVa, f.scaleBytes rows), (f.coarseVa, f.sliceBytes rows)]

/-- The Loft ranges of an operation. -/
def LathOp.ranges (o : LathOp) : List (Nat × Nat) :=
  (if o.waitLoft = 0xFFFFFFFF then [] else [(o.waitLoft, 4)])
  ++ (if o.done = 0xFFFFFFFF ∨ o.kind = 1 ∨ o.kind = 11 then [] else [(o.done, 4)])
  ++ (if o.kind = 11 then [] else
    (match o.fx with | some f => fmtRanges f o.x o.rows | none => [])
    ++ (match o.fy with | some f => fmtRanges f o.y o.rows | none => [])
    ++ (match o.fz with | some f => fmtRanges f o.z o.rows | none => []))
  ++ (match o.kind with
    | 1 => [(o.par 184 4, 64)]
    | 4 | 6 => [(o.w, 4 * o.n * (if o.ln then 2 else 1))]
    | 5 | 7 => [(o.w, 4 * o.n * (if o.ln then 2 else 1)), (o.par 188 4, 4 * o.n * (if o.ln then 2 else 1))]
    | 8 => [(o.z, 4 * o.rows * o.par 184 4), (o.w, 4 * o.rows * o.par 184 4)]
    | 9 | 10 => [(o.par 204 4, 64 * o.par 208 4)]
    | 12 => [(o.w, 4 * o.rows * o.blocks)]
    | _ => [])

/-- The issue check of a Lath operation (R142). -/
def Dev.lathIssue (d : Dev) (b desc : Nat) : Option Nat :=
  match parseLath desc with
  | none => some stBadParam
  | some o => if d.grants b o.ranges then none else some stNoPerm

/-! ## Running -/

/-- The Lath dies of an operation. -/
def LathOp.dieList (o : LathOp) : List Nat := (upFrom 0 4).filter fun k => o.dies == 0 || bitAt o.dies k

/-- The cores to which the items of an operation, entry `i` of a KERNEL, are dealt (R153). -/
def LathOp.cores (o : LathOp) (c : Cmd) (i : Nat) : Cores := c.cores o.dieList i

/-- The copy engines that OPTIM drives (R153). -/
def LathOp.engines (o : LathOp) (c : Cmd) (i : Nat) : Engines := c.engines o.dies i

/-- An entry that may start now as the Lath operation of a KIND (R143). -/
def Dev.lathReady (d : Dev) (q i kind : Nat) : Option (Cmd × LathOp) :=
  match d.entry? q i with
  | none => none
  | some (c, k, e) =>
    match e.st, parseLath e.desc with
    | .waiting, some o =>
      if e.cls == 2 && o.kind == kind && !k.stopped && d.enginesRun && d.diesUp o.dies && k.lathMayStart i o.afterThatch
          && (o.waitLoft == 0xFFFFFFFF || decide (o.waitCount ≤ d.loftCounter o.waitLoft)) then some (c, o)
      else none
    | _, _ => none

/-- The Loft bytes of D that running Thatch operations have still to write (R143). -/
def Dev.undrained (d : Dev) : List (Nat × Nat) :=
  d.kernels.flatMap fun k => k.entries.flatMap fun e => match e.st, parseThatch e.desc with
    | .thatch r, some o =>
      if o.reduce then []
      else
        let gs := o.groupsOf r.groups
        let (rows, cols, _, _) := o.subs r.units
        let ps := allPasses rows cols 0 gs
        ((upFrom 0 ps.length).zip ps).flatMap fun p =>
          if r.passes.contains p.1 then []
          else
            let g := (gs[p.2.g]?).getD o.single
            (upFrom (p.2.br * rows) (min rows (g.m - p.2.br * rows))).map fun i =>
              (o.dLoft + g.dOff + (i * g.n + p.2.bc * cols) * o.fdst.elem.bits / 8, elemBytes o.fdst.elem (min cols (g.n - p.2.bc * cols)))
    | _, _ => []

/-- A Lath operation has written these Loft ranges: running Thatch operations that read them get unspecified values. -/
def Dev.spoil (d : Dev) (rs : List (Nat × Nat)) : Dev :=
  { d with kernels := d.kernels.map fun k => { k with entries := k.entries.map fun e => match e.st, parseThatch e.desc with
      | .thatch r, some o =>
        let reads := (o.groupsOf r.groups).flatMap o.readRanges
        { e with st := .thatch { r with spoiled := r.spoiled ++ rs.filter fun x => reads.any fun y => overlap x.1 x.2 y.1 y.2 } }
      | _, _ => e } }

/-- FP32 numbers of the Loft, flushed as they are loaded. -/
def Dev.loftF32 (d : Dev) (fl : Bool) (a n : Nat) : Except MemErr (List Nat × Bool) :=
  match d.readSp 0 .loft a (4 * n) with
  | .error e => .error e
  | .ok bs =>
    let vs := (unpackCodes 32 n (ofLe bs)).map (flushCode fl .fp32)
    .ok (vs.map (·.1), vs.any (·.2))

/-- A row of a formatted array. -/
def Dev.loftRow (d : Dev) (c : Cmd) (f : FmtDesc) (a r : Nat) : Except MemErr (List Nat × Report) :=
  d.loadCols c .loft f a 0 r (f.rowLen + 1) 0 f.rowLen

/-- Rows `r`, `r + 1`, … of a formatted array. -/
def Dev.loftRows (d : Dev) (c : Cmd) (f : FmtDesc) (a : Nat) : Nat → Nat → Except MemErr (List (List Nat) × Report)
  | _, 0 => .ok ([], {})
  | r, n + 1 =>
    match d.loftRow c f a r with
    | .error e => .error e
    | .ok (v, rep) => match d.loftRows c f a (r + 1) n with
      | .error e => .error e
      | .ok (vs, reps) => .ok (v :: vs, rep.join reps)

/-- Store one row of Z through Z_FMT; stochastic rounding takes tile 0 and the element's linear index (R134). -/
def Dev.storeZ (d : Dev) (c : Cmd) (f : FmtDesc) (a step r : Nat) (vals : List Nat) : RowOut :=
  d.storeFmtRow c .loft f a r (fun x => srDraw step f.tensorId 0 (r * f.rowLen + x)) vals

/-- NaN items of values, by linear index from `base` on (SOURCE 0x2, Table 2-8a). -/
def nanItems (base : Nat) (vals : List Nat) : List (Nat × Nat) :=
  ((upFrom base vals.length).zip vals).filterMap fun e => if isNan .fp32 e.2 then some (2, e.1 % 2 ^ 32) else none

/-- Write Loft bytes; false where the write cuts a word with an uncorrectable error, which is recorded (R161). -/
def Dev.loftPut (d : Dev) (c : Cmd) (a : Nat) (bs : List Byte) : Dev × Bool :=
  match d.loftCut a bs.length with
  | some w => ((d.loftWrite a bs).recordLoft c w, false)
  | none => (d.loftWrite a bs, true)

/-- Write several pieces of the Loft up to the first that fails. -/
def loftPuts (c : Cmd) : Dev → List (Nat × List Byte) → Dev × Bool
  | d, [] => (d, true)
  | d, x :: r => match d.loftPut c x.1 x.2 with
    | (d1, true) => loftPuts c d1 r
    | (d1, false) => (d1, false)

/-- Cycles and issues of the dies that took part: what they count the spec leaves to the rates of an operation it does not state. -/
def Dev.lathCycles (d : Dev) (dies : List Nat) : Dev :=
  dies.foldl (fun d k => ([Reg.lathActiveCyc, .lathFmaCyc, .lathSfuCyc, .lathCxCyc, .lathLoftStall, .lathWaitCyc].foldl
    (fun d r => (d.addW r k (Config.freeNat d.free)).tick) d)) d

/-- The work of an operation is over after `items` items of it: the counts of the dies that ran any, and the Loft ranges it wrote. -/
def Dev.lathRan (d : Dev) (g : Cores) (items : Nat) (wrote : List (Nat × Nat)) : Dev :=
  ((g.dies items).foldl (fun d k => d.addW .lathOps k 1) (d.lathCycles (g.dies items))).spoil wrote

/-- The end of an operation: its row counter and its state. -/
def Dev.lathEnd (d : Dev) (c : Cmd) (q i : Nat) (o : LathOp) (count : Nat) : Dev :=
  (d.setEntry q i .finished).putCounter c q i (if o.kind = 1 ∨ o.kind = 11 then 0xFFFFFFFF else o.done) count

/-- An operation stops with a status after `count` of its items. -/
def Dev.lathFail (d : Dev) (c : Cmd) (q i : Nat) (o : LathOp) (count status : Nat) : Dev :=
  (d.putCounter c q i (if o.kind = 1 ∨ o.kind = 11 then 0xFFFFFFFF else o.done) count).failEntry q i status

/-- What a run of items has come to: the state, the status that stopped it, the items done, and what they left for the operation's end. -/
structure LathItems (α : Type) where
  d : Dev
  bad : Option Nat := none
  done : Nat := 0
  left : α

/-- Run items `j`, `j + 1`, … in order up to the first that stops. -/
def lathItems {α : Type} (f : Nat → LathItems α → LathItems α) : Nat → Nat → LathItems α → LathItems α
  | 0, _, x => x
  | n + 1, j, x =>
    let y := f j x
    if y.bad.isSome then y else lathItems f n (j + 1) { y with done := j + 1 }

/-- The items that an operation runs when an error of a core stops it: the spec does not say how far it comes (R132). -/
def Dev.lathReach (d : Dev) (bad : Bool) (items : Nat) : Nat := if bad then Config.freeNat d.free % max 1 items else items

/-! ## Row operations -/

/-- What a row of the row operations gives: its row of Z and its terms of the gradients of gamma and beta. -/
structure RowVals where
  z : List Nat
  dg : List Nat := []
  db : List Nat := []

/-- Compute a row (R147, R148, R157) from its decoded rows of X and Y and from W: gamma and beta, or its blocks' learned scales. -/
def rowCompute (fl : Bool) (o : LathOp) (x y w : List Nat) : Lane RowVals :=
  let p (b : Nat) : Lane Nat := lane fl (o.par b 4)
  let gamma := w.take o.n
  let beta := w.drop o.n
  let invN := (flushCode fl .fp32 (sfuRcp (f32OfNat o.n))).1
  match o.kind with
  | 2 => do let a ← p 184; let z ← softmaxFwd fl x a; pure { z := z }
  | 3 => do let a ← p 184; let z ← softmaxBwd fl x y a; pure { z := z }
  | 4 | 6 => do let eps ← p 184; let z ← normFwd fl o.ln x gamma beta invN eps; pure { z := z }
  | 5 | 7 => do
      let eps ← p 184
      let (dx, dg) ← normBwd fl o.ln x y gamma invN eps
      pure { z := dx, dg := dg, db := if o.ln then y else [] }
  | 12 => do
      let f := (Fmt.ofCode (fld o.raw 1504 4)).getD .e4m3
      let gs ← p 184
      let co ← p 192
      let bs := (chunksOf o.targetBlock o.blocks x).zip (chunksOf o.targetBlock o.blocks y)
      let z ← ((upFrom 0 o.blocks).zip bs).mapM fun b => scaleGrad fl f co gs ((w[b.1]?).getD 0) b.2.1 b.2.2
      pure { z := z }
  | _ => pure { z := [] }

/-- The gradients of gamma, and of beta for LAYERNORM_BWD, from all rows' terms (R148). -/
def gammaGrads (fl : Bool) (o : LathOp) (rows : List RowVals) : List Nat × Bool :=
  (do let dg ← columnSums fl o.n (rows.map (·.dg))
      let db ← if o.ln then columnSums fl o.n (rows.map (·.db)) else pure []
      pure (dg ++ db) : Lane (List Nat)).run false

/-- Elements of W that the rows share. -/
def LathOp.wn (o : LathOp) : Nat := if o.norm then o.n * (if o.ln then 2 else 1) else 0

/-- Row `r` of a row operation: X, Y and, for SCALE_GRAD, its blocks' scales are read, and its row of Z is stored. -/
def Dev.lathRow (c : Cmd) (i : Nat) (o : LathOp) (fx fz : FmtDesc) (und : List (Nat × Nat)) (w : List Nat) (r : Nat)
    (x : LathItems (List RowVals)) : LathItems (List RowVals) :=
  let v := x.d.blur und
  let unit := unitLath ((o.cores c i).at_ r)
  let wa := o.w + 4 * r * o.blocks
  let reads := fx.rowReads .loft o.x 0 r 0 fx.rowLen ++ (match o.fy with | some f => f.rowReads .loft o.y 0 r 0 f.rowLen | none => [])
    ++ (if o.kind = 12 then [⟨.loft, wa, 4 * o.blocks⟩] else [])
  match v.loftRow c fx o.x r, (match o.fy with | some f => v.loftRow c f o.y r | none => .ok ([], {})),
      (if o.kind = 12 then v.loftF32 c.flush wa o.blocks else .ok (w, false)) with
  | .ok (xs, rx), .ok (ys, ry), .ok (ws, fw) =>
    let (out, fl) := (rowCompute c.flush o xs ys ws).run false
    let nz := if o.kind = 12 then o.blocks else o.n
    let s := (x.d.loftScan c.bay (reads.map fun g => (g.a, g.n))).storeZ c fz o.z o.step r out.z
    let rep : Report := ((rx.join ry).join { nans := nanItems (r * nz) out.z, flushed := fl || fw }).join s.rep
    { x with d := s.d.report c unit i rep, bad := s.bad.map (·.status), left := x.left ++ [out] }
  | _, _, _ => { x with d := x.d.faultFirst c reads, bad := some stUncorr }

/-- A row operation of entry `i`: SOFTMAX, the norms, their backward kinds and SCALE_GRAD. -/
def Dev.lathRows (d : Dev) (q i kind : Nat) : Dev :=
  match d.lathReady q i kind with
  | none => d
  | some (c, o) =>
    if d.passed c then d.missKernel q
    else match o.fx, o.fz with
    | some fx, some fz =>
      let g := o.cores c i
      let und := d.undrained
      let (d0, bad, _) := (d.putCounter c q i o.done 0).lathMeet c g o.rows false false
      match (d0.blur und).loftF32 c.flush o.w o.wn with
      | .error _ => (d0.faultFirst c [⟨.loft, o.w, 4 * o.wn⟩]).lathFail c q i o 0 stUncorr
      | .ok (w, fw) =>
        let x := lathItems (Dev.lathRow c i o fx fz und w) (d0.lathReach bad o.rows) 0
          { d := d0.tick.report c 0 i { flushed := fw }, left := [] }
        let d1 := x.d.lathRan g (min o.rows (x.done + 1)) (fmtRanges fz o.z (min o.rows (x.done + 1)))
        match x.bad, bad with
        | some s, _ => d1.lathFail c q i o x.done s
        | none, true => d1.lathFail c q i o x.done stUncorr
        | none, false =>
          if o.bwd && o.norm then
            let (aux, fa) := gammaGrads c.flush o x.left
            let a := o.par 188 4
            let d2 := (d1.report c (unitLath (g.at_ o.rows)) i { nans := nanItems (o.rows * o.n) aux, flushed := fa }).spoil [(a, 4 * aux.length)]
            match d2.loftPut c a (aux.flatMap (toLe 4)) with
            | (d3, true) => d3.lathEnd c q i o o.rows
            | (d3, false) => d3.lathFail c q i o o.rows stUncorr
          else d1.lathEnd c q i o o.rows
    | _, _ => d

/-- Row `r` of TOPK (R139): its items of Table 2-8a are elements of Z, the indices, which are no NaN; a NaN code of X is reported by the
load. -/
def Dev.topkRow (c : Cmd) (i : Nat) (o : LathOp) (fx : FmtDesc) (und : List (Nat × Nat)) (r : Nat) (x : LathItems Unit) : LathItems Unit :=
  let reads := fx.rowReads .loft o.x 0 r 0 fx.rowLen
  match (x.d.blur und).loftRow c fx o.x r with
  | .error _ => { x with d := x.d.faultFirst c reads, bad := some stUncorr }
  | .ok (xs, rx) =>
    let k := o.par 184 4
    let sel := (selOrder xs).take k
    let d1 := (x.d.loftScan c.bay (reads.map fun g => (g.a, g.n))).report c (unitLath ((o.cores c i).at_ r)) i rx
    let (d2, ok) := loftPuts c d1 [(o.z + 4 * k * r, sel.flatMap fun e => toLe 4 e.2), (o.w + 4 * k * r, sel.flatMap fun e => toLe 4 e.1)]
    { x with d := d2, bad := if ok then none else some stUncorr }

/-- TOPK of entry `i`. -/
def Dev.lathTopk (d : Dev) (q i : Nat) : Dev :=
  match d.lathReady q i 8 with
  | none => d
  | some (c, o) =>
    if d.passed c then d.missKernel q
    else match o.fx with
    | none => d
    | some fx =>
      let g := o.cores c i
      let (d0, bad, _) := (d.putCounter c q i o.done 0).lathMeet c g o.rows false false
      let x := lathItems (Dev.topkRow c i o fx d.undrained) (d0.lathReach bad o.rows) 0 { d := d0.tick, left := () }
      let n := min o.rows (x.done + 1)
      let d1 := x.d.lathRan g n [(o.z, 4 * n * o.par 184 4), (o.w, 4 * n * o.par 184 4)]
      match x.bad, bad with
      | some s, _ => d1.lathFail c q i o x.done s
      | none, true => d1.lathFail c q i o x.done stUncorr
      | none, false => d1.lathEnd c q i o o.rows

/-! ## SAMPLE and ACCEPT (R149 to R152) -/

/-- A sequence table entry; `none` where it breaks the start check of Table 5-6. -/
def LathOp.seqEntry (o : LathOp) (e : Nat) : Option SeqEntry :=
  let n := bytesAt e 8 1
  let s : SeqEntry :=
    { seqId := bytesAt e 0 4, pos := bytesAt e 4 4, drafts := (upFrom 0 (min n 8)).map fun k => bytesAt e (16 + 4 * k) 4
      xRow := bytesAt e 48 4, yRow := bytesAt e 52 4 }
  if n ≤ 8 && (o.kind == 10 || n == 0) && decide (s.xRow + n < o.rows) && (n == 0 || decide (s.yRow + n ≤ o.rows))
      && s.drafts.all (fun t => decide (t < o.n)) then some s else none

/-- Decide entry `k`, writing ACCEPTED and TOKEN. Under GREEDY the draft rows take no part (R151) and are not loaded; rows after the one
that decides are not examined, and what their decoding would report is not. -/
def Dev.acceptEntry (c : Cmd) (i : Nat) (o : LathOp) (fx : FmtDesc) (und : List (Nat × Nat)) (es : List SeqEntry) (k : Nat)
    (x : LathItems Unit) : LathItems Unit :=
  match es[k]? with
  | none => x
  | some s =>
    let n := s.drafts.length
    let v := x.d.blur und
    let fy := if bitAt o.raw 1600 then none else o.fy
    let reads (m : Nat) : List Rng := (upFrom s.xRow (min m (n + 1))).flatMap (fun r => fx.rowReads .loft o.x 0 r 0 fx.rowLen)
      ++ (match fy with | some f => (upFrom s.yRow (min m n)).flatMap fun r => f.rowReads .loft o.y 0 r 0 f.rowLen | none => [])
    match v.loftRows c fx o.x s.xRow (n + 1), (match fy with | some f => v.loftRows c f o.y s.yRow n | none => .ok ([], {})) with
    | .ok (tx, rx), .ok (qx, ry) =>
      let f : Filter := { invTemp := o.par 184 4, topK := o.par 188 4, topP := o.par 192 4 }
      let ((acc, tok, bad), fl) := (acceptFrom c.flush (bitAt o.raw 1600) f (o.par 196 4) s tx qx 0 s.drafts).run false
      let rep (f : FmtDesc) (a row m : Nat) (all : Report) : Report := match v.loftRows c f a row m with | .ok (_, r) => r | .error _ => all
      let rx1 := rep fx o.x s.xRow (acc + 1) rx
      let ry1 := match fy with | some f => rep f o.y s.yRow (min (acc + 1) n) ry | none => {}
      let d1 := (x.d.loftScan c.bay ((reads (acc + 1)).map fun g => (g.a, g.n))).report c (unitLath ((o.cores c i).at_ k)) i
        ((rx1.join ry1).join { nans := if bad then [(2, k)] else [], flushed := fl })
      let at_ := o.par 204 4 + 64 * k
      let (d2, ok) := loftPuts c d1 [(at_ + 9, [BitVec.ofNat 8 acc]), (at_ + 12, toLe 4 tok)]
      { x with d := d2, bad := if ok then none else some stUncorr }
    | _, _ => { x with d := x.d.faultFirst c (reads (n + 1)), bad := some stUncorr }

/-- SAMPLE and ACCEPT of entry `i`. -/
def Dev.lathAccept (d : Dev) (q i kind : Nat) : Dev :=
  match d.lathReady q i kind with
  | none => d
  | some (c, o) =>
    if d.passed c then d.missKernel q
    else match o.fx with
    | none => d
    | some fx =>
      let seqs := o.par 208 4
      let tab := o.par 204 4
      let und := d.undrained
      match (d.blur und).readSp c.bay .loft tab (64 * seqs) with
      | .error e => (d.faultFirst c [⟨.loft, tab, 64 * seqs⟩]).failEntry q i e.status
      | .ok bs =>
        let es := (chunksOf 64 seqs bs).map fun x => o.seqEntry (ofLe x)
        if es.any Option.isNone then d.failEntry q i stBadParam
        else
          let g := o.cores c i
          let (d0, bad, _) := (d.putCounter c q i o.done 0).lathMeet c g seqs false false
          let x := lathItems (Dev.acceptEntry c i o fx und (es.filterMap id)) (d0.lathReach bad seqs) 0 { d := d0.tick, left := () }
          let n := min seqs (x.done + 1)
          let d1 := x.d.lathRan g n ((upFrom 0 n).flatMap fun k => [(tab + 64 * k + 9, 1), (tab + 64 * k + 12, 4)])
          match x.bad, bad with
          | some s, _ => d1.lathFail c q i o x.done s
          | none, true => d1.lathFail c q i o x.done stUncorr
          | none, false => d1.lathEnd c q i o seqs

/-! ## OPTIM (R153 to R156) -/

/-- FP32 codes of bay memory, as they stand. -/
def Dev.vaF32 (d : Dev) (b va n : Nat) : Except MemErr (List Nat) :=
  match d.readVa b va (4 * n) with
  | .error e => .error e
  | .ok bs => .ok (unpackCodes 32 n (ofLe bs))

/-- What OPTIM does to a parameter. -/
structure OptOut where
  /-- w as the arithmetic takes it, flushed as it is read. -/
  w0 : Nat
  /-- w, m and v as they are written back. -/
  w : Nat
  m : Nat
  v : Nat
  /-- Its result was finite and is kept. -/
  ok : Bool
  nan : Bool

/-- The update of a parameter as R156 counts it: (w, w'); an element that keeps its old values has no update. -/
def OptOut.pair (o : OptOut) : Nat × Nat := (o.w0, if o.ok then o.w else o.w0)

/-- The constants of an OPTIM, flushed as they are read (R55). -/
def optPar (fl : Bool) (o : LathOp) : Lane OptPar := do
  let p (b : Nat) : Lane Nat := lane fl (o.par b 4)
  pure { lr := ← p 184, b1 := ← p 188, b2 := ← p 192, eps := ← p 196, wd := ← p 200, c1 := ← p 204, c2 := ← p 208, gscale := ← p 212 }

/-- The optimiser over the parameters in order, on the codes in memory (w, m, v, g): each is flushed as it is read (R55), and an element
whose result is not finite keeps its codes (R155). -/
def optAll (fl adam : Bool) (p : OptPar) : List (Nat × Nat × Nat × Nat) → Lane (List OptOut)
  | [] => pure []
  | (w, m, v, g) :: r => do
    let w0 ← lane fl w
    let m0 ← lane fl m
    let v0 ← lane fl v
    let g0 ← lane fl g
    let (w1, m1, v1) ← optStep fl adam p w0 m0 v0 g0
    let ok := isFinite .fp32 w1 && isFinite .fp32 m1 && isFinite .fp32 v1
    let o : OptOut :=
      { w0 := w0, w := if ok then w1 else w, m := if ok then m1 else m, v := if ok then v1 else v, ok := ok
        nan := isNan .fp32 w1 || isNan .fp32 m1 || isNan .fp32 v1 }
    let os ← optAll fl adam p r
    pure (o :: os)

/-- OPTIM's arithmetic over its parameters. -/
def optRun (fl : Bool) (o : LathOp) (xs : List (Nat × Nat × Nat × Nat)) : List OptOut × Bool :=
  (do let p ← optPar fl o; optAll fl o.adam p xs : Lane (List OptOut)).run false

/-- Parameters of a segment (R153). -/
def segLen : Nat := 65536

/-- The exact sum of a segment's terms over its finite values (R156). -/
def segSum (f : Nat × Nat → Fv) (seg : List (Nat × Nat)) : Fv :=
  seg.foldl (fun s e => if isFinite .fp32 e.1 then s.add (f e) else s) (.num false 0 0)

/-- The sums of R78 of a segment of (w, w') pairs, exact. -/
def optSums (pairs : List (Nat × Nat)) : Fv × Fv :=
  (segSum (fun e => (f32 e.1).mul (f32 e.1)) pairs, segSum (fun e => let t := (f32 e.2).add (f32 e.1).neg; t.mul t) pairs)

/-- A statistics accumulator's content: the sum in units of 2^-298. -/
def accOf (v : Fv) : Nat :=
  match v with
  | .num _ m e => m * 2 ^ (e + 298).toNat
  | _ => 0

/-- Write arrays in order up to the first error, which is met in the array at the address answered. -/
def writeArrays (b : Nat) : Dev → List (Nat × List Nat) → Dev × Option (MemErr × Nat)
  | d, [] => (d, none)
  | d, (va, vs) :: r => match d.writeVa b va (vs.flatMap (toLe 4)) with
    | (d1, some e) => (d1, some (e, va))
    | (d1, none) => writeArrays b d1 r

/-- Bytes moved for segment `s` count on the copy engine that serves it. -/
def Dev.optMove (d : Dev) (g : Engines) (r : Reg) (s n : Nat) : Dev := d.addW r (g.at_ s) n

/-- The arrays of an OPTIM, in the order in which they are read: V_VA only for ADAMW. -/
def LathOp.optArrays (o : LathOp) : List Nat := [o.par 224 8, o.par 232 8] ++ (if o.adam then [o.par 240 8] else []) ++ [o.par 248 8]

/-- Elements of segment `s`. -/
def LathOp.segN (o : LathOp) (s : Nat) : Nat := min segLen (o.par 216 8 - segLen * s)

/-- Segment `s` of OPTIM: read, updated and written. -/
def Dev.optSeg (c : Cmd) (i : Nat) (o : LathOp) (dropped : Bool) (s : Nat) (x : LathItems Unit) : LathItems Unit :=
  let fl := c.flush
  let n := o.segN s
  let g := o.engines c i
  let core := (o.cores c i).at_ s
  let at_ (b : Nat) : Nat := o.par b 8 + 4 * segLen * s
  let read (b : Nat) : Except MemErr (List Nat) := x.d.vaF32 c.bay (at_ b) n
  let fail (d : Dev) (e : MemErr) (va : Nat) : LathItems Unit :=
    { x with d := if e = .uncorr then d.faultIn c va (4 * n) else d, bad := some e.status }
  match x.d.engStruck g [s] with
  | some e => { x with d := x.d.engParity e, bad := some stUncorr }
  | none =>
    match read 224, read 232, (if o.adam then read 240 else .ok (List.replicate n 0)), read 248 with
    | .error e, _, _, _ => fail x.d e (at_ 224)
    | _, .error e, _, _ => fail x.d e (at_ 232)
    | _, _, .error e, _ => fail x.d e (at_ 240)
    | _, _, _, .error e => fail x.d e (at_ 248)
    | .ok ws, .ok ms, .ok vs, .ok gs =>
      let (outs, flushed) := optRun fl o (ws.zip (ms.zip (vs.zip gs)))
      let nans := ((upFrom (segLen * s) n).zip outs).filterMap fun e => if e.2.nan then some (2, e.1 % 2 ^ 32) else none
      let d1 := x.d.optMove g .pfstatEngBytesRd s (4 * n * o.optArrays.length)
      let d2 := d1.report c (unitLath core) i { nans := nans, flushed := flushed }
      let arrays := [(at_ 224, outs.map (·.w)), (at_ 232, outs.map (·.m))] ++ (if o.adam then [(at_ 240, outs.map (·.v))] else [])
      match writeArrays c.bay d2 arrays with
      | (d3, some (e, va)) => fail d3 e va
      | (d3, none) =>
        let (w2, dw2) := optSums (outs.map OptOut.pair)
        let con : List Contrib := match o.fx with
          | some f => if f.stats && !dropped then
              [{ tensorId := f.tensorId, optim := true, step := o.step, sumW2 := encodeIeee .fp64 w2, sumDw2 := encodeIeee .fp64 dw2, params := n
                 nonfinite := outs.any fun x => !x.ok || !isFinite .fp32 x.w0 }] else []
          | none => []
        let d4 := (d3.optMove g .pfstatEngBytesWr s (4 * n * (o.optArrays.length - 1))).report c (unitLath core) i { contribs := con }
        let d5 := d4.addW .lathOptParams (core / 48) (outs.filter (·.ok)).length
        let k : LathCore := smGet {} d5.lath core
        { x with d := { d5 with lath := smPut d5.lath core { k with acc0 := accOf w2, acc1 := accOf dw2 } } }

/-- The read of the gradients that GUARD makes first, segment by segment (R155). -/
def Dev.guardSeg (c : Cmd) (i : Nat) (o : LathOp) (s : Nat) (x : LathItems (List Nat)) : LathItems (List Nat) :=
  let n := o.segN s
  let g := o.engines c i
  let va := o.par 248 8 + 4 * segLen * s
  match x.d.engStruck g [s], x.d.vaF32 c.bay va n with
  | some e, _ => { x with d := x.d.engParity e, bad := some stUncorr }
  | none, .error e => { x with d := if e = .uncorr then x.d.faultIn c va (4 * n) else x.d, bad := some e.status }
  | none, .ok gs => { x with d := x.d.optMove g .pfstatEngBytesRd s (4 * n), left := x.left ++ gs }

/-- OPTIM of entry `i`. -/
def Dev.lathOptim (d : Dev) (q i : Nat) : Dev :=
  match d.lathReady q i 11 with
  | none => d
  | some (c, o) =>
    if d.passed c then d.missKernel q
    else
      let g := o.cores c i
      let segs := ceilDiv (o.par 216 8) segLen
      let (d0, bad, drop) := d.lathMeet c g segs false (o.fx.any (·.stats))
      let d1 := if drop then d0.addS .numstatDropped c.bay 1 else d0
      let y := if o.guard then lathItems (Dev.guardSeg c i o) segs 0 { d := d1.tick, left := [] } else { d := d1.tick, left := [] }
      match y.bad, ((upFrom 0 y.left.length).zip y.left).find? fun e => !isFinite .fp32 e.2 with
      | some s, _ => (y.d.lathRan g (min segs (y.done + 1)) []).lathFail c q i o 0 s
      | none, some (k, _) =>
        let flushed := y.left.any (fun v => (flushCode c.flush .fp32 v).2) || ((optPar c.flush o).run false).2
        let d2 := (y.d.report c (unitLath (g.at_ (k / segLen))) i { nans := [(2, k % 2 ^ 32)], flushed := flushed }).lathRan g segs []
        if bad then d2.lathFail c q i o 0 stUncorr else d2.lathEnd c q i o 0
      | none, none =>
        let x := lathItems (Dev.optSeg c i o drop) (y.d.lathReach bad segs) 0 { d := y.d, left := () }
        let d2 := x.d.lathRan g (min segs (x.done + 1)) []
        match x.bad, bad with
        | some s, _ => d2.lathFail c q i o 0 s
        | none, true => d2.lathFail c q i o 0 stUncorr
        | none, false => d2.lathEnd c q i o 0

/-! ## PROGRAM (R141, R142) -/

/-- Instance `j` of a PROGRAM: its core starts as R141 says and runs the image. What a program has written stays where it stops. -/
def Dev.programInst (c : Cmd) (i : Nat) (o : LathOp) (image : List Byte) (und : List (Nat × Nat)) (j : Nat) (x : LathItems (List (Nat × Nat))) :
    LathItems (List (Nat × Nat)) :=
  let core := (o.cores c i).at_ j
  let k : LathCore := smGet {} x.d.lath core
  let r := LathRun.run image (Config.programSteps image j)
    { core := startCore k image j (o.par 188 4) (o.par 192 4), d := x.d, bay := c.bay, cmd := c, inst := j, und := und }
  { x with d := ({ r.d with lath := smPut r.d.lath core r.core }).report c (unitLath core) i r.rep, bad := r.stop, left := x.left ++ r.wrote }

/-- PROGRAM of entry `i`. -/
def Dev.lathProgram (d : Dev) (q i : Nat) : Dev :=
  match d.lathReady q i 1 with
  | none => d
  | some (c, o) =>
    if d.passed c then d.missKernel q
    else
      let base := o.par 184 4
      let und := d.undrained
      let v := d.blur und
      match d.loftErr base 64 with
      | some w => (d.recordLoft c w).failEntry q i stUncorr
      | none =>
        let head := ofLe (v.loftRead base 64)
        let level := bytesAt head 0 4
        let bytes := bytesAt head 4 4
        let mine := d.fd .reedlineLevel 0 0 16
        if (level ≠ mine && level + 1 ≠ mine) || bytes > 65536 then d.failEntry q i stBadParam
        else if !d.loftGranted c.bay base bytes then d.failEntry q i stNoPerm
        else match d.loftErr base bytes with
          | some w => (d.recordLoft c w).failEntry q i stUncorr
          | none =>
            let g := o.cores c i
            let n := o.par 188 4
            let (d0, bad, _) := (d.loftScan c.bay [(base, max 64 bytes)]).lathMeet c g n true false
            let x := lathItems (Dev.programInst c i o (v.loftRead base bytes) und) (d0.lathReach bad n) 0 { d := d0.tick, left := [] }
            let d1 := x.d.lathRan g (min n (x.done + 1)) x.left
            match x.bad, bad with
            | some s, _ => d1.failEntry q i s
            | none, true => d1.failEntry q i stUncorr
            | none, false => d1.lathEnd c q i o 0

end Sys2Proof.Machine
end

