-- ==== Sys2Proof/Machine/Eave.lean ====
section
/-!
DEFINITION. Machine/Eave.lean: the front end of an Eave unit (07 R192 to R202, R222, R223): the window, the slots, the
overflow lists, the choice of a bank's next action, the accesses, hot banks, refresh and patrol scrub. Requests come from
the agents of the module; the module's own commands act on memory in one step of their own.
Where the spec is silent or is read by inference: DESIGN CHOICE logs 5, 25, 73; DEDUCED logs 24, 55 (notes/assumptions).
-/
namespace Sys2Proof.Machine

/-- The row of a granule (Table 7-1). -/
def rowOf (g : Nat) : Nat := fld g 16 14

/-- An Eave unit's front end. -/
def Dev.eunit (d : Dev) (k : Nat) : EaveUnit := smGet {} d.eave k

/-- Change an Eave unit's front end; SLOTS_USED and OVF_USED follow it. -/
def Dev.setEunit (d : Dev) (k : Nat) (u : EaveUnit) : Dev :=
  { d with eave := smSet {} d.eave k u }.wr .eaveSts k (mkFields [(0, 13, u.slots.length), (13, 14, u.ovf.length)])

/-- Slots of a bank in use. -/
def EaveUnit.bankSlots (u : EaveUnit) (b : Nat) : Nat := (u.slots.filter fun r => bankOf r.granule == b).length

/-- A bank's overflow list. -/
def EaveUnit.ovfOf (u : EaveUnit) (b : Nat) : List EReq := u.ovf.filter fun r => bankOf r.granule == b

/-- Follow a bank's overflow list: since when it is above THRESH, and hot only while it is not empty (R201). -/
def EaveUnit.watch (u : EaveUnit) (b thresh now : Nat) : EaveUnit :=
  let n := (u.ovfOf b).length
  let u1 := if n > thresh then (if (smFind u.overSince b).isSome then u else { u with overSince := smPut u.overSince b now })
    else { u with overSince := smDel u.overSince b }
  if n = 0 then { u1 with hot := smDel u1.hot b } else u1

/-- Entries of the ingress queue enter the window while it has room for 512 (R194). -/
def EaveUnit.refill (u : EaveUnit) (now : Nat) : EaveUnit :=
  let n := min (512 - u.window.length) u.ingress.length
  { u with window := u.window ++ (u.ingress.take n).map (fun r => { r with entered := now }), ingress := u.ingress.drop n }

/-- A request arrives at unit `k` (R193, R194). -/
def Dev.eaveArrive (d : Dev) (k : Nat) (r : EReq) : Dev :=
  if k ≥ 32 || r.granule ≥ 2 ^ 30 || !(d.ready || d.early) then d
  else
    let u := d.eunit k
    let r1 := { r with id := u.nextId, arrived := d.now }
    d.setEunit k ({ u with nextId := u.nextId + 1, ingress := u.ingress ++ [r1] }.refill d.now)

/-- A request as it goes over the Batten network: its kind, granule, mask, data, tag and bay. -/
def EReq.words (r : EReq) : List Nat := [r.kind, r.granule, r.mask, r.data, r.tags.headD 0, match r.bay with | some b => b + 1 | none => 0]

/-- The request that a message for a stack's PHY carries. -/
def BMsg.request? (m : BMsg) : Option (Nat × EReq) :=
  match (upFrom 0 32).find? (fun k => phyNi k == m.dst), m.cls, m.words with
  | some k, .request, [kind, g, mask, data, tag, bay] =>
    some (k, { id := 0, kind := kind, granule := g, mask := mask, data := data, tags := [tag], bay := if bay = 0 then none else some (bay - 1)
               srcs := [some m.src], arrived := 0 })
  | _, _, _ => none

/-- A request for stack `k`: from an NI it goes over the Batten network to the stack's PHY on its host die (R193; 01 R12), else it arrives at
the unit. -/
def Dev.eaveRequest (d : Dev) (k : Nat) (src : Option Nat) (r : EReq) : Dev :=
  if k ≥ 32 || r.granule ≥ 2 ^ 30 || !(d.ready || d.early) then d
  else match src with
    | none => d.eaveArrive k { r with srcs := [none] }
    | some n => if niOk n then d.battenSend n (phyNi k) .request r.words else d

/-- The requests that the Batten network delivered in this beat arrive at their units. -/
def Dev.eaveTake (d : Dev) : Dev :=
  d.delivered.reverse.foldl (fun d m => match m.request? with | some (k, r) => d.eaveArrive k r | none => d) d

/-- EAVE_READ: a READ of granule `g` of stack `k`. -/
def Dev.eaveReadReq (d : Dev) (k g : Nat) (src : Requester) (bay : Option Nat) (own : Bool) : Dev :=
  d.eaveRequest k src.ni { id := 0, kind := 0, granule := g, tags := [src.tag], bay := bay, own := own, arrived := 0 }

/-- EAVE_WRITE: a WRITE of the bytes that a 64-bit mask selects. -/
def Dev.eaveWriteReq (d : Dev) (k g mask data : Nat) (src : Requester) (bay : Option Nat) (own : Bool) : Dev :=
  d.eaveRequest k src.ni { id := 0, kind := 1, granule := g, mask := mask % 2 ^ 64, data := data % 2 ^ 512, tags := [src.tag], bay := bay
                           own := own, arrived := 0 }

/-- EAVE_ADD32: sixteen FP32 addends under a 16-bit word mask. -/
def Dev.eaveAddReq (d : Dev) (k g mask data : Nat) (src : Requester) (bay : Option Nat) (own : Bool) : Dev :=
  d.eaveRequest k src.ni { id := 0, kind := 2, granule := g, mask := mask % 2 ^ 16, data := data % 2 ^ 512, tags := [src.tag], bay := bay
                           own := own, arrived := 0 }

/-- Requests at a unit, wherever they wait. -/
def EaveUnit.all (u : EaveUnit) : List EReq := u.ingress ++ u.window ++ u.slots ++ u.ovf

/-- The READ that a READ leaving the window merges with (R195): the earliest one. -/
def EaveUnit.mergeTarget (u : EaveUnit) (r : EReq) : Option EReq :=
  if r.kind ≠ 0 then none
  else (u.window ++ u.slots).find? fun x => x.kind == 0 && x.granule == r.granule && decide (x.id < r.id) && !x.issued
    && !(u.all.any fun y => y.granule == r.granule && y.kind != 0 && decide (x.id < y.id) && decide (y.id < r.id))

/-- Where a request leaving the window goes (R196): `none` for back in the window, else a slot or the overflow list. While its bank's
overflow list holds requests, it goes to the tail: their head takes the next slot before it. -/
def EaveUnit.place? (u : EaveUnit) (cap : Nat) (r : EReq) : Option Bool :=
  if u.bankSlots (bankOf r.granule) ≥ cap || !(u.ovfOf (bankOf r.granule)).isEmpty then (if u.ovf.length < 8192 then some false else none)
  else if u.slots.length ≥ 4096 then none
  else if r.own && decide ((u.slots.filter (·.own)).length ≥ 2048) then none
  else some true

/-- One request leaves the window. -/
def Dev.eaveLeave (d : Dev) (k : Nat) (r : EReq) : Dev :=
  let u := d.eunit k
  let u0 := { u with window := u.window.filter fun x => x.id != r.id }
  match u.mergeTarget r with
  | some t =>
    let add (x : EReq) : EReq := if x.id = t.id then { x with tags := x.tags ++ r.tags, srcs := x.srcs ++ r.srcs } else x
    (d.setEunit k { u0 with window := u0.window.map add, slots := u0.slots.map add }).addW .eaveMerged k 1
  | none =>
    match u.place? (d.fd .eaveCfg k 0 9) r with
    | some true => d.setEunit k { u0 with slots := u0.slots ++ [{ r with back := false }] }
    | some false =>
      (d.setEunit k ({ u0 with ovf := u0.ovf ++ [{ r with back := false }] }.watch (bankOf r.granule) (d.fd .eaveHotThresh k 0 14) d.now)).addW
        .eaveOvfEntries k 1
    | none => d.setEunit k { u with window := u.window.map fun x => if x.id = r.id then { x with back := true } else x }

/-- EAVE_WINDOW_LEAVE: the first request that has been held long enough, or is the oldest of a full window, or waits to be
placed again and can be, leaves with every other one of its bank and row, in arrival order (R194). -/
def Dev.eaveWindowLeave (d : Dev) (k : Nat) : Dev :=
  let u := d.eunit k
  let hold := d.fd .eaveWinCfg k 0 10
  let oldest := (u.window.find? fun r => !r.back).map (·.id)
  let due (r : EReq) : Bool :=
    if r.back then (u.place? (d.fd .eaveCfg k 0 9) r).isSome
    else decide (r.entered + hold ≤ d.now) || (decide (u.window.length ≥ 512) && oldest == some r.id)
  match u.window.find? due with
  | none => d
  | some r =>
    let mates := u.window.filter fun x => bankOf x.granule == bankOf r.granule && rowOf x.granule == rowOf r.granule
    let d1 := mates.foldl (fun d x => d.eaveLeave k x) d
    d1.setEunit k ((d1.eunit k).refill d.now)

/-- Is a request eligible (R198)? -/
def EaveUnit.eligible (u : EaveUnit) (r : EReq) : Bool :=
  !(u.all.any fun x => decide (x.id < r.id) && x.granule == r.granule && (x.kind != 0 || r.kind != 0))

/-- Slot requests of a bank that may be issued, oldest first. -/
def EaveUnit.ready (u : EaveUnit) (b : Nat) : List EReq :=
  let rs := u.slots.filter fun r => bankOf r.granule == b && !r.issued && u.eligible r
  rs.foldl (fun acc r => (acc.filter fun x => decide (x.id < r.id)) ++ [r] ++ (acc.filter fun x => !decide (x.id < r.id))) []

/-- The row of a bank that is still open (R199). -/
def EaveUnit.openRow (u : EaveUnit) (b age now : Nat) : Option Nat :=
  match smFind u.rows b with
  | none => none
  | some row =>
    let rs := u.slots.filter fun r => bankOf r.granule == b && !r.issued
    if (u.ready b).any (fun r => rowOf r.granule == row) && !(rs.any fun r => decide (r.arrived + age ≤ now)) then some row else none

/-- EAVE_BANK_ISSUE: bank `b` of stack `k` takes its next action by Table 7-2. The stack takes none in self-refresh. -/
def Dev.eaveBankIssue (d : Dev) (k b : Nat) : Dev :=
  let u := d.eunit k
  let age := d.fd .eaveAgeNs k 0 16
  if d.sarking || d.refreshing || (u.slots.any fun r => bankOf r.granule == b && r.issued) then d
  else if (smFind u.refresh b).isSome then d.setEunit k { u with refresh := smDel u.refresh b, rows := smDel u.rows b }
  else
    let rs := u.ready b
    let row := u.openRow b age d.now
    let pick := match rs.find? (fun r : EReq => decide (r.arrived + age ≤ d.now)) with
      | some r => some r
      | none => match rs.find? (fun r : EReq => row == some (rowOf r.granule)) with
        | some r => some r
        | none => rs.head?
    match pick with
    | none => d.setEunit k { u with rows := smDel u.rows b }
    | some r =>
      let hit := row == some (rowOf r.granule)
      let d1 := (d.addW (if r.kind = 0 then .eaveReads else .eaveWrites) k 1).addW (if hit then .eaveRowHits else .eaveRowMisses) k 1
      d1.setEunit k { u with rows := smPut u.rows b (rowOf r.granule)
                             slots := u.slots.map fun x => if x.id = r.id then { x with issued := true } else x }

/-- May an overflow entry take a slot: is it the head of its bank's list, and do the limits of R196 leave it one? -/
def EaveUnit.mayTake (u : EaveUnit) (cap : Nat) (r : EReq) : Bool :=
  ((u.ovfOf (bankOf r.granule)).head?.map (·.id)) == some r.id && decide (u.bankSlots (bankOf r.granule) < cap) && decide (u.slots.length < 4096)
    && !(r.own && decide ((u.slots.filter (·.own)).length ≥ 2048))

/-- The overflow heads take slots while they may, in arrival order (R196, R197, R200). -/
def EaveUnit.promote (u : EaveUnit) (cap : Nat) : EaveUnit :=
  u.ovf.foldl (fun u r => if u.mayTake cap r then { u with slots := u.slots ++ [r], ovf := u.ovf.filter fun x => x.id != r.id } else u) u

/-- Follow the overflow lists of all banks that had one. -/
def EaveUnit.watchAll (u : EaveUnit) (before : List EReq) (thresh now : Nat) : EaveUnit :=
  before.foldl (fun u r => u.watch (bankOf r.granule) thresh now) u

/-- The bit of EAVE_ERR of an error (Table 7-10); none where it is corrected. -/
def EaveUpset.bit : EaveUpset → Option Nat
  | .sramSingle | .slotSingle => none | .sramDouble => some 1 | .slotDouble => some 2 | .dot => some 3 | .adder => some 4

/-- An error of unit `k` is met: a corrected one is counted, any other sets its bit and is recorded (R224). -/
def Dev.eaveUpset (d : Dev) (c : Option Cmd) (k : Nat) (u : EaveUpset) : Dev :=
  match u.bit with
  | none => (d.addS .eaveSramCorr k 1).addS .errlogCorr 0 1
  | some b => (d.sb .eaveErr k b true).record
      { kind := 0x0003, bay := c.map (·.bay), unit := unitId (0x20 + k) 7 0, tag := (c.map (·.tag)).getD 0, queue := (c.map (·.sq)).getD 0
        opcode := (c.map (·.opcode)).getD 0, status := stUncorr, detail0 := 2 ^ b }

/-- The errors that the access of a request meets: of a slot, and under ADD32 of the adders. Is one uncorrectable? -/
def Dev.requestUpsets (d : Dev) (k kind : Nat) : Dev × Bool :=
  let u := d.eunit k
  let met (e : EaveUpset) : Bool := e == .slotSingle || e == .slotDouble || (e == .adder && kind == 2)
  let us := u.upsets.filter met
  if us.isEmpty then (d, false)
  else (us.foldl (fun d e => d.eaveUpset none k e) (d.setEunit k { u with upsets := u.upsets.filter fun e => !met e }), us.any fun e => e.bit.isSome)

/-- The object that holds a device-physical address, with the offset (14 R405). -/
def Dev.objAt (d : Dev) (a : Nat) : Option (Obj × Nat) :=
  d.objs.findSome? fun o => o.locs.findSome? fun l =>
    if l.tier ≠ 1 then none
    else ((upFrom 0 l.frames.length).zip l.frames).findSome? fun f =>
      if f.2 ≤ a ∧ a < f.2 + o.pageSize then some (o, f.1 * o.pageSize + (a - f.2)) else none

/-- The sixteen additions of an ADD32 (R193). -/
def addWords (old new mask : Nat) : Nat :=
  mkFields ((upFrom 0 16).map fun i =>
    (32 * i, 32, if bitAt mask i then f32Add (bytesAt old (4 * i) 4) (bytesAt new (4 * i) 4) else bytesAt old (4 * i) 4))

/-- The granule after a WRITE under a byte mask. -/
def maskBytes (old new mask : Nat) : Nat :=
  mkFields ((upFrom 0 64).map fun i => (8 * i, 8, if bitAt mask i then bytesAt new i 1 else bytesAt old i 1))

/-- An uncorrectable error met by an access of stack `k` (R222): the flag, the record, the object's state. -/
def Dev.eaveUncorr (d : Dev) (k : Nat) (r : EReq) : Dev :=
  let a := k * 2 ^ 36 + 64 * r.granule
  let d1 := (d.sb .eaveErr k 0 true).record
    { kind := 0x0001, bay := r.bay, unit := unitId (0x20 + k) 7 (r.granule % 32), addr := a, status := stUncorr, detail0 := bankOf r.granule }
  match d1.objAt a with
  | none => d1
  | some (o, off) => d1.modObj o.bay o.id fun x =>
      { x with fault := true, faults := addSat 32 x.faults 1, faultOff := match x.faultOff with | none => some off | f => f }

/-- The answers go to the requesters, merged ones included: over the Batten network to those that sent their request by it. -/
def Dev.eaveAnswer (d : Dev) (k : Nat) (r : EReq) (status data : Nat) : Dev :=
  (r.tags.zip r.srcs).foldl (fun d e => match e.2 with
    | some n => d.battenSend (phyNi k) n .response [status, data, e.1]
    | none => d) { d with reply := [status, data] ++ r.tags }

/-- The access of a request: its data after it, and what it does to memory and to its unit's records (R193, R222, R224). -/
def Dev.eaveAccess (d0 : Dev) (k : Nat) (r : EReq) (corr : Bool) : Dev :=
  let (d, struck) := d0.requestUpsets k r.kind
  let a := k * 2 ^ 36 + 64 * r.granule
  let g := a / 64
  let old := ofLe (readBytes d.hbm a 64)
  let full := r.kind == 1 && r.mask == 2 ^ 64 - 1
  if struck then d.eaveAnswer k r stUncorr 0
  else if (smFind d.hbmBad g).isSome && !full then (d.eaveUncorr k r).eaveAnswer k r stUncorr 0
  else
    let new := if r.kind = 1 then maskBytes old r.data r.mask else if r.kind = 2 then addWords old r.data r.mask else old
    let d1 := if r.kind = 0 then d else { d with hbm := writeBytes d.hbm a (toLe 64 new), hbmBad := smDel d.hbmBad g }
    let d2 := if corr && r.kind != 1 then
        (d1.addS .eaveHbmCorr k 1).corrected
          { kind := 0x0002, bay := r.bay, unit := unitId (0x20 + k) 7 (r.granule % 32), addr := a, detail0 := bankOf r.granule }
      else d1
    d2.eaveAnswer k r stOk new

/-- EAVE_ACCESS_DONE: the access that bank `b` of stack `k` has issued finishes; `corr`: its read met a correctable error.
The answer is the status, the granule and the requesters' tags. A slot is free again, and the overflow heads that may take one do. -/
def Dev.eaveAccessDone (d : Dev) (k b : Nat) (corr : Bool) : Dev :=
  match (d.eunit k).slots.find? (fun r : EReq => bankOf r.granule == b && r.issued) with
  | none => d
  | some r =>
    let d1 := d.eaveAccess k r corr
    let u := d1.eunit k
    let u1 := { u with slots := u.slots.filter fun x => x.id != r.id }.promote (d.fd .eaveCfg k 0 9)
    let u2 := u1.watchAll u.ovf (d.fd .eaveHotThresh k 0 14) d.now
    let u3 := match u2.openRow b (d.fd .eaveAgeNs k 0 16) d.now with
      | some _ => u2
      | none => { u2 with rows := smDel u2.rows b }
    d1.setEunit k (u3.refill d.now)

/-- HOT_BANK: bank `b` of stack `k` has been above THRESH for 10 µs (R201). -/
def Dev.hotBankEvent (d : Dev) (k b : Nat) : Dev :=
  let u := d.eunit k
  match smFind u.overSince b with
  | none => d
  | some since =>
    if (smFind u.hot b).isSome || decide (d.now < since + 10000) || (u.ovfOf b).length ≤ d.fd .eaveHotThresh k 0 14 then d
    else
      let n := (u.ovfOf b).length
      let d1 := (((d.setEunit k { u with hot := smPut u.hot b () }).addS .eaveHotCount k 1).wr .eaveHotLast k b).wr .eaveHotTime k d.now
      if !d.rbit .eaveHotEven 0 0 then d1
      else
        let bays := (upFrom 0 16).filter fun x => x == 0 || (u.ovfOf b).any fun r => r.bay == some x
        bays.foldl (fun d x => d.event x 0x0010 (mkFields [(0, 12, b), (12, 5, k)]) n) d1

/-- REFRESH_DUE: a refresh of bank `b` of stack `k` falls due (R221). -/
def Dev.refreshDueEvent (d : Dev) (k b : Nat) : Dev :=
  if k ≥ 32 || b ≥ 4096 then d
  else let u := d.eunit k; d.setEunit k { u with refresh := smPut u.refresh b () }

/-- SCRUB_TIMER: patrol scrub of stack `k` sends its next READ (R223). -/
def Dev.scrubTimerEvent (d : Dev) (k : Nat) : Dev :=
  let u := d.eunit k
  if d.fd .eaveScrubCfg k 0 8 = 0 || (u.all.any (·.scrub)) || k ≥ 32 || !(d.ready || d.early) then d
  else
    let d1 := d.eaveArrive k { id := 0, kind := 0, granule := u.scrubAt, scrub := true, arrived := 0 }
    d1.setEunit k { d1.eunit k with scrubAt := (u.scrubAt + 1) % 2 ^ 30 }

/-- A new THRESH acts on every bank's overflow list from now (R201, R225). -/
def Dev.eaveRethresh (d : Dev) (k : Nat) : Dev :=
  let u := d.eunit k
  d.setEunit k ((u.ovf.map fun r => bankOf r.granule).foldl (fun u b => u.watch b (d.fd .eaveHotThresh k 0 14) d.now) u)

end Sys2Proof.Machine
end

