-- ==== Sys2Proof/Machine/EaveOps.lean ====
section
/-!
DEFINITION. Machine/EaveOps.lean: Eave operations (07 R205 to R220): GATHER, SCATTER_ADD, GEMV and ATTEND, as entries of a
KERNEL and, for the first two, as commands. An operation's whole work is one step.
Where the spec is silent or is read by inference: DESIGN CHOICE logs 16, 23, 25, 73; DEDUCED logs 22, 49 (notes/assumptions).
-/
namespace Sys2Proof.Machine

/-- An Eave operation descriptor (Table 7-4). -/
structure EaveOp where
  kind : Nat
  gate : Bool
  loft : Bool
  weighted : Bool
  sum : Bool
  sr : Nat
  step : Nat
  waitLoft : Nat
  waitCount : Nat
  done : Nat
  src : Nat
  idx : Nat
  dst : Nat
  w : Nat
  aux : Nat
  f0 : Option FmtDesc
  f1 : Option FmtDesc
  f2 : Option FmtDesc
  count : Nat
  rows : Nat
  bags : Nat
  scale : Nat
  dim : Nat
  group : Nat
  raw : Nat
  deriving DecidableEq, Repr

/-- Read a descriptor and make the issue checks of Table 7-6 but for the Loft grant. -/
def parseEave (n : Nat) : Option EaveOp :=
  let kind := fld n 0 4
  let att := kind == 4
  let gat := kind == 1
  let sct := kind == 2
  let gem := kind == 3
  let f0 := if att then none else parseFmt true (bytesAt n 64 40)
  let f1 := if gem then parseFmt true (bytesAt n 104 40) else none
  let f2 := if att then none else parseFmt false (bytesAt n 144 40)
  let o : EaveOp :=
    { kind := kind, gate := bitAt n 4, loft := bitAt n 5, weighted := bitAt n 8, sum := bitAt n 9, sr := fld n 10 2
      step := bytesAt n 4 4, waitLoft := bytesAt n 8 4, waitCount := bytesAt n 12 4, done := bytesAt n 16 4
      src := bytesAt n 24 8, idx := bytesAt n 32 8, dst := bytesAt n 40 8, w := bytesAt n 48 8, aux := bytesAt n 56 8
      f0 := f0, f1 := f1, f2 := f2, count := bytesAt n 184 4, rows := bytesAt n 188 4, bags := bytesAt n 192 4
      scale := bytesAt n 196 4, dim := 64 * 2 ^ fld n 1600 2, group := fld n 1608 5, raw := n }
  let bagged := gat && o.sum
  let used : List (Nat × Nat) :=
    [(0, 6), (32, 32), (64, 32), (96, 32), (128, 32), (192, 64), (256, 64), (320, 64), (1472, 32)]
    ++ (if gat then [(9, 1)] else []) ++ (if sct || bagged then [(8, 1)] else []) ++ (if gem then [(10, 2), (832, 320)] else [])
    ++ (if o.weighted then [(384, 64)] else []) ++ (if bagged then [(448, 64), (1536, 32)] else [])
    ++ (if att then [(1568, 32), (1600, 2), (1608, 5)] else [(512, 320), (1152, 320), (1504, 32)])
  let va (x : Nat) : Bool := decide (x < 2 ^ 48)
  let common := onlyFields n 2048 used && inRange 1 4 kind && va o.src && va o.idx && va o.w && va o.aux
    && addrOk (if o.loft then .loft else .va) o.dst && (!o.loft || f2.all loftFmt)
  let fits : Bool := match f0, f2 with
    | some a, some b =>
      if gat then
        inRange 1 16777216 o.count && inRange 1 (2 ^ 32 - 2) o.rows
        && (if o.sum then inRange 1 o.count o.bags && !a.coarseSrc && b.rowLen == a.rowLen
            else a.elem == b.elem && a.mode == b.mode && a.block == b.block && a.rowLen == b.rowLen)
      else if sct then
        inRange 1 16777216 o.count && inRange 1 (2 ^ 32 - 2) o.rows && !o.loft && !a.coarseSrc
        && b.elem == .fp32 && b.mode == .none && !b.coarseSrc && b.coarse == 0x3F800000 && b.rowLen == a.rowLen
      else match f1 with
        | some x => inRange 1 16777216 o.count && inRange 1 8 o.rows && !a.elem.wide && !x.elem.wide && !a.coarseSrc && !x.coarseSrc
            && a.rowLen == x.rowLen && b.rowLen == o.count && decide (o.rows * a.rowLen ≤ 2097152)
        | none => false
    | _, _ => att && inRange 1 65536 o.count && posFinite o.scale && decide (fld n 1600 2 ≤ 2) && inRange 1 16 o.group
  if common && fits then some o else none

/-- Output rows of a formatted destination. -/
def EaveOp.outRows (o : EaveOp) : Nat := if o.kind = 3 then o.rows else if o.sum then o.bags else o.count

/-- The Loft ranges a descriptor fixes (R207). -/
def EaveOp.loftRanges (o : EaveOp) : List (Nat × Nat) :=
  (([o.waitLoft, o.done].filter (· != 0xFFFFFFFF)).map fun a => (a, 4))
  ++ (match o.loft, o.f2 with
    | true, some f => [(o.dst, elemBytes f.elem (o.outRows * f.rowLen)), (f.scaleVa, f.scaleBytes o.outRows)]
        ++ (if o.kind = 1 && !o.sum then [] else [(f.coarseVa, f.sliceBytes o.outRows)])
    | _, _ => [])

/-- The issue check of an Eave operation (R207). -/
def Dev.eaveIssue (d : Dev) (b desc : Nat) : Option Nat :=
  match parseEave desc with
  | none => some stBadParam
  | some o => if d.grants b o.loftRanges then none else some stNoPerm

/-! ## Reaching memory (R206) -/

/-- The status with which a range of bay memory fails an Eave operation: every page mapped and in T1. -/
def Dev.t1Bad (d : Dev) (b va n : Nat) (write : Bool) : Option Nat := (t1Reach d b write (d.pieces b va n)).2.map (·.status)

/-- Read a range under R206. -/
def Dev.t1Read (d : Dev) (b va n : Nat) : Except Nat (List Byte) :=
  match d.t1Bad b va n false with
  | some s => .error s
  | none => match d.readVa b va n with
    | .ok bs => .ok bs
    | .error e => .error e.status

/-- The device-physical granules of a range of bay memory that lie in T1. -/
def Dev.granulesOf (d : Dev) (b : Nat) (r : Nat × Nat) : List Nat :=
  (d.pieces b r.1 r.2).flatMap fun p? => match p? with
    | none => []
    | some p => match d.obj? p.objBay p.objId with
      | none => []
      | some o => match o.phys p.off with
        | some a => upFrom (a / 64) ((a + p.len - 1) / 64 - a / 64 + 1)
        | none => []

/-- Bytes of a range that lie on other stacks than `k` (R208). -/
def Dev.remoteBytes (d : Dev) (b va n k : Nat) : Nat :=
  sumN ((d.pieces b va n).map fun p? => match p? with
    | some p => (match d.obj? p.objBay p.objId with
      | some o => (match o.phys p.off with | some a => if a / 2 ^ 36 = k then 0 else p.len | none => 0)
      | none => 0)
    | none => 0)

/-- A row of a source tensor: bytes of its elements and of its scales. -/
def rowRanges (f : FmtDesc) (a r : Nat) : List (Nat × Nat) :=
  [(a + r * f.rowBytes, f.rowBytes), (f.scaleVa + r * f.blocksPerRow, f.scaleBytes 1)]

/-- Load a row of a source tensor under R206, as FP32. -/
def Dev.eaveRow (d : Dev) (c : Cmd) (f : FmtDesc) (a r : Nat) : Except Nat (List Nat × Report) :=
  match (rowRanges f a r).findSome? (fun x : Nat × Nat => d.t1Bad c.bay x.1 x.2 false) with
  | some s => .error s
  | none => match d.loadCols c .va f a 0 r (f.rowLen + 1) 0 f.rowLen with
    | .error e => .error e.status
    | .ok x => .ok x

/-! ## The work of an operation -/

/-- What an operation has done so far: its report, its NaNs with the units that met them, its finished DONE units, the status that stopped it
with the bytes of the destination's elements and of its fine scales before the first that is unspecified after it (R173), and the granules
its reads have named. -/
structure EaveOut where
  d : Dev
  rep : Report := {}
  nans : List (Nat × Nat × Nat) := []
  done : Nat := 0
  bad : Option Nat := none
  cut : Nat := 0
  cutS : Nat := 0
  seen : List Nat := []

/-- The unit identifier of engine `e` of stack `k` (Table 1-7). -/
def unitEave (k e : Nat) : Nat := unitId (0x20 + k) 6 e

/-- Add a report of the engine `e` of stack `k`. -/
def EaveOut.add (x : EaveOut) (k e : Nat) (r : Report) : EaveOut :=
  { x with rep := x.rep.join { r with nans := [] }, nans := x.nans ++ r.nans.map fun n => (unitEave k e, n) }

/-- Stop with a status, after recording the first uncorrectable error of the ranges given. -/
def EaveOut.stop (x : EaveOut) (c : Cmd) (s : Nat) (rs : List (Nat × Nat)) : EaveOut :=
  { x with bad := some s, d := if s = stUncorr then x.d.faultFirst c (rs.map fun r => ⟨.va, r.1, r.2⟩) else x.d }

/-- An access of the stack that holds granule `g`, counted: whether it hits an open row the traffic of the stack decides. -/
def Dev.stackAccess (d : Dev) (g : Nat) (r : Reg) : Dev :=
  let k := g / 2 ^ 30
  ((d.addW r k 1).addW (if Config.freeNat d.free % 2 = 0 then .eaveRowHits else .eaveRowMisses) k 1).tick

/-- The READs of these ranges, served by the stacks: one of a granule that the operation has named before may merge with it (R195, R203). -/
def EaveOut.fetch (x : EaveOut) (b : Nat) (rs : List (Nat × Nat)) : EaveOut :=
  (rs.flatMap (x.d.granulesOf b)).foldl (fun (x : EaveOut) g =>
    let merge := x.seen.contains g && Config.freeNat x.d.free % 2 == 1
    { x with d := if merge then (x.d.addW .eaveMerged (g / 2 ^ 30) 1).tick else x.d.stackAccess g .eaveReads, seen := g :: x.seen }) x

/-- The WRITE or ADD32 accesses of these ranges. -/
def Dev.eaveWrote (d : Dev) (b : Nat) (rs : List (Nat × Nat)) : Dev :=
  (rs.flatMap (d.granulesOf b)).foldl (fun d g => d.stackAccess g .eaveWrites) d

/-- Read ranges for work of unit `k`: the accesses, and the bytes that come from other stacks (R208). -/
def EaveOut.reads (x : EaveOut) (b k : Nat) (rs : List (Nat × Nat)) : EaveOut :=
  let y := x.fetch b rs
  { y with d := y.d.addW .eaveRemoteBytes k (sumN (rs.map fun r => y.d.remoteBytes b r.1 r.2 k)) }

/-- The dot array of unit `k` works for cycles that the spec bounds and does not state (R214, R225). -/
def EaveOut.dot (x : EaveOut) (k : Nat) : EaveOut := { x with d := (x.d.addW .eaveDotCyc k (Config.freeNat x.d.free)).tick }

/-- Does work of a kind meet an error of its unit: one of the SRAM or of a slot always, of the dot array in GEMV and ATTEND, of the adders in
the sums (R224)? -/
def EaveUpset.met (kind : Nat) : EaveUpset → Bool
  | .dot => kind == 3 || kind == 4 | .adder => kind == 1 || kind == 2 | _ => true

/-- Work of a kind runs on unit `k`: the errors that have struck the unit are met (R224). -/
def EaveOut.work (x : EaveOut) (c : Cmd) (k kind : Nat) : EaveOut :=
  let u := x.d.eunit k
  let us := u.upsets.filter (·.met kind)
  if us.isEmpty then x
  else
    let d1 := us.foldl (fun d e => d.eaveUpset (some c) k e) (x.d.setEunit k { u with upsets := u.upsets.filter fun e => !e.met kind })
    { x with d := d1, bad := if us.any (fun e => e.bit.isSome) then some stUncorr else x.bad }

/-- Store bytes of the destination at `a`; `cut`: the bytes of the elements before it, or with `scale` of the fine scales. -/
def EaveOut.put (x : EaveOut) (c : Cmd) (o : EaveOp) (scale : Bool) (a cut : Nat) (bs : List Byte) : EaveOut :=
  if x.bad.isSome || bs.isEmpty then x
  else
    let sp : Space := if o.loft then .loft else .va
    match (x.d.putSp c.bay sp (!o.loft) a bs : Dev × Option MemErr) with
    | (d1, none) => { x with d := if o.loft then d1 else d1.eaveWrote c.bay [(a, bs.length)] }
    | (d1, some e) =>
      let n := if o.loft then x.d.reach c.bay sp a bs.length
        else min (t1Reach x.d c.bay true (x.d.pieces c.bay a bs.length)).1 (x.d.reach c.bay sp a bs.length)
      let y := { x with d := if e = MemErr.uncorr then d1.faultFirst c [⟨sp, a, bs.length⟩] else d1, bad := some e.status }
      if scale then { y with cutS := cut + n } else { y with cut := cut + n }

/-- Store a row of values through FMT2 (Table 2-6); stochastic rounding draws as given (R51, R105). -/
def EaveOut.storeRow (x : EaveOut) (c : Cmd) (o : EaveOp) (f2 : FmtDesc) (k e r : Nat) (draw : Nat → Nat) (vals : List Nat) : EaveOut :=
  if x.bad.isSome then x
  else
    let s := x.d.storeFmtRow c (if o.loft then .loft else .va) f2 o.dst r draw vals (t1 := !o.loft)
    let d1 := if o.loft then s.d else s.d.eaveWrote c.bay [(o.dst + r * f2.rowBytes, s.bytes), (f2.scaleVa + r * f2.blocksPerRow, if f2.writesFine then s.blocks else 0)]
    { ({ x with d := d1 }.add k e s.rep) with bad := s.bad.map (·.status), cut := r * f2.rowBytes + s.bytes, cutS := r * f2.blocksPerRow + s.blocks }

/-- After a failure the destination is unspecified from where it stopped on: elements, and the fine scales that the operation writes (R173,
R206). -/
def EaveOut.spill (x : EaveOut) (c : Cmd) (o : EaveOp) : EaveOut :=
  match x.bad, o.f2 with
  | some _, some f =>
    let sp : Space := if o.loft then .loft else .va
    let d1 := x.d.scramble c.bay sp (o.dst + x.cut) (elemBytes f.elem (o.outRows * f.rowLen) - x.cut)
    let fine := f.writesFine || (o.kind == 1 && !o.sum && f.mode != .none)
    { x with d := if fine then d1.scramble c.bay sp (f.scaleVa + x.cutS) (f.scaleBytes o.outRows - x.cutS) else d1 }
  | _, _ => x

/-! ## GATHER (R209, R210) -/

/-- One row of GATHER COPY. -/
def EaveOut.copyRow (x0 : EaveOut) (c : Cmd) (o : EaveOp) (f0 f2 : FmtDesc) (j ix : Nat) : EaveOut :=
  let rb := f0.rowBytes
  let nb := f0.scaleBytes 1
  let x := { x0 with cut := j * rb, cutS := j * nb }
  let fin (x : EaveOut) (bs ks : List Byte) : EaveOut :=
    let y := (x.put c o false (o.dst + j * rb) (j * rb) bs)
    let z := ({ y with cut := if y.bad.isSome then y.cut else (j + 1) * rb }).put c o true (f2.scaleVa + j * nb) (j * nb) ks
    if z.bad.isSome then z else { z with done := j + 1 }
  if x.bad.isSome then x
  else if ix = 0xFFFFFFFF then fin x (List.replicate rb 0) (List.replicate nb 0)
  else
    let rs := [(o.src + ix * rb, rb), (f0.scaleVa + ix * nb, nb)]
    let k := x.d.stackOf c.bay (o.src + ix * rb)
    let y := x.work c k 0
    if y.bad.isSome then y
    else match y.d.t1Read c.bay (o.src + ix * rb) rb, y.d.t1Read c.bay (f0.scaleVa + ix * nb) nb with
      | .error s, _ => y.stop c s rs
      | _, .error s => y.stop c s rs
      | .ok bs, .ok ks => fin ({ y with d := y.d.addW .eaveGatherRows k 1 }.reads c.bay k rs) bs ks

/-- Add one weighted row to the accumulators (R210, R211): nothing is flushed before it is written (R55). -/
def addRow (w : Option Nat) (acc v : List Nat) : List Nat :=
  (acc.zip v).map fun e => f32Add e.1 (match w with | some w => f32Mul w e.2 | none => e.2)

/-- The rows of a bag, in ascending index. -/
def bagRows (c : Cmd) (o : EaveOp) (f0 : FmtDesc) : EaveOut → List Nat → List (Nat × Option Nat) → EaveOut × List Nat
  | x, acc, [] => (x, acc)
  | x0, acc, (ix, w) :: r =>
    if x0.bad.isSome || ix = 0xFFFFFFFF then bagRows c o f0 x0 acc r
    else
      let k := x0.d.stackOf c.bay (o.src + ix * f0.rowBytes)
      let x := x0.work c k 1
      if x.bad.isSome then (x, acc)
      else match x.d.eaveRow c f0 o.src ix with
        | .error s => (x.stop c s (rowRanges f0 o.src ix), acc)
        | .ok (v, rep) =>
          let x1 := { x with d := x.d.addW .eaveGatherRows k 1 }.reads c.bay k (rowRanges f0 o.src ix)
          bagRows c o f0 (x1.add k 1 rep) (addRow w acc v) r

/-- One bag of GATHER SUM. -/
def EaveOut.bag (x : EaveOut) (c : Cmd) (o : EaveOp) (f0 f2 : FmtDesc) (b : Nat) (items : List (Nat × Option Nat)) : EaveOut :=
  if x.bad.isSome then x
  else
    let (x1, acc) := bagRows c o f0 { x with cut := b * f2.rowBytes, cutS := b * f2.blocksPerRow } (List.replicate f0.rowLen 0) items
    if x1.bad.isSome then x1
    else
      let k := match items.find? (fun i : Nat × Option Nat => i.1 != 0xFFFFFFFF) with
        | some i => x1.d.stackOf c.bay (o.src + i.1 * f0.rowBytes) | none => 0
      let nans := ((upFrom 0 acc.length).zip acc).filterMap fun v =>
        if isNan .fp32 v.2 then some (3, (b * f0.rowLen + v.1) % 2 ^ 32) else none
      let x2 := (x1.add k 1 { nans := nans }).storeRow c o f2 k 1 b (fun e => srDraw o.step f2.tensorId 0 (b * f2.rowLen + e)) acc
      if x2.bad.isSome then x2 else { x2 with done := b + 1 }

/-! ## SCATTER_ADD (R211) -/

/-- The additions in ascending i, on the rows met so far: a row of the destination is flushed as it is read and every sum as it is written
(R55). -/
def scatterRows (c : Cmd) (o : EaveOp) (f0 : FmtDesc) : EaveOut → SMap (List Nat) → List (Nat × Nat × Option Nat) → EaveOut × SMap (List Nat)
  | x, m, [] => (x, m)
  | x0, m, (i, ix, w) :: r =>
    if x0.bad.isSome || ix = 0xFFFFFFFF then scatterRows c o f0 x0 m r
    else
      let da := o.dst + 4 * f0.rowLen * ix
      let k := x0.d.stackOf c.bay da
      let x := x0.work c k 2
      let old : Except Nat (List Nat × Bool) := match smFind m ix with
        | some v => .ok (v, false)
        | none => match x.d.t1Bad c.bay da (4 * f0.rowLen) true, x.d.t1Read c.bay da (4 * f0.rowLen) with
          | some s, _ => .error s
          | none, .error s => .error s
          | none, .ok bs =>
            let vs := (unpackCodes 32 f0.rowLen (ofLe bs)).map (flushCode c.flush .fp32)
            .ok (vs.map (·.1), vs.any (·.2))
      if x.bad.isSome then (x, m)
      else match old, x.d.eaveRow c f0 o.src i with
        | .error s, _ => (x.stop c s [(da, 4 * f0.rowLen)], m)
        | _, .error s => (x.stop c s (rowRanges f0 o.src i), m)
        | .ok (v, f1), .ok (y, rep) =>
          let sums := (addRow w v y).map (flushCode c.flush .fp32)
          let x1 := { x with d := (x.d.addW .eaveScatterRows k 1).eaveWrote c.bay [(da, 4 * f0.rowLen)] }.reads c.bay k (rowRanges f0 o.src i)
          scatterRows c o f0 (x1.add k 1 (rep.join { flushed := f1 || sums.any (·.2) })) (smPut m ix (sums.map (·.1))) r

/-- Write the rows of a SCATTER_ADD; after a failure they are unspecified. -/
def scatterStore (c : Cmd) (o : EaveOp) (n : Nat) : EaveOut → SMap (List Nat) → EaveOut
  | x, [] => x
  | x, (ix, v) :: r =>
    let da := o.dst + 4 * n * ix
    if x.bad.isSome then scatterStore c o n { x with d := x.d.scramble c.bay .va da (4 * n) } r
    else
      let nans := ((upFrom 0 v.length).zip v).filterMap fun e =>
        if isNan .fp32 e.2 then some (3, (ix * n + e.1) % 2 ^ 32) else none
      let bs := v.flatMap (toLe 4)
      let (d1, e) : Dev × Option MemErr := x.d.putSp c.bay .va true da bs
      let d2 := match e with | some .uncorr => d1.faultFirst c [⟨.va, da, 4 * n⟩] | _ => d1
      scatterStore c o n ({ x with d := d2, bad := e.map MemErr.status }.add (d1.stackOf c.bay da) 1 { nans := nans }) r

/-! ## GEMV (R213, R214) -/

/-- An operand of GEMV, as the products take it (R98). -/
def Dev.gemvOperand (d : Dev) (c : Cmd) (f : FmtDesc) (rows a : Nat) : Except Nat Operand :=
  match d.t1Read c.bay a (elemBytes f.elem (rows * f.rowLen)), d.t1Read c.bay f.scaleVa (f.scaleBytes rows) with
  | .error s, _ => .error s
  | _, .error s => .error s
  | .ok bs, .ok ks =>
    let rs := operandRows f c.flush (!posNormal32 f.coarse && f.mode != .mx) 0 (rowCodes f rows bs) (ks.map (·.toNat))
    .ok { rows := rs.map (·.1), reps := rs.map (·.2) }

/-- The ranges of an operand of GEMV. -/
def gemvRanges (f : FmtDesc) (rows a : Nat) : List (Nat × Nat) := [(a, elemBytes f.elem (rows * f.rowLen)), (f.scaleVa, f.scaleBytes rows)]

/-- The stack on which column `j` of a GEMV is computed: that of the first byte of its row of W (R208). -/
def Dev.gemvStack (d : Dev) (c : Cmd) (o : EaveOp) (fw : FmtDesc) (j : Nat) : Nat := d.stackOf c.bay (o.src + j * fw.rowBytes)

/-- The units of a GEMV's columns start: each meets its errors and reads x into its SRAM and its own rows of W (R208, R213). -/
def EaveOut.gemvStart (x : EaveOut) (c : Cmd) (o : EaveOp) (fw fx : FmtDesc) : EaveOut :=
  let ks := (upFrom 0 32).filter fun k => (upFrom 0 o.count).any fun j => x.d.gemvStack c o fw j == k
  let x1 := ks.foldl (fun (x : EaveOut) k => if x.bad.isSome then x else ((x.work c k 3).dot k).reads c.bay k (gemvRanges fx o.rows o.idx)) x
  (upFrom 0 o.count).foldl (fun (x : EaveOut) j =>
    if x.bad.isSome then x else x.reads c.bay (x.d.gemvStack c o fw j) (rowRanges fw o.src j)) x1

/-- GEMV: y = x W^T, every element as the SINGLE Thatch operation of R214 gives it. -/
def EaveOut.gemv (x0 : EaveOut) (c : Cmd) (o : EaveOp) (fw fx f2 : FmtDesc) : EaveOut :=
  let x := x0.gemvStart c o fw fx
  if x.bad.isSome then x.spill c o
  else match x.d.gemvOperand c fx o.rows o.idx, x.d.gemvOperand c fw o.count o.src with
  | .error s, _ => (x.stop c s (gemvRanges fx o.rows o.idx)).spill c o
  | _, .error s => (x.stop c s (gemvRanges fw o.count o.src)).spill c o
  | .ok px, .ok pw =>
    let sr := srActive (srModeOf o.sr (x.d.fd .thatchCfg 0 0 2)) fw.rowLen
    let tile (i j : Nat) : Nat := (i / 64 * ceilDiv o.count 64 + j / 64) % 2 ^ 32
    let pos (i j : Nat) : Nat := 64 * (i % 64) + j % 64
    let ca := if fx.mode = .mx then 0x3F800000 else fx.coarse
    let cb := if fw.mode = .mx then 0x3F800000 else fw.coarse
    let vals := (upFrom 0 o.rows).map fun i => (upFrom 0 o.count).map fun j =>
      flushCode c.flush .fp32 (thatchElement (px.at false [] i) (pw.at false [] j) fw.rowLen sr
        (fun ch => srDraw o.step f2.tensorId (tile i j) (ch * 4096 + pos i j)) ca cb none none)
    let x1 := (upFrom 0 o.count).foldl (fun (x : EaveOut) j =>
      let col := vals.map fun r => (r[j]?).getD (0, false)
      let nans := ((upFrom 0 o.rows).zip col).filterMap fun v => if isNan .fp32 v.2.1 then some (3, (v.1 * o.count + j) % 2 ^ 32) else none
      x.add (x.d.gemvStack c o fw j) 2 ((pw.reportFor false fw.block j 1).join { nans := nans, flushed := col.any (·.2) }))
      (x.add (x.d.gemvStack c o fw 0) 2 (px.reportFor false fx.block 0 o.rows))
    let x2 := ((upFrom 0 o.rows).zip vals).foldl (fun (x : EaveOut) r =>
      let y := x.storeRow c o f2 (x.d.gemvStack c o fw 0) 2 r.1 (fun j => srDraw o.step f2.tensorId (tile r.1 j) (pos r.1 j)) (r.2.map (·.1))
      { y with done := if r.1 + 1 = o.rows then (y.cut - r.1 * f2.rowBytes) * 8 / f2.elem.bits else 0 }) { x1 with cut := 0 }
    x2.spill c o

/-! ## ATTEND (R217 to R220) -/

/-- The format of KV page rows (08 R230): UE4M3 fine scales in blocks of 64. -/
def kvFmt (e2m1 : Bool) : FmtDesc :=
  { elem := if e2m1 then .e2m1 else .e4m3, mode := .mse, block := 64, round := 0, ovfIeee := false, coarseSrc := false, stats := false
    tensorId := 0, coarse := 0x3F800000, rowLen := 64, sliceBlocks := 0, scaleVa := 0, coarseVa := 0 }

/-- Bytes of a page's values (08 R229). -/
def kvValueBytes (h : Nat) (e2m1 : Bool) : Nat := if e2m1 then 32 * h else 64 * h

/-- A work item (Table 7-7), checked but for its pages (Table 7-8). -/
structure AttItem where
  pt : Nat
  start : Nat
  stop : Nat
  limit : Nat
  cands : Nat
  slot : Nat
  qRow : Nat
  oRow : Nat
  ck : Nat
  cv : Nat
  deriving DecidableEq, Repr

/-- Read a work item; `none` where it breaks Table 7-8. -/
def attItem (n : Nat) : Option AttItem :=
  let i : AttItem :=
    { pt := bytesAt n 0 8, start := bytesAt n 8 4, stop := bytesAt n 12 4, limit := bytesAt n 16 4, cands := fld n 160 4
      slot := bytesAt n 22 2, qRow := bytesAt n 24 4, oRow := bytesAt n 28 4, ck := bytesAt n 32 4, cv := bytesAt n 36 4 }
  if onlyFields n 512 [(0, 64), (64, 32), (96, 32), (128, 32), (160, 4), (176, 16), (192, 32), (224, 32), (256, 32), (288, 32)]
    && inRange 1 9 i.cands && decide (i.start ≤ i.stop) && decide (i.stop ≤ 4194304) && posNormal32 i.ck && posNormal32 i.cv then some i
  else none

/-- The page that holds position (or global slot) `p`, through a page table (08 R232): `none` where it is not present. -/
def Dev.kvPage (d : Dev) (b pt p : Nat) : Except Nat (Option Nat) :=
  match d.t1Read b (pt + 8 * (p / 64)) 8 with
  | .error s => .error s
  | .ok bs => let e := ofLe bs; .ok (if bitAt e 0 then some (fld e 8 40 * 256) else none)

/-- The start check of an item's pages (Table 7-8): the status that fails it. -/
def Dev.kvPresent (d : Dev) (b : Nat) (i : AttItem) : Option Nat :=
  if i.start = i.stop then none
  else (upFrom (i.start / 64) ((i.stop - 1) / 64 + 1 - i.start / 64)).findSome? fun j => match d.kvPage b i.pt (64 * j) with
    | .error s => some s
    | .ok none => some stBadParam
    | .ok (some _) => none

/-- Exact values of `h` elements at an address with their fine scales (08 Table 8-2). -/
def Dev.kvRow (d : Dev) (b h : Nat) (f : FmtDesc) (flush : Bool) (a s bi : Nat) : Except Nat (List Fv × Report) :=
  match d.t1Read b a (elemBytes f.elem h), d.t1Read b s (h / 64) with
  | .error e, _ => .error e
  | _, .error e => .error e
  | .ok bs, .ok ks =>
    let (v, reps) := exactRow f flush false bi (chunksOf 64 (h / 64) (unpackCodes f.elem.bits h (ofLe bs))) (ks.map (·.toNat))
    .ok (v, reps.foldl Report.join {})

/-- The key and value of a position. -/
def Dev.kvAt (d : Dev) (b h : Nat) (e2m1 flush : Bool) (pt p : Nat) : Except Nat (List Fv × List Fv × Report) :=
  match d.kvPage b pt p with
  | .error s => .error s
  | .ok none => .error stBadParam
  | .ok (some page) =>
    let s := p % 64
    let vb := kvValueBytes h e2m1
    match d.kvRow b h (kvFmt false) flush (page + s * h) (page + 64 * h + vb + s * (h / 64)) (s * (h / 64)),
        d.kvRow b h (kvFmt e2m1) flush (page + 64 * h + s * vb / 64) (page + 64 * h + vb + h + s * (h / 64)) (s * (h / 64)) with
    | .error e, _ => .error e
    | _, .error e => .error e
    | .ok (k, r1), .ok (v, r2) => .ok (k, v, r1.join r2)

/-- The keys and values of positions from `p`. -/
def Dev.kvSpan (d : Dev) (b h : Nat) (e2m1 flush : Bool) (pt : Nat) : Nat → Nat → Except Nat (List (List Fv × List Fv) × Report)
  | _, 0 => .ok ([], {})
  | p, n + 1 => match d.kvAt b h e2m1 flush pt p with
    | .error s => .error s
    | .ok (k, v, r) => match d.kvSpan b h e2m1 flush pt (p + 1) n with
      | .error s => .error s
      | .ok (rest, rs) => .ok ((k, v) :: rest, r.join rs)

/-- The state of a query row: m, l and o. -/
structure AttRow where
  m : Nat
  l : Nat
  o : List Nat
  deriving DecidableEq, Repr

/-- An empty partial (R220). -/
def AttRow.empty (h : Nat) : AttRow := { m := infCode .fp32 true, l := 0, o := List.replicate h 0 }

/-- One position of R219; nothing inside is flushed. -/
def attStep (sk : Nat) (q : List Fv) (s : AttRow) (kv : List Fv × List Fv) : AttRow :=
  let t := fp32Rne ((q.zip kv.1).foldl (fun a e => a.add (e.1.mul e.2)) (.num false 0 0))
  let sc := f32Mul t sk
  let s1 : AttRow :=
    if (f32 s.m).lt (f32 sc) then
      let a := sfuExp2 (f32Mul (f32Sub s.m sc) log2e)
      { m := sc, l := f32Mul s.l a, o := s.o.map fun x => f32Mul x a }
    else s
  let e := sfuExp2 (f32Mul (f32Sub sc s1.m) log2e)
  { s1 with l := f32Add s1.l e, o := (s1.o.zip kv.2).map fun x => f32Add x.1 (fp32Rne ((f32 e).mul x.2)) }

/-- Positions in order. -/
def attSpan (sk : Nat) (q : List Fv) (s : AttRow) (kvs : List (List Fv × List Fv)) : AttRow := kvs.foldl (attStep sk q) s

/-- A query row of an item: the visible positions in order, then the value coarse scale (R219). CK, CV and SCALE are flushed as they are
read, the row's words as they are written (R55). -/
def attRow (fl : Bool) (h ck cv scale : Nat) (q : List Fv) (kvs : List (List Fv × List Fv)) : Lane AttRow :=
  if kvs.isEmpty then pure (AttRow.empty h)
  else do
    let ck1 ← lane fl ck
    let sc1 ← lane fl scale
    let cv1 ← lane fl cv
    let s := attSpan (f32Mul ck1 sc1) q (AttRow.empty h) kvs
    let o ← lMap (fun x => lane fl (f32Mul x cv1)) s.o
    let m ← lane fl s.m
    let l ← lane fl s.l
    pure { m := m, l := l, o := o }

/-- The output record of a row (R220). -/
def AttRow.bytes (s : AttRow) : List Byte := s.o.flatMap (toLe 4) ++ toLe 4 s.m ++ toLe 4 s.l ++ List.replicate 56 0

/-- The NaN items of a record (Table 2-8a). -/
def AttRow.nans (s : AttRow) (h rn : Nat) : List (Nat × Nat) :=
  ((upFrom 0 (h + 2)).zip (s.o ++ [s.m, s.l])).filterMap fun v => if isNan .fp32 v.2 then some (3, (rn * (h + 16) + v.1) % 2 ^ 32) else none

/-- The visible positions of candidate `k` of an item. -/
def AttItem.visible (i : AttItem) (k : Nat) : Nat := min i.stop (i.limit + k + 1) - i.start

/-- What an item reads in the order in which it reads it: for each position its page-table entry and its key and value with their scales, then
the queries (08 Table 8-2). -/
def Dev.itemReads (d : Dev) (b : Nat) (o : EaveOp) (e2m1 : Bool) (i : AttItem) : List (Nat × Nat) :=
  let h := o.dim
  let vb := kvValueBytes h e2m1
  ((upFrom i.start (i.visible (i.cands - 1))).flatMap fun p =>
    let s := p % 64
    [(i.pt + 8 * (p / 64), 8)] ++ (match d.kvPage b i.pt p with
      | .ok (some a) => [(a + s * h, h), (a + 64 * h + s * vb / 64, vb / 64), (a + 64 * h + vb + s * (h / 64), h / 64),
          (a + 64 * h + vb + h + s * (h / 64), h / 64)]
      | _ => [])) ++ [(o.src + i.qRow * 2 * h, i.cands * o.group * 2 * h)]

/-- Query row `r` of an item over the keys and values of its span: its record is written (R220). -/
def EaveOut.itemRow (x : EaveOut) (c : Cmd) (o : EaveOp) (k : Nat) (i : AttItem) (kvs : List (List Fv × List Fv)) (r : Nat) : EaveOut :=
  let h := o.dim
  if x.bad.isSome then x
  else match x.d.t1Read c.bay (o.src + (i.qRow + r) * 2 * h) (2 * h) with
    | .error s => x.stop c s [(o.src + (i.qRow + r) * 2 * h, 2 * h)]
    | .ok bs =>
      let qs := (unpackCodes 16 h (ofLe bs)).map (flushCode c.flush .bf16)
      let (s, fl) := (attRow c.flush h i.ck i.cv o.scale (qs.map fun q => decode .bf16 q.1) (kvs.take (i.visible (r / o.group)))).run false
      let rn := i.oRow + r
      (x.add k 3 { nans := s.nans h rn, flushed := fl || qs.any (·.2) }).put c o false (o.dst + rn * (4 * h + 64)) (r * (4 * h + 64)) s.bytes

/-- One work item, on the unit of the stack that holds the page of its START. -/
def EaveOut.item (x0 : EaveOut) (c : Cmd) (o : EaveOp) (e2m1 : Bool) (j : Nat) (i : AttItem) : EaveOut :=
  if x0.bad.isSome then x0
  else
    let h := o.dim
    let n := i.visible (i.cands - 1)
    let k := match x0.d.kvPage c.bay i.pt i.start with | .ok (some p) => x0.d.stackOf c.bay p | _ => x0.d.stackOf c.bay i.pt
    let x := ({ x0 with cut := 0 }).work c k 4
    let rs := x.d.itemReads c.bay o e2m1 i
    let all := i.cands * o.group * (4 * h + 64)
    let x1 := if x.bad.isSome then x
      else match x.d.kvSpan c.bay h e2m1 c.flush i.pt i.start n with
        | .error s => x.stop c s rs
        | .ok (kvs, rep) =>
          (upFrom 0 (i.cands * o.group)).foldl (fun (x : EaveOut) r => x.itemRow c o k i kvs r)
            (((({ x with d := x.d.addW .eaveAttPos k n }).dot k).reads c.bay k rs).add k 3 rep)
    if x1.bad.isSome then
      { x1 with d := x1.d.scramble c.bay (if o.loft then .loft else .va) (o.dst + i.oRow * (4 * h + 64) + x1.cut) (all - x1.cut) }
    else { x1 with done := j + 1 }

/-- The work list, read and checked at the start (Table 7-8). -/
def Dev.attList (d : Dev) (c : Cmd) (o : EaveOp) : Except Nat (List AttItem) :=
  match d.t1Read c.bay o.idx (64 * o.count) with
  | .error s => .error s
  | .ok bs =>
    let items := (chunksOf 64 o.count bs).map fun x => attItem (ofLe x)
    if items.any (·.isNone) then .error stBadParam
    else
      let is := items.filterMap id
      match is.findSome? (d.kvPresent c.bay) with
      | some s => .error s
      | none =>
        let recs := is.map fun i => (o.dst + i.oRow * (4 * o.dim + 64), i.cands * o.group * (4 * o.dim + 64))
        if o.loft && !d.grants c.bay recs then .error stNoPerm else .ok is

/-! ## Running -/

/-- The first of these statuses in the order of Table 6-8. -/
def firstStatus (xs : List Nat) : Option Nat :=
  ([stBadParam, stNoPerm, stNotMapped, stUncorr].find? xs.contains).or xs.head?

/-- The status of an `Except`. -/
def errOf {α : Type} : Except Nat α → List Nat
  | .error s => [s]
  | .ok _ => []

/-- The lists that the start check reads (Table 7-6): indices, bag offsets and weights; each weight with whether its flush was met. A list
that can be read and breaks the check fails the operation whatever reading another meets (Table 6-8). -/
def Dev.eaveLists (d : Dev) (c : Cmd) (o : EaveOp) : Except Nat (List Nat × List Nat × List (Nat × Bool)) :=
  let ri : Except Nat (List Nat) := match d.t1Read c.bay o.idx (4 * o.count) with
    | .error s => .error s
    | .ok bs =>
      let idx := unpackCodes 32 o.count (ofLe bs)
      if idx.any (fun i => decide (i ≥ o.rows) && i != 0xFFFFFFFF) then .error stBadParam else .ok idx
  let ra : Except Nat (List Nat) := if !o.sum then .ok [] else match d.t1Read c.bay o.aux (4 * (o.bags + 1)) with
    | .error s => .error s
    | .ok bs =>
      let aux := unpackCodes 32 (o.bags + 1) (ofLe bs)
      if aux.headD 1 == 0 && (aux.getLast?).getD 0 == o.count && ((aux.zip aux.tail).all fun e => decide (e.1 ≤ e.2)) then .ok aux
      else .error stBadParam
  let rw : Except Nat (List (Nat × Bool)) := if !o.weighted then .ok [] else match d.t1Read c.bay o.w (4 * o.count) with
    | .error s => .error s
    | .ok bs => .ok ((unpackCodes 32 o.count (ofLe bs)).map (flushCode c.flush .fp32))
  match ri, ra, rw with
  | .ok idx, .ok aux, .ok w => .ok (idx, aux, w)
  | _, _, _ => .error ((firstStatus (errOf ri ++ errOf ra ++ errOf rw)).getD stBadParam)

/-- The ranges of the lists, of the source and of the destination of GATHER and SCATTER_ADD with these indices. -/
def EaveOp.listRanges (o : EaveOp) : List (Nat × Nat) :=
  [(o.idx, 4 * o.count), (o.aux, if o.sum then 4 * (o.bags + 1) else 0), (o.w, if o.weighted then 4 * o.count else 0)]
def EaveOp.srcRanges (o : EaveOp) (f0 : FmtDesc) (idx : List Nat) : List (Nat × Nat) :=
  if o.kind = 2 then ((upFrom 0 idx.length).zip idx).flatMap fun e => if e.2 = 0xFFFFFFFF then [] else rowRanges f0 o.src e.1
  else idx.flatMap fun i => if i = 0xFFFFFFFF then [] else rowRanges f0 o.src i
def EaveOp.dstRanges (o : EaveOp) (f2 : FmtDesc) (idx : List Nat) : List (Nat × Nat) :=
  if o.loft then []
  else if o.kind = 2 then idx.flatMap fun i => if i = 0xFFFFFFFF then [] else [(o.dst + 4 * f2.rowLen * i, 4 * f2.rowLen)]
  else [(o.dst, elemBytes f2.elem (o.outRows * f2.rowLen)), (f2.scaleVa, f2.scaleBytes o.outRows)]

/-- An uncorrectable error gives way to an unmapped page of the operation's ranges (Table 6-8). -/
def EaveOut.ranked (x : EaveOut) (b : Nat) (src dst : List (Nat × Nat)) : EaveOut :=
  let hit (w : Bool) (rs : List (Nat × Nat)) : Bool := rs.any fun r => x.d.unmapped b w ⟨.va, r.1, r.2⟩
  if x.bad = some stUncorr ∧ (hit false src || hit true dst) then { x with bad := some stNotMapped } else x

/-- The start of GATHER and SCATTER_ADD, and their work, once their lists are read. -/
def EaveOut.rowsWork (x : EaveOut) (c : Cmd) (o : EaveOp) (f0 f2 : FmtDesc) (idx aux : List Nat) (wf : List (Nat × Bool)) : EaveOut :=
  let x0 : EaveOut := { x with rep := x.rep.join { flushed := (wf.zip idx).any fun e => e.1.2 && e.2 != 0xFFFFFFFF } }
  let wt (i : Nat) : Option Nat := (wf[i]?).map (·.1)
  if o.kind = 2 then
    let (x1, m) := scatterRows c o f0 x0 [] ((upFrom 0 idx.length).zip idx |>.map fun e => (e.1, e.2, wt e.1))
    let x2 := scatterStore c o f0.rowLen x1 m
    { x2 with done := if x2.bad.isSome then 0 else o.count }
  else if o.sum then
    ((upFrom 0 o.bags).foldl (fun (x : EaveOut) b =>
      let lo := (aux[b]?).getD 0
      let hi := (aux[b + 1]?).getD 0
      x.bag c o f0 f2 b ((upFrom lo (hi - lo)).map fun i => ((idx[i]?).getD 0xFFFFFFFF, wt i))) x0).spill c o
  else (((upFrom 0 idx.length).zip idx).foldl (fun (x : EaveOut) e => if x.bad.isSome then x else x.copyRow c o f0 f2 e.1 e.2) x0).spill c o

/-- Run an Eave operation: the work, and the result of R212. -/
def Dev.eaveRun (d : Dev) (c : Cmd) (o : EaveOp) : EaveOut × Nat :=
  let x0 : EaveOut := { d := d }
  match o.kind, o.f0, o.f1, o.f2 with
  | 3, some fw, some fx, some f2 => ((x0.gemv c o fw fx f2).ranked c.bay (gemvRanges fx o.rows o.idx ++ gemvRanges fw o.count o.src) (o.dstRanges f2 []), 0)
  | 4, _, _, _ => match x0.d.attList c o with
    | .error s => (x0.stop c s [(o.idx, 64 * o.count)], 0)
    | .ok is => (((upFrom 0 is.length).zip is).foldl (fun x i => x.item c o (Config.attendE2m1 o.raw) i.1 i.2) (x0.fetch c.bay [(o.idx, 64 * o.count)]), 0)
  | _, some f0, _, some f2 => match x0.d.eaveLists c o with
    | .error s => (x0.stop c s o.listRanges, 0)
    | .ok (idx, aux, wf) =>
      (((x0.fetch c.bay o.listRanges).rowsWork c o f0 f2 idx aux wf).ranked c.bay (o.srcRanges f0 idx) (o.dstRanges f2 idx),
        (idx.filter (· != 0xFFFFFFFF)).length)
  | _, _, _, _ => (x0, 0)

/-- The commands GATHER and SCATTER_ADD (R212). -/
def Dev.eaveCmd (d : Dev) (q kind : Nat) : Dev :=
  match d.running? q (if kind = 1 then 0x13 else 0x14) with
  | none => d
  | some c =>
    if !d.enginesRun then d
    else match parseEave (c.at 16 256) with
      | none => d.complete c stBadParam 0
      | some o =>
        if !onlyFields c.pkt 2560 [(0, 128), (128, 2048)] || o.kind ≠ kind || o.waitLoft ≠ 0xFFFFFFFF || o.done ≠ 0xFFFFFFFF || o.gate then
          d.complete c stBadParam 0
        else if errOf (d.eaveLists c o) == [stBadParam] then d.complete c stBadParam 0
        else if !d.grants c.bay o.loftRanges then d.complete c stNoPerm 0
        else if c.trapped then d.complete c stAborted 0
        else
          let (x, n) := d.eaveRun c o
          let d1 := x.d.reportOf c noOp x.nans x.rep
          match x.bad with
          | some s => d1.finish q s 0
          | none => d1.finish q stOk n

/-- An Eave operation as entry `i` of a KERNEL (R206): it starts as a LINEAR copy does. -/
def Dev.eaveEntry (d : Dev) (q i kind : Nat) : Dev :=
  match d.entry? q i with
  | none => d
  | some (c, k, e) =>
    match e.st, parseEave e.desc with
    | .waiting, some o =>
      if e.cls != 4 || o.kind != kind || k.stopped || !d.enginesRun then d
      else if o.waitLoft != 0xFFFFFFFF && decide (d.loftCounter o.waitLoft < o.waitCount) then d
      else if d.passed c then d.missKernel q
      else
        let (x, _) := (d.putCounter c q i o.done 0).eaveRun c o
        let d1 := x.d.reportOf c i x.nans x.rep
        match x.bad with
        | some s => (d1.putCounter c q i o.done x.done).failEntry q i s
        | none => (d1.setEntry q i .finished).putCounter c q i o.done x.done
    | _, _ => d

/-- GATHER and SCATTER_ADD: a command, or entry `i` of a KERNEL. -/
def Dev.gatherRow (d : Dev) (q : Nat) (e : Option Nat) : Dev :=
  match e with | none => d.eaveCmd q 1 | some i => d.eaveEntry q i 1
def Dev.scatterRow (d : Dev) (q : Nat) (e : Option Nat) : Dev :=
  match e with | none => d.eaveCmd q 2 | some i => d.eaveEntry q i 2

end Sys2Proof.Machine
end

