-- ==== Sys2Proof/Machine/Hash.lean ====
section
/-!
DEFINITION. Machine/Hash.lean: the two checks that the spec names by their standards: the CRC-64 of 11 R301 and SHA-256.
Where the spec is silent or is read by inference: DESIGN CHOICE log 11 (notes/assumptions).
-/
namespace Sys2Proof.Machine

/-- One bit of the CRC-64 (reflected ECMA-182 polynomial). -/
def crcBit : Nat → Nat → Nat
  | 0, c => c
  | k + 1, c => crcBit k (if c % 2 = 1 then Nat.xor (c / 2) 0xC96C5795D7870F42 else c / 2)

/-- The CRC-64 of R301: all ones first, each byte's low bit first, the result inverted. -/
def crc64 (bs : List Byte) : Nat :=
  Nat.xor (bs.foldl (fun c b => crcBit 8 (Nat.xor c b.toNat)) (2 ^ 64 - 1)) (2 ^ 64 - 1)

/-- The greatest `r` below `2 ^ bits` more than `r0` with `r ^ k ≤ n`, one bit at a time from the top. -/
def rootFrom (k n : Nat) : Nat → Nat → Nat
  | 0, r0 => r0
  | bits + 1, r0 => rootFrom k n bits (if (r0 + 2 ^ bits) ^ k ≤ n then r0 + 2 ^ bits else r0)

/-- The first 32 bits of the fraction of the `k`-th root of `p`, from which SHA-256 takes its constants. -/
def rootFraction (k p : Nat) : Nat := rootFrom k (p * 2 ^ (32 * k)) 40 0 % 2 ^ 32

/-- The primes below `n`, ascending. -/
def primesBelow (n : Nat) : List Nat :=
  (List.range n).filter fun p => decide (1 < p) && (List.range p).all fun q => decide (q < 2) || decide (p % q ≠ 0)

/-- Rotate a 32-bit word right. -/
def rotr (n x : Nat) : Nat := x / 2 ^ n + x % 2 ^ n * 2 ^ (32 - n)

/-- The exclusive or of three words. -/
def xor3 (x y z : Nat) : Nat := Nat.xor x (Nat.xor y z)

/-- A SHA-256 hash in progress: the eight working words in ring order, the newest first, and the next sixteen words of the message
schedule, the oldest first. -/
structure ShaRun where
  work : List Nat
  sched : List Nat

/-- Where `e` has a one the bit of `f`, elsewhere that of `g`. -/
def pickBits (e f g : Nat) : Nat := Nat.xor g (Nat.land e (Nat.xor f g))

/-- The bit that two of three words agree on. -/
def agreeBits (a b c : Nat) : Nat := Nat.xor a (Nat.land (Nat.xor a b) (Nat.xor a c))

/-- One round with the constant `k`: the oldest schedule word goes in, and the word sixteen places on joins the schedule. -/
def ShaRun.round (r : ShaRun) (k : Nat) : ShaRun :=
  let w (i : Nat) : Nat := (r.work[i]?).getD 0
  let m (i : Nat) : Nat := (r.sched[i]?).getD 0
  let mixE := xor3 (rotr 6 (w 4)) (rotr 11 (w 4)) (rotr 25 (w 4))
  let mixA := xor3 (rotr 2 (w 0)) (rotr 13 (w 0)) (rotr 22 (w 0))
  let into := w 7 + mixE + pickBits (w 4) (w 5) (w 6) + k + m 0
  let old := xor3 (rotr 7 (m 1)) (rotr 18 (m 1)) (m 1 / 2 ^ 3)
  let late := xor3 (rotr 17 (m 14)) (rotr 19 (m 14)) (m 14 / 2 ^ 10)
  { work := ((into + mixA + agreeBits (w 0) (w 1) (w 2)) % 2 ^ 32) :: (r.work.take 7).modify 3 fun x => (x + into) % 2 ^ 32
    sched := r.sched.drop 1 ++ [(m 0 + old + m 9 + late) % 2 ^ 32] }

/-- A big-endian word of four bytes. -/
def beWord (bs : List Byte) : Nat := bs.foldl (fun n b => 256 * n + b.toNat) 0

/-- Cut into `n` pieces of `k`. -/
def cutEvery {α : Type} (k : Nat) : Nat → List α → List (List α)
  | 0, _ => []
  | n + 1, l => l.take k :: cutEvery k n (l.drop k)

/-- The eight words after one 64-byte block. -/
def shaBlock (h : List Nat) (blk : List Byte) : List Nat :=
  let r := ((primesBelow 312).map (rootFraction 3)).foldl ShaRun.round { work := h, sched := (cutEvery 4 16 blk).map beWord }
  List.zipWith (fun a b => (a + b) % 2 ^ 32) h r.work

/-- SHA-256 of a message, as a number with the digest's first byte most significant. -/
def sha256 (bs : List Byte) : Nat :=
  let n := bs.length
  let pad := (119 - n % 64) % 64
  let msg := bs ++ [0x80#8] ++ List.replicate pad 0#8 ++ (toLe 8 (8 * n)).reverse
  ((cutEvery 64 (msg.length / 64) msg).foldl shaBlock ((primesBelow 20).map (rootFraction 2))).foldl (fun n w => 2 ^ 32 * n + w) 0

end Sys2Proof.Machine
end

