-- ==== Sys2Proof/Machine/Image.lean ====
section
/-!
DEFINITION. Machine/Image.lean: the Gable image and the firmware staging window (17 R485 to R487).
Where the spec is silent or is read by inference: DESIGN CHOICE logs 11, 63 (notes/assumptions).
-/
namespace Sys2Proof.Machine

/-- A section entry (Table 17-2). -/
structure Section where
  kind : Nat
  off : Nat
  bytes : Nat
  sha : Nat
  deriving DecidableEq, Repr

/-- A Gable image in the staging window (Table 17-1). -/
structure Image where
  level : Nat
  floor : Nat
  bytes : Nat
  build : Nat
  sections : List Section
  deriving DecidableEq, Repr

/-- Bytes of the staging window. -/
def stageSize : Nat := 0x3000000

/-- Bytes of the window. -/
def Dev.staged (d : Dev) (off n : Nat) : List Byte := readBytes d.stage off n

/-- No two sections overlap. -/
def sectionsApart : List Section → Bool
  | [] => true
  | s :: r => r.all (fun t => !overlap s.off s.bytes t.off t.bytes) && sectionsApart r

/-- The staged image where its header and section entries meet Tables 17-1 and 17-2 and no section overlaps another, the header or the
table: the 32-byte entries follow the 256-byte header. -/
def Dev.imageShape (d : Dev) : Option Image :=
  let h := ofLe (d.staged 0 256)
  let n := bytesAt h 10 2
  let es := (upFrom 0 n).map fun i => ofLe (d.staged (256 + 32 * i) 32)
  let img : Image :=
    { level := bytesAt h 6 2, floor := bytesAt h 8 2, bytes := bytesAt h 12 4, build := bytesAt h 16 8
      sections := es.map fun e => { kind := bytesAt e 0 1, off := bytesAt e 8 8, bytes := bytesAt e 16 8, sha := bytesAt e 24 8 } }
  let ok := bytesAt h 0 4 == 0x4947424B && bytesAt h 4 2 == 1 && decide (img.floor ≤ img.level) && inRange 5 8 n
    && aligned img.bytes 12 && decide (img.bytes ≤ 50331648) && bytesAt h 24 168 == 0
    && es.all (fun e => bytesAt e 1 7 == 0)
    && img.sections.all (fun s => inRange 1 5 s.kind && aligned s.off 12 && inRange 1 16777216 s.bytes && decide (s.off + s.bytes ≤ img.bytes)
      && !overlap s.off s.bytes 0 (256 + 32 * n))
    && [1, 2, 3, 4, 5].all (fun k => (img.sections.filter fun s => s.kind == k).length == 1)
    && sectionsApart img.sections
  if ok then some img else none

/-- The staged image where it is valid (R486). -/
def Dev.image? (d : Dev) : Option Image :=
  match d.imageShape with
  | none => none
  | some m =>
    let signed := sha256 (d.staged 0 192 ++ d.staged 256 (m.bytes - 256))
    if Config.imageVerifies signed (d.staged 192 64) && m.sections.all (fun s => sha256 (d.staged s.off s.bytes) % 2 ^ 64 == s.sha) then some m
    else none

/-- The image in the window is used, so it is validated, and the result shown in BRING_STAGE_STS. -/
def Dev.validate (d : Dev) : Dev × Option Image :=
  match d.image? with
  | some m => (((d.sb .bringStageSts 0 0 true).sf .bringStageSts 0 16 16 m.level).wr .bringStageFloor 0 m.floor, some m)
  | none => (((d.sb .bringStageSts 0 0 false).sf .bringStageSts 0 16 16 0).wr .bringStageFloor 0 0, none)

/-- SHA-256 of the image (measurement 2). -/
def Dev.imageHash (d : Dev) (m : Image) : Nat := sha256 (d.staged 0 m.bytes)

/-- SHA-256 over the peg microcode images in site-code order: Thatch, Lath, Fascia, base dies (measurement 3). -/
def Dev.pegHash (d : Dev) (m : Image) : Nat :=
  sha256 ([2, 3, 5, 4].flatMap fun k => match m.sections.find? (fun s => s.kind == k) with
    | some s => d.staged s.off s.bytes
    | none => [])

/-- Write bytes of the window: VALID is 0 from then on (R487). -/
def Dev.stagePut (d : Dev) (off : Nat) (bs : List Byte) : Dev :=
  let d1 := { d with stage := writeBytes d.stage off bs }
  ((d1.sb .bringStageSts 0 0 false).sf .bringStageSts 0 16 16 0).wr .bringStageFloor 0 0

/-- LOAD_GABLE, RELOAD or a FW_RELAY that stores here uses the window. -/
def Dev.stageBusy (d : Dev) : Bool := d.rbit .bringStepRun 0 1 || d.rbit .bringStepRun 0 13 || d.rbit .bringStageSts 0 1

/-- STAGE_WRITE: the host writes `n` bytes of the window; while it is in use they become unspecified. -/
def Dev.stageWrite (d : Dev) (off n data : Nat) : Dev :=
  if off + n > stageSize || n = 0 then d
  else if d.stageBusy then (d.stagePut off ((upFrom 0 n).map (Config.freeByte d.free))).tick
  else d.stagePut off (toLe n data)

end Sys2Proof.Machine
end

