-- ==== Sys2Proof/Machine/Bar4.lean ====
section
/-!
DEFINITION. Machine/Bar4.lean: the window into bay 0's virtual space (16 R462 to R464).
Where the spec is silent or is read by inference: DEDUCED log 13; DESIGN CHOICE log 43 (notes/assumptions).
-/
namespace Sys2Proof.Machine

/-- BAR4 serves a piece: mapped, home in T1, and writable for a write. -/
def Dev.bar4Serves (d : Dev) (p? : Option Piece) (write : Bool) : Bool :=
  match p? with
  | none => false
  | some p => p.peer.isNone && (match d.obj? p.objBay p.objId with
      | some o => (o.phys p.off).isSome
      | none => false) && (!write || (match d.pieceWritable 0 p with | .ok _ => true | .error _ => false))

/-- Count a fault of BAR4. -/
def Dev.bar4Fault (d : Dev) : Dev := d.addS .hostifBar4Faults 0 1

/-- The module as a BAR4 access sees it: Sarking mode and a live reload serve no page (Table 16-5). -/
def Dev.bar4Open (d : Dev) : Bool := !d.sarking && !d.reloading

/-- Answer a BAR4 read of `n` bytes at a VA: the bytes, or all ones. -/
def Dev.bar4ReadNow (d : Dev) (va n : Nat) : Dev :=
  let ones := 2 ^ (8 * n) - 1
  let fail (d : Dev) : Dev := (d.bar4Fault.tx n).send .host 1 [ones]
  if !d.bar4Open || !(d.pieces 0 va n).all (fun p => d.bar4Serves p false) then { fail d with reply := [ones] }
  else match d.readVa 0 va n with
    | .ok bs => { (d.tx n).send .host 1 [ofLe bs] with reply := [ofLe bs] }
    | .error _ =>
      -- an uncorrectable error: the object records it (14 R417)
      let d1 := (d.pieces 0 va n).foldl (fun d p? => match p? with
        | none => d
        | some p => match d.obj? p.objBay p.objId with
          | none => d
          | some o => match d.objErr o p.off p.len with
            | some off => d.objFault { sq := 0, bay := 0, pkt := 0, flush := false, started := d.now, order := 0 } o off
            | none => d) d
      { fail d1 with reply := [ones] }

/-- Make a BAR4 write, or drop it. -/
def Dev.bar4WriteNow (d : Dev) (va n v : Nat) : Dev :=
  if !d.bar4Open || !(d.pieces 0 va n).all (fun p => d.bar4Serves p true) then d.bar4Fault
  else (d.writeVa 0 va (toLe n v)).1

/-- The accesses held back are served in order, after a hold; or, in Sarking mode, dropped and answered with ones. -/
def Dev.bar4Drain (d : Dev) : Dev :=
  d.bar4.foldl (fun d x => match x.2.2 with
    | some v => d.bar4WriteNow x.1 x.2.1 v
    | none => d.bar4ReadNow x.1 x.2.1) { d with bar4 := [] }

/-- A BAR4 access arrives: in a hold it waits (R463). -/
def Dev.bar4Access (d : Dev) (va n : Nat) (v : Option Nat) : Dev :=
  if d.bar4Open && (d.held || d.powerHold) then { d with bar4 := d.bar4 ++ [(va, n, v)] }
  else match v with
    | some v => d.bar4WriteNow va n v
    | none => d.bar4ReadNow va n

end Sys2Proof.Machine
end

