-- ==== Sys2Proof/Machine/Fabric.lean ====
section
/-!
DEFINITION. Machine/Fabric.lean: the Reedline fabric, Ethernet connections, Purlin time and HOLD (15): flits and credits,
frames with their end-to-end numbers, the peer and route tables, time transfer, holds.
Where the spec is silent or is read by inference: DESIGN CHOICE logs 39, 42, 43, 44; DEDUCED logs 40, 41 (notes/assumptions).
-/
namespace Sys2Proof.Machine

/-! ## Frame kinds of this model -/

def fkDiscover : Nat := 1
def fkHeartbeat : Nat := 2
def fkTimeReq : Nat := 3
def fkTimeResp : Nat := 4
def fkLoss : Nat := 5
def fkHold : Nat := 6
def fkAck : Nat := 7
def fkPeerResp : Nat := 9
/-- Flits of the link itself: a credit return with the acknowledged LINK_SEQ, a replay request, replayed flits. -/
def fkCredit : Nat := 20
def fkReplayAsk : Nat := 21
def fkReplay : Nat := 22

/-! ## Ports, flits and credits (R423 to R426) -/

/-- Change the fabric's state. -/
def Dev.modFab (d : Dev) (f : Fabric → Fabric) : Dev := { d with fab := f d.fab }

/-- A port below the frames; at link-up each VC holds the credits of its reserved flits (Table 15-2). -/
def Dev.rport (d : Dev) (p : Nat) : RPort := (smFind d.fab.ports p).getD {}
def Dev.modPort (d : Dev) (p : Nat) (f : RPort → RPort) : Dev := d.modFab fun x => { x with ports := smPut x.ports p (f (d.rport p)) }

/-- REEDLINE_PORT_STS.STATE: 0 DOWN, 1 TRAINING, 2 UP, 3 REFUSED. -/
def Dev.portState (d : Dev) (p : Nat) : Nat := d.fd .reedlinePortSts p 0 2
def Dev.portUp? (d : Dev) (p : Nat) : Bool := decide (p < 18) && d.portState p == 2

/-- The FABRIC step has started: the ports may train (17 Table 17-3). -/
def Dev.fabricStarted (d : Dev) : Bool := d.rbit .bringStepRun 0 9 || d.stepDone 9

/-- Flits that a frame of so many payload bytes takes (Table 15-1). -/
def flitsOf (bytes : Nat) : Nat := max 1 (ceilDiv bytes 242)

/-- Send the frames queued at a port for which their VC holds credits; a frame that waits blocks only its own VC (R425). -/
def portDrain (p : Nat) : Dev → List Nat → List (Nat × Nat × List Nat × Nat) → Dev
  | d, _, [] => d
  | d, shut, (vc, kind, words, bytes) :: r =>
    let x := d.rport p
    let n := flitsOf bytes
    if shut.contains vc || decide (smGet 0 x.credits vc < n) then
      portDrain p (d.modPort p fun y => { y with queue := y.queue ++ [(vc, kind, words, bytes)] }) (vc :: shut) r
    else
      let seqs := (upFrom 0 n).map fun i => ((x.txSeq + i) % 4096, vc)
      let d1 := d.modPort p fun y =>
        { y with credits := smPut y.credits vc (smGet 0 y.credits vc - n), txSeq := (y.txSeq + n) % 4096, unacked := y.unacked ++ seqs }
      portDrain p ((d1.addW .reedlinePortTxBytes p bytes).send .reedline kind (p :: vc :: words)) shut r

/-- Send what a port may send. -/
def Dev.portPump (d : Dev) (p : Nat) : Dev :=
  let q := (d.rport p).queue
  if q.isEmpty then d else portDrain p (d.modPort p fun y => { y with queue := [] }) [] q

/-- Hand a frame to a port. -/
def Dev.portSend (d : Dev) (p vc kind : Nat) (words : List Nat) (bytes : Nat) : Dev :=
  (d.modPort p fun y => { y with queue := y.queue ++ [(vc, kind, words, bytes)] }).portPump p

/-- FLIT_RX (R424, R426): a flit arrives, with the codewords that its RS code corrected and could not correct. `nack`: the
partner reports a CRC failure or a gap. -/
def Dev.flitRx (d : Dev) (p flit corr uncorr : Nat) (nack : Bool) : Dev :=
  let st := d.fd .reedlinePortSts p 0 2
  if p ≥ 18 || (st ≠ 2 && st ≠ 3) then d
  else
    let d := (d.modPort p fun y => { y with lastFlit := d.now }).addW .reedlinePortFecCorr p corr
    let d := d.addW .reedlinePortFecUncorr p uncorr
    let x := d.rport p
    let seq := fld flit 4 12
    if crc64 (toLe 248 flit) ≠ bytesAt flit 248 8 then d.send .reedline fkReplayAsk [p, x.rxSeq]
    else if seq ≠ x.rxSeq then
      (if (x.rxSeq + 4096 - seq) % 4096 ≤ 2048 then d else d.send .reedline fkReplayAsk [p, x.rxSeq])
    else
      let ack := fld flit 16 12
      let done := x.unacked.takeWhile fun u => decide ((ack + 4096 - u.1) % 4096 < 2048)
      let vc := fld flit 38 2
      let got := smGet 0 x.credits vc + fld flit 28 10
      let d1 := d.modPort p fun y =>
        { y with rxSeq := (seq + 1) % 4096, unacked := y.unacked.drop done.length, fails := if done.isEmpty then y.fails else 0
                 credits := smPut y.credits vc got }
      let d2 := if fld flit 2 2 = 1 then
          (d1.addW .reedlinePortRxBytes p 242).send .reedline fkCredit [p, fld flit 0 2, 1, seq]
        else d1
      let d3 := d2.portPump p
      if !nack || (d3.rport p).unacked.isEmpty then d3
      else if (d3.rport p).fails ≥ 16 then d3
      else
        ((d3.addW .reedlinePortReplays p (d3.rport p).unacked.length).modPort p fun y => { y with fails := y.fails + 1 }).send .reedline
          fkReplay (p :: (d3.rport p).unacked.map (·.1))

/-! ## Routes (R433, R434) -/

/-- A destination's route entry. -/
def Dev.routeEntry (d : Dev) (dst : Nat) : Nat := smGet 0x1F1F1F1F d.fab.routes dst

/-- The ports of an entry in order of preference. -/
def entryPorts (e : Nat) : List Nat := (upFrom 0 4).map fun i => fld e (8 * i) 5

/-- The first port of an entry that is UP. -/
def Dev.firstUp (d : Dev) (e : Nat) : Option Nat := (entryPorts e).find? d.portUp?

/-- The port on which a frame to a destination leaves. -/
def Dev.routePort (d : Dev) (dst : Nat) : Option Nat := d.firstUp (d.routeEntry dst)

/-! ## Frames (R425, R427, R446) -/

/-- May a frame of this VC be sent now? None but CONTROL in hold. -/
def Dev.vcOpen (d : Dev) (vc : Nat) : Bool := vc == 0 || !d.held

/-- Send the frames that wait, where they have a route and may leave. -/
def framesOut : Dev → List Frame → Dev
  | d, [] => d
  | d, f :: r =>
    if !f.waiting || !d.vcOpen f.vc then framesOut d r
    else match d.routePort f.dst with
      | none => framesOut d r
      | some p =>
        let d1 := d.modFab fun x => { x with frames := x.frames.map fun g =>
          if g.dst == f.dst && g.vc == f.vc && g.seq == f.seq then { g with waiting := false, sends := g.sends + 1, sentAt := d.now } else g }
        framesOut (d1.portSend p f.vc f.kind (f.dst :: f.seq :: f.words) f.bytes) r

/-- Send every frame that may leave. -/
def Dev.pump (d : Dev) : Dev := framesOut d d.fab.frames

/-- Make a frame to a module and send it: it has the next number of its destination and VC, and it is kept until it is
acknowledged. `cmd`: the command it serves. -/
def Dev.sendFrame (d : Dev) (dst vc kind : Nat) (words : List Nat) (bytes : Nat) (cmd : Option (Nat × Nat) := none) : Dev :=
  let k := 4 * dst + vc
  let seq := smGet 0 d.fab.txSeq k
  let f : Frame := { dst := dst, vc := vc, seq := seq, kind := kind, words := words, bytes := bytes, cmd := cmd, sentAt := d.now }
  framesOut (d.modFab fun x => { x with frames := x.frames ++ [f], txSeq := smPut x.txSeq k (seq + 1) }) [f]

/-- Send a frame that is not acknowledged end to end: acknowledgements, heartbeats and time transfer; without a route it is
dropped. -/
def Dev.sendPlain (d : Dev) (dst kind : Nat) (words : List Nat) (bytes : Nat) : Dev :=
  match d.routePort dst with
  | none => d
  | some p => d.portSend p 0 kind (dst :: words) bytes

/-- This module's DEVICE_ID and DOMAIN (R428). -/
def Dev.self (d : Dev) : Nat := d.fd .reedlineIdent 0 0 15
def Dev.domain (d : Dev) : Nat := d.fd .reedlineIdent 0 16 10

/-- Change a peer. -/
def Dev.modPeer (d : Dev) (dev : Nat) (f : Peer → Peer) : Dev :=
  d.modFab fun x => { x with peers := x.peers.map fun p => if p.dev == dev then f p else p }

/-- The LIVE peers. -/
def Dev.livePeers (d : Dev) : List Nat := (d.fab.peers.filter fun p => p.st == 1).map (·.dev)

/-- Was a module's loss declared or noticed, with no later life? -/
def Dev.isLost (d : Dev) (dev : Nat) : Bool :=
  (match d.peer? dev with | some p => p.st == 2 | none => false) || d.fab.gone.any fun g => g.1 == dev

/-- Take a frame of a VC that has come: frames of a REFUSED or DOWN link and of an old INCARNATION are discarded (R429,
R432); a duplicate is acknowledged again and discarded, a frame out of order is discarded; every other is acknowledged
(R427). -/
def Dev.accept (d : Dev) (h : FrameHdr) (vc : Nat) : Dev × Bool :=
  if !d.portUp? h.port then (d, false)
  else
    let stale := match d.peer? h.src with
      | some p => p.st == 3 || (p.inc != h.inc && p.st != 0) || p.st == 2
      | none => d.fab.gone.contains (h.src, h.inc)
    if stale then (d, false)
    else
      let d := d.modPeer h.src fun p => { p with lastRx := d.now }
      let k := 4 * h.src + vc
      let want := smGet 0 d.fab.rxSeq k
      if h.seq > want then (d, false)
      else
        let d1 := d.sendPlain h.src fkAck [d.self, vc, h.seq] 16
        if h.seq < want then (d1, false)
        else (d1.modFab fun x => { x with rxSeq := smPut x.rxSeq k (want + 1) }, true)

/-- E2E_ACK_RX (R427). -/
def Dev.e2eAckRx (d : Dev) (h : FrameHdr) (vc seq : Nat) : Dev :=
  if !d.portUp? h.port then d
  else
    (d.modPeer h.src fun p => if p.inc = h.inc ∧ p.st = 1 then { p with lastRx := d.now } else p).modFab fun x =>
      { x with frames := x.frames.filter fun f => !(f.dst == h.src && f.vc == vc && f.seq == seq) }

/-! ## Ports going down and up (R424, R433) -/

/-- Destinations whose frames left by a port and move to the next UP port of their entry. -/
def Dev.moved (d : Dev) (p : Nat) : Nat :=
  (d.fab.routes.filter fun e => (entryPorts e.2).find? (fun q => q == p || d.portUp? q) == some p && (d.firstUp e.2).isSome).length

/-- A port goes DOWN: its link starts anew at the next training. -/
def Dev.takeDown (d : Dev) (p : Nat) : Dev :=
  let d1 := ((d.sf .reedlinePortSts p 0 2 0).sf .reedlinePortSts p 6 2 0).addS .reedlinePortDowns p 1
  let d2 := (d1.wr .reedlinePortPartner p 0).modPort p fun x => { lock := x.lock }
  d2.addW .reedlineReroutes 0 (d2.moved p)

/-- PORT_DOWN: no flit for 1 µs, too few lanes, or 16 replays that failed. -/
def Dev.portDown (d : Dev) (p : Nat) : Dev :=
  let x := d.rport p
  let st := d.portState p
  if p ≥ 18 || (st ≠ 2 && st ≠ 3) then d
  else if d.now < x.lastFlit + 1000 && decide (4 ≤ popCount 8 x.lock) && decide (x.fails < 16) then d
  else d.takeDown p

/-- This module's DISCOVER or HEARTBEAT frame (Table 15-3), as its 64 bytes. -/
def Dev.discover (d : Dev) (ty p : Nat) : Nat :=
  mkFields [(0, 8, ty), (8, 5, p), (16, 16, d.fd .reedlineLevel 0 0 16), (32, 16, d.fd .reedlineLevel 0 16 16), (48, 15, d.self)
    , (64, 10, d.domain), (96, 32, d.rd .reedlineIncarnation 0), (128, 64, d.rd .identSerial 0)
    , (192, 8, if d.fd .purlinSts 0 0 2 = 2 then d.fd .purlinSts 0 4 8 else 0xFF)]

/-- Send DISCOVER on a port. -/
def Dev.sendDiscover (d : Dev) (p : Nat) : Dev :=
  (d.modPort p fun x => { x with discAt := d.now }).portSend p 0 fkDiscover [d.discover 1 p] 64

/-- The 432 shared flits of the receive buffer are granted to the VCs beyond their reserved flits (R426). DESIGN CHOICE log 39: how many to
each is free. -/
def Dev.grantShared (d : Dev) (p : Nat) : Dev :=
  let a := Config.freeNat d.free % 433
  let b := Config.freeNat (d.free + 1) % (433 - a)
  let c := Config.freeNat (d.free + 2) % (433 - a - b)
  [(0, a), (1, b), (2, c), (3, 432 - a - b - c)].foldl (fun d g => d.send .reedline fkCredit [p, g.1, g.2]) { d with free := d.free + 3 }

/-- PORT_UP: a port has trained on its locked lanes, and the credit round trip was measured. Frames that waited for a route
leave. -/
def Dev.portUp (d : Dev) (p rtt : Nat) : Dev :=
  let x := d.rport p
  let n := popCount 8 x.lock
  if p ≥ 18 || d.portState p > 1 || !d.rbit .reedlinePortCtrl p 0 || !d.fabricStarted || n < 4 then d
  else
    let d1 := ((d.sf .reedlinePortSts p 0 2 2).sf .reedlinePortSts p 2 4 n).wr .reedlinePortRtt p (min rtt 0xFFFF)
    let d2 := (d1.modPort p fun x => { lock := x.lock, lastFlit := d.now, credits := [(0, 32), (1, 16), (2, 16), (3, 16)] }).grantShared p
    (d2.sendDiscover p).pump

/-- PORT_RETRAIN: REEDLINE_PORT_CTRL.RETRAIN takes the port down and trains it again. -/
def Dev.portRetrain (d : Dev) (p v : Nat) : Dev :=
  if p ≥ 18 || !bitAt v 1 then d
  else
    let d1 := if d.portState p ≥ 2 then d.takeDown p else d
    let d2 := d1.sb .reedlinePortCtrl p 0 (bitAt v 0)
    if bitAt v 0 && d.fabricStarted then d2.sf .reedlinePortSts p 0 2 1 else d2.sf .reedlinePortSts p 0 2 0

/-- LANE_BLOCK_LOCK (R423): a lane gains or loses block lock. -/
def Dev.laneBlockLock (d : Dev) (p lane : Nat) (lock : Bool) : Dev :=
  if p ≥ 18 || lane ≥ 8 then d
  else
    let m := setFld (d.rport p).lock lane 1 (if lock then 1 else 0)
    let n := popCount 8 m
    let d1 := (d.modPort p fun x => { x with lock := m }).sf .reedlinePortSts p 2 4 n
    if d.portState p ≥ 2 && decide (n < 4) then d1.takeDown p else d1

/-- DISCOVER_RESEND (R429): 10 µs after the last one, until the partner's has come. -/
def Dev.discoverResend (d : Dev) (p : Nat) : Dev :=
  let x := d.rport p
  if !d.portUp? p || x.disc.isSome || d.now < x.discAt + 10000 then d else d.sendDiscover p

/-! ## Peers (R429 to R432, R435) -/

/-- The event data of PEER_JOIN and PEER_LEAVE (R431). -/
def peerData (p : Peer) (reason : Nat) : Nat := mkFields [(0, 15, p.dev), (16, 10, p.domain), (28, 4, reason)]

/-- Why a DISCOVER or HEARTBEAT fails R429: 1 LEVEL, 2 DUP_ID. -/
def Dev.refusal (d : Dev) (f : Nat) : Option Nat :=
  let dev := fld f 48 15
  let serial := fld f 128 64
  if !levelsMeet (d.fd .reedlineLevel 0 0 16) (d.fd .reedlineLevel 0 16 16) (fld f 16 16) (fld f 32 16) then some 1
  else if dev = d.self || d.fab.peers.any fun p => p.dev == dev && p.st == 1 && p.serial != serial then some 2
  else none

/-- A peer's frame passed R429: it is LIVE with what the frame says; PEER_JOIN where it was not. Its numbers start anew with
a new INCARNATION. -/
def Dev.makeLive (d : Dev) (f : Nat) (direct : Bool) : Dev :=
  let dev := fld f 48 15
  let fill (p : Peer) : Peer :=
    { p with domain := fld f 64 10, st := 1, direct := p.direct || direct, level := fld f 16 16, floor := fld f 32 16, inc := fld f 96 32
             serial := fld f 128 64, hops := fld f 192 8, lastRx := d.now }
  match d.peer? dev with
  | some p =>
    let d1 := d.modPeer dev fill
    if p.st = 1 then d1
    else
      let d2 := d1.modFab fun x =>
        { x with rxSeq := if p.st = 2 then x.rxSeq.filter (fun e => e.1 / 4 != dev) else x.rxSeq
                 txSeq := if p.st = 2 then x.txSeq.filter (fun e => e.1 / 4 != dev) else x.txSeq
                 frames := if p.st = 2 then x.frames.filter (fun g => g.dst != dev) else x.frames
                 gone := x.gone.filter fun g => g.1 != dev }
      d2.eventAll 0x0030 (peerData (fill p) 0) (fill p).serial
  | none =>
    let p := fill { dev := dev }
    (d.modFab fun x => { x with peers := x.peers ++ [p], gone := x.gone.filter fun g => g.1 != dev }).eventAll 0x0030 (peerData p 0) p.serial

/-- A peer's state is LOST or it left: PEER_LEAVE with a reason; fabric holds without an END that it began end (R448); its
mappings of this module's objects go, and accesses to this module's mappings of its objects complete PEER_LOST (R415). -/
def Dev.peerLeaves (d : Dev) (p : Peer) (reason : Nat) : Dev :=
  let d1 := d.eventAll 0x0031 (peerData p reason) p.serial
  let d2 := d1.modFab fun x => { x with holds := x.holds.filter fun h => !(h.origin == p.dev && h.stop == 0) }
  if reason = 4 then d1
  else
    { d2 with
      objs := d2.objs.map fun o => { o with peers := o.peers.filter fun e => e.1 != p.dev }
      bays := d2.bays.map fun b => { b with maps := b.maps.map fun m => if m.peer == some p.dev then { m with lost := true } else m } }

/-- Declare a LIVE peer LOST (R431): the peer's own part of it, and the LOSS notice to every LIVE peer left. -/
def Dev.declareLost (d : Dev) (dev reason : Nat) : Dev :=
  match d.peer? dev with
  | none => d
  | some p =>
    let d1 := (d.modPeer dev fun x => { x with st := 2 }).addS .reedlineLost 0 1
    let d2 := d1.peerLeaves p reason
    if reason = 3 then d2
    else d2.livePeers.foldl (fun d n => d.sendFrame n 0 fkLoss [p.dev, p.inc] 16) d2

/-- HEARTBEAT_TIMER (R431): every 10 µs to every LIVE peer. -/
def Dev.heartbeatTimer (d : Dev) : Dev :=
  if !d.fabricStarted || d.now < d.fab.hbAt + 10000 then d
  else (d.modFab fun x => { x with hbAt := d.now }).livePeers.foldl (fun d n => d.sendPlain n fkHeartbeat [d.discover 2 0] 64)
    (d.modFab fun x => { x with hbAt := d.now })

/-- PEER_ADD: REEDLINE_PEER_OP with OP ADD enters a remote peer; it is LIVE at once where a DISCOVER of it has passed R429. -/
def Dev.peerAdd (d : Dev) (v : Nat) : Dev :=
  let dev := fld v 0 15
  if fld v 16 2 ≠ 1 || (d.peer? dev).isSome || dev = d.self || d.fab.peers.length ≥ 1024 then d
  else
    let d1 := d.modFab fun x => { x with peers := x.peers ++ [{ dev := dev }] }
    match (d.fab.ports.filterMap fun e => if d.portUp? e.1 then e.2.disc else none).find? fun f => fld f 48 15 == dev with
    | some f => d1.makeLive f false
    | none => d1

/-- PEER_REMOVE: OP REMOVE takes a peer out of the table with reason REMOVED. -/
def Dev.peerRemove (d : Dev) (v : Nat) : Dev :=
  let dev := fld v 0 15
  match d.peer? dev with
  | none => d
  | some p =>
    if fld v 16 2 ≠ 2 then d
    else (d.modFab fun x => { x with peers := x.peers.filter fun y => y.dev != dev }).peerLeaves p 4

/-- ROUTE_WRITE (R434): the selected destination's entry; frames that waited for a route may leave. -/
def Dev.routeWrite (d : Dev) (v : Nat) : Dev :=
  if (entryPorts v).any fun p => decide (18 ≤ p) && p != 31 then d
  else
    (d.modFab fun x => { x with routes := smSet 0x1F1F1F1F x.routes (d.fd .reedlineRouteSel 0 0 15) (Nat.land v 0x1F1F1F1F) }).pump

/-! ## HOLD (R445 to R448) -/

/-- Requests that came in hold are served after it (see `serve`). -/
def Obj.exported (o : Obj) (r : PeerReq) : Nat :=
  if o.exportMode = 0 || o.key ≠ r.key || (r.op = 1 && o.exportMode ≠ 2) then stNoPerm
  else if r.op ≤ 1 && decide (r.off + r.len > o.size) then stNotMapped else stOk

/-- Serve a peer memory request from T1 like a local one (R414), and answer it. -/
def Dev.serve (d : Dev) (r : PeerReq) : Dev :=
  let answer (d : Dev) (st : Nat) (data : List Nat) : Dev := d.sendFrame r.src 2 fkPeerResp (r.tag :: st :: data) (16 + (if r.op = 0 then r.len else 0))
  match d.obj? r.bay r.obj with
  | none => answer d stBadParam []
  | some o =>
    let st := o.exported r
    if st ≠ stOk then answer d st []
    else
      let ps := (cutPieces [{ va := 0, bytes := o.size, objBay := o.bay, objId := o.id, off := 0, write := true, prefetch := false
                              small := o.small }] (r.len / 0x10000 + 2) r.off r.len)
      match r.op with
      | 0 => match readPieces d ps with
        | (bs, none) => answer d stOk [ofLe bs]
        | (_, some e) => answer d e.status []
      | 1 =>
        let (d1, e) := ps.foldl (fun (x : Dev × List Byte × Option MemErr) p? => match p? with
            | some p =>
              if x.2.2.isSome then x
              else if x.1.objShut p.objBay p.objId p.off p.len then (x.1, x.2.1, some MemErr.noPerm)
              else (x.1.writePiece p (x.2.1.take p.len), x.2.1.drop p.len, if x.1.pieceCut p then some MemErr.uncorr else none)
            | none => x) (d, toLe r.len r.data, none) |> fun x => (x.1, x.2.2)
        answer d1 (match e with | some e => e.status | none => stOk) []
      | 2 =>
        let old := ((o.peers.find? fun e => e.1 == r.src).map (·.2)).getD 0
        let d1 := d.modObj o.bay o.id fun x => { x with peers := (r.src, old + r.len) :: x.peers.filter fun e => e.1 != r.src }
        answer d1 stOk [o.size, if o.small then 1 else 0, o.exportMode, o.key]
      | _ =>
        let old := ((o.peers.find? fun e => e.1 == r.src).map (·.2)).getD 0
        let d1 := d.modObj o.bay o.id fun x =>
          { x with peers := (if old ≤ r.len then [] else [(r.src, old - r.len)]) ++ x.peers.filter fun e => e.1 != r.src }
        answer d1 stOk []

/-- What waited for the end of HOLD and of power hold goes on once neither holds: BAR4 accesses (16 R463). -/
def Dev.bar4Go (d : Dev) : Dev := if d.held || d.powerHold then d else d.bar4Drain

/-- Recompute HELD from the pin and the fabric holds (R448): an entry into hold counts; at release what waited goes on. -/
def Dev.holdUpdate (d : Dev) : Dev :=
  let pin := d.rbit .purlinHoldSts 0 1
  let fabric := d.fab.holds.any (·.active)
  let was := d.held
  let d1 := (d.sb .purlinHoldSts 0 2 fabric).sb .purlinHoldSts 0 0 (pin || fabric)
  if (pin || fabric) && !was then (d1.addS .purlinHoldCount 0 1).wr .purlinHoldLast 0 d.now
  else if !(pin || fabric) && was then
    let d2 := (d1.fab.heldReqs.foldl (fun d r => d.serve r) (d1.modFab fun x => { x with heldReqs := [] }))
    d2.pump.bar4Go
  else d1

/-- PGOOD is high (HOSTIF_SIDEBAND, 16). -/
def Dev.pgood (d : Dev) : Bool := d.rbit .hostifSideband 0 1

/-- HOLD_PIN_ASSERT (R445): HOLD_IN_N is sampled low; HOLD_ACK_N goes low in the same beat. -/
def Dev.holdPinAssert (d : Dev) : Dev :=
  let d1 := d.sb .hostifSideband 0 4 false
  if !d.pgood then d1 else ((d1.sb .hostifSideband 0 5 false).sb .purlinHoldSts 0 1 true).holdUpdate

/-- HOLD_PIN_RELEASE (R445): HOLD_IN_N is sampled high. -/
def Dev.holdPinRelease (d : Dev) : Dev :=
  let d1 := d.sb .hostifSideband 0 4 true
  if !d.pgood then d1 else ((d1.sb .hostifSideband 0 5 true).sb .purlinHoldSts 0 1 false).holdUpdate

/-- Send a HOLD frame, or its release, to the LIVE peers: id, origin, scope, domain, START, END. -/
def Dev.spreadHold (d : Dev) (words : List Nat) : Dev := d.livePeers.foldl (fun d n => d.sendFrame n 0 fkHold words 40) d

/-- A module in scope schedules a hold or, for an HOLD_ID it knows, sets its END (R447). -/
def Dev.takeHold (d : Dev) (id origin start stop : Nat) (arrived : Bool) : Dev :=
  let late := arrived && decide (start < d.now)
  let d1 := if late then d.addS .purlinHoldLate 0 1 else d
  if stop ≠ 0 && decide (stop ≤ d.now) then (if late || !arrived then d1 else d.addS .purlinHoldLate 0 1)
  else
    (d1.modFab fun x => { x with holds := x.holds ++ [{ id := id, origin := origin, start := start, stop := stop, active := decide (start ≤ d.now) }] }).holdUpdate

/-- The END of a hold is set. -/
def Dev.endHold (d : Dev) (id stop : Nat) : Dev :=
  (d.modFab fun x => { x with holds := (x.holds.map fun h => if h.id = id then { h with stop := stop } else h).filter fun h =>
    !(h.id == id && h.stop != 0 && decide (h.stop ≤ d.now)) }).holdUpdate

/-- A new hold of this module: START, END, SCOPE. Its HOLD_ID is a number the spec leaves open. -/
def Dev.beginHold (d : Dev) (start stop scope : Nat) : Dev :=
  let id := Config.freeNat d.free % 2 ^ 32
  let d1 := d.tick.modFab fun x => { x with lastHold := some id, seenHolds := x.seenHolds ++ [(id, 0)] }
  (d1.spreadHold [id, d.self, scope, d.domain, start, stop, 0]).takeHold id d.self start stop false

/-- HOLD_GO: bay 0 writes PURLIN_HOLD_CTRL with GO. -/
def Dev.holdGo (d : Dev) (v : Nat) : Dev :=
  if !bitAt v 0 || !inRange 1 2 (fld v 2 2) then d
  else (d.sf .purlinHoldCtrl 0 2 2 (fld v 2 2)).beginHold (d.rd .purlinHoldStart 0) (d.rd .purlinHoldEnd 0) (fld v 2 2)

/-- HOLD_RELEASE: bay 0 writes PURLIN_HOLD_CTRL with RELEASE. -/
def Dev.holdRelease (d : Dev) (v : Nat) : Dev :=
  match d.fab.lastHold with
  | none => d
  | some id =>
    if !bitAt v 1 || !inRange 1 2 (fld v 2 2) then d
    else
      let stop := d.rd .purlinHoldEnd 0
      let d1 := (d.sf .purlinHoldCtrl 0 2 2 (fld v 2 2)).modFab fun x => { x with seenHolds := x.seenHolds ++ [(id, 1)] }
      (d1.spreadHold [id, d.self, fld v 2 2, d.domain, d.rd .purlinHoldStart 0, stop, 1]).endHold id stop

/-- HOLD_FRAME_RX (R447): a module in scope forwards each HOLD_ID, and each release, once, and acts on it. -/
def Dev.holdFrameRx (d : Dev) (h : FrameHdr) (id origin scope domain start stop : Nat) (release : Bool) : Dev :=
  match d.accept h 0 with
  | (d, false) => d
  | (d, true) =>
    let key := (id, if release then 1 else 0)
    if !(scope == 2 || (scope == 1 && domain == d.domain)) || d.fab.seenHolds.contains key then d
    else
      let d1 := d.modFab fun x => { x with seenHolds := x.seenHolds ++ [key] }
      let d2 := d1.spreadHold [id, origin, scope, domain, start, stop, key.2]
      if release then d2.endHold id stop else d2.takeHold id origin start stop true

/-- FABRIC_HOLD_START (R447): the first beat edge at or after START. -/
def Dev.fabricHoldStart (d : Dev) (id : Nat) : Dev :=
  (d.modFab fun x => { x with holds := x.holds.map fun h => if h.id = id ∧ h.start ≤ d.now then { h with active := true } else h }).holdUpdate

/-- FABRIC_HOLD_END (R447, R448): the first beat edge at or after END. -/
def Dev.fabricHoldEnd (d : Dev) (id : Nat) : Dev :=
  (d.modFab fun x => { x with holds := x.holds.filter fun h => !(h.id == id && h.stop != 0 && decide (h.stop ≤ d.now)) }).holdUpdate

/-! ## Peer memory (14 R414 to R416; R446) -/

/-- PEER_REQUEST_RX: served from T1, after the end of a hold where one is on. -/
def Dev.peerRequestRx (d : Dev) (h : FrameHdr) (tag op bay obj key off len data : Nat) : Dev :=
  match d.accept h 1 with
  | (d, false) => d
  | (d, true) =>
    let r : PeerReq := { src := h.src, tag := tag, op := op, bay := bay, obj := obj, key := key, off := off, len := len, data := data }
    if d.held then d.modFab fun x => { x with heldReqs := x.heldReqs ++ [r] } else d.serve r

/-- PEER_RESPONSE_RX: the owner's answer for bytes of an object that this module maps: the bytes, or an error. -/
def Dev.peerResponseRx (d : Dev) (h : FrameHdr) (obj off len data : Nat) (err : Bool) : Dev :=
  match d.accept h 2 with
  | (d, false) => d
  | (d, true) =>
    let k := peerKey h.src obj off
    let gs := if len = 0 then [] else upFrom (k / 64) ((k + len - 1) / 64 - k / 64 + 1)
    if err then { d with peerBad := gs.foldl (fun m g => smPut m g ()) d.peerBad }
    else { d with peerMem := writeBytes d.peerMem k (toLe len data), peerBad := gs.foldl smDel d.peerBad }

/-! ## Purlin time (R440 to R444) -/

/-- PURLIN_SET: the master's time, while READY is clear; beats fall on multiples of 4 ns. -/
def Dev.purlinSet (d : Dev) (v : Nat) : Dev :=
  if !d.rbit .purlinCtrl 0 0 || d.ready || !d.stepDone 1 then d else { d with now := v / 4 * 4 }

/-- PPS_EDGE (R441): recorded; the master with PPS_EN slews to the nearest multiple of 10⁹ ns. -/
def Dev.ppsEdge (d : Dev) : Dev :=
  if !d.stepDone 1 then d
  else
    let d1 := d.wr .purlinPpsLast 0 d.now
    if !d.rbit .purlinCtrl 0 0 || !d.rbit .purlinCtrl 0 1 then d1
    else
      let r := d.now % 1000000000
      let off : Int := if r < 500000000 then -(r : Int) else 1000000000 - (r : Int)
      d1.modFab fun x => { x with time := { x.time with slew := 16 * off } }

/-- TIME_REQ_TIMER (R442): every 125 µs a follower asks its parent; `t1`: the request's departure in 1/16 ns. -/
def Dev.timeReqTimer (d : Dev) (t1 : Nat) : Dev :=
  let p := d.fd .purlinCtrl 0 4 5
  if d.rbit .purlinCtrl 0 0 || !d.portUp? p || (d.fab.time.t1.isSome && decide (d.now < d.fab.time.reqAt + 125000)) then d
  else
    (d.modFab fun x => { x with time := { x.time with reqAt := d.now, t1 := some (t1 : Int) } }).portSend p 0 fkTimeReq [t1] 64

/-- TIME_REQ_RX: the parent answers with its arrival `t2` and departure `t3` and the request's CORRECTION. -/
def Dev.timeReqRx (d : Dev) (h : FrameHdr) (t2 t3 : Nat) (corr : Int) : Dev :=
  if !d.portUp? h.port then d
  else (d.modPeer h.src fun p => if p.inc = h.inc ∧ p.st = 1 then { p with lastRx := d.now } else p).portSend h.port 0 fkTimeResp
    [t2, t3, unsigned 64 corr] 64

/-- θ of an exchange in 1/16 ns (R442): all times in 1/16 ns. -/
def theta (t1 t2 t3 t4 cReq cResp asym : Int) : Int := ((t2 - t1 - cReq) - (t4 - t3 - cResp) - asym) / 2

/-- TIME_RESP_RX (R442, R443): θ, the state, and a step before VALID or a slew after it. The bound on the error is a value
the spec leaves open. -/
def Dev.timeRespRx (d : Dev) (h : FrameHdr) (t2 t3 t4 : Nat) (cReq cResp : Int) : Dev :=
  match d.fab.time.t1 with
  | none => d
  | some t1 =>
    if d.rbit .purlinCtrl 0 0 || h.port ≠ d.fd .purlinCtrl 0 4 5 || !d.portUp? h.port then d
    else
      let th := theta t1 t2 t3 t4 cReq cResp (signed 16 (d.rd .reedlinePortAsym h.port))
      let near := decide (-32 ≤ th) && decide (th ≤ 32)
      let n := if near then d.fab.time.close + 1 else 0
      let st := d.fd .purlinSts 0 0 2
      let st1 := if n ≥ 8 then 2
        else if st = 2 && decide (-80 ≤ th) && decide (th ≤ 80) then 2 else 1
      let hops := match d.peer? h.src with | some p => if p.hops ≥ 0xFE then 0xFF else p.hops + 1 | none => 0xFF
      let valid := d.rbit .purlinSts 0 2 || st1 == 2
      let d1 := ((d.wr .purlinOffset 0 (unsigned 32 th)).wr .purlinErrEst 0 (Config.freeNat d.free % 2 ^ 32)).tick
      let d2 := d1.wr .purlinSts 0 (mkFields [(0, 2, st1), (2, 1, if valid then 1 else 0), (4, 8, hops)])
      let d3 := (d2.modPeer h.src fun p => if p.inc = h.inc ∧ p.st = 1 then { p with lastRx := d.now } else p).modFab fun x =>
        { x with time := { x.time with okAt := d.now, close := if st = 2 && st1 != 2 then 0 else n, slew := if valid then th else 0 } }
      if valid || th = 0 then d3
      else { d3 with now := ((16 * (d.now : Int) + th) / 16 / 4 * 4).toNat }.addS .purlinSteps 0 1

/-- PURLIN_HOLDOVER (R443): no exchange has succeeded for 1 ms. -/
def Dev.purlinHoldover (d : Dev) : Dev :=
  let st := d.fd .purlinSts 0 0 2
  if d.rbit .purlinCtrl 0 0 || (st ≠ 1 && st ≠ 2) || d.now < d.fab.time.okAt + 1000000 then d
  else (d.sf .purlinSts 0 0 2 3).modFab fun x => { x with time := { x.time with close := 0 } }

/-- A write of PURLIN_CTRL makes a module the master: LOCKED by definition (R443). -/
def Dev.becomeMaster (d : Dev) : Dev :=
  if d.rbit .purlinCtrl 0 0 then d.wr .purlinSts 0 (mkFields [(0, 2, 2), (2, 1, 1)]) else d

/-! ## Ethernet (R437 to R439, R451) -/

/-- Send on an Ethernet port. DESIGN CHOICE log 44: how many bytes the packets take is a free number. -/
def Dev.ethSend (d : Dev) (e kind : Nat) (words : List Nat) : Dev :=
  ((d.addW .ethPortTxBytes e (Config.freeNat d.free)).tick).send .ethernet kind words

/-- A connection; unlisted handles are FREE. -/
def Dev.conn (d : Dev) (h : Nat) : Conn := smGet {} d.fab.conns h
def Dev.setConn (d : Dev) (h : Nat) (c : Conn) : Dev := d.modFab fun x => { x with conns := smSet {} x.conns h c }

/-- The handle that the ETH_CONN registers show. -/
def Dev.connSel (d : Dev) : Nat := d.fd .ethConnSel 0 0 12

/-- CONN_ALLOC: FREE to INIT with a local QPN of the module's choice. -/
def Dev.connAlloc (d : Dev) (v : Nat) : Dev :=
  let c := d.conn d.connSel
  if fld v 0 2 ≠ 1 || c.st ≠ 0 then d
  else (d.setConn d.connSel { st := 1, lqpn := Config.freeNat d.free % 2 ^ 24 }).tick

/-- CONN_CONNECT: INIT to RTS. -/
def Dev.connConnect (d : Dev) (v : Nat) : Dev :=
  let c := d.conn d.connSel
  if fld v 0 2 ≠ 2 || c.st ≠ 1 then d else d.setConn d.connSel { c with st := 2 }

/-- CONN_DESTROY: FREE again. -/
def Dev.connDestroy (d : Dev) (v : Nat) : Dev := if fld v 0 2 ≠ 3 then d else d.setConn d.connSel {}

/-- ROCE_PACKET_RX (R438): a congestion notification for connection `c` lowers its injection rate; an inbound request is answered
with a NAK for a remote access error. -/
def Dev.rocePacketRx (d : Dev) (e c psn : Nat) (cnp : Bool) : Dev :=
  if e ≥ 4 || !d.rbit .ethPortSts e 0 then d
  else if cnp then
    let x := d.conn c
    let d1 := d.addW .ethPortCnpRx e 1
    if x.st = 2 then d1.setConn c { x with cuts := x.cuts + 1 } else d1
  else d.ethSend e 2 [e, psn]

/-- ETH_LINK_CHANGE (R451): FASCIA_PORTS shows the link too. -/
def Dev.ethLinkChange (d : Dev) (e : Nat) (up : Bool) : Dev :=
  if e ≥ 4 || (up && !(d.rbit .ethPortCtrl e 0 && (d.rbit .bringStepRun 0 10 || d.stepDone 10))) then d else d.sb .ethPortSts e 0 up

end Sys2Proof.Machine
end

