-- ==== Sys2Proof/Machine/Sched.lean ====
section
/-!
DEFINITION. Machine/Sched.lean: the scheduler of the Thatch slots (13 R391 to R393).
Where the spec is silent or is read by inference: DEDUCED log 26 (notes/assumptions).
-/
namespace Sys2Proof.Machine

/-- The common denominator in which virtual times are held, so that every division by a weight is exact. -/
def vtUnit : Nat := (upFrom 1 255).foldl Nat.lcm 1

/-- A bay's virtual time. -/
def Dev.vt (d : Dev) (b : Nat) : Nat := smGet 0 d.sched.vt b

/-- Change the scheduler. -/
def Dev.modSched (d : Dev) (f : SchedSt → SchedSt) : Dev := { d with sched := f d.sched }

/-- The unit on a slot, the SQ that reserves it, and their change. -/
def SchedSt.slot (s : SchedSt) (e : Nat) : Option (SUnit × Nat) := if e = 0 then s.slot0 else s.slot1
def SchedSt.reserved (s : SchedSt) (e : Nat) : Option Nat := if e = 0 then s.reserved0 else s.reserved1
def SchedSt.setSlot (s : SchedSt) (e : Nat) (x : Option (SUnit × Nat)) : SchedSt := if e = 0 then { s with slot0 := x } else { s with slot1 := x }
def SchedSt.setReserved (s : SchedSt) (e : Nat) (x : Option Nat) : SchedSt :=
  if e = 0 then { s with reserved0 := x } else { s with reserved1 := x }

/-- The slots a unit needs (R391): the one of the joined array, or those of its roles; in early service Ridge alone. -/
def Dev.slotsOf (d : Dev) (u : SUnit) : List Nat :=
  if !d.split || !d.ready then [0]
  else (if u.fwd then [0] else []) ++ (if u.bwd then [1] else [])

/-- A unit becomes ready; its bay's virtual time follows where it had none ready (R392). -/
def Dev.unitReady (d : Dev) (u : SUnit) : Dev :=
  let others := (d.sched.ready.filter fun x => x.bay != u.bay).map fun x => d.vt x.bay
  let had := d.sched.ready.any fun x => x.bay == u.bay
  d.modSched fun s =>
    { s with
      ready := s.ready ++ [{ u with since := d.now }]
      vt := match had, others with
        | false, v :: r => smSet 0 s.vt u.bay (max (d.vt u.bay) (r.foldl min v))
        | _, _ => s.vt }

/-- The earlier deadline comes first, none last; ties by the earlier start, then the lower bay. -/
def SUnit.hiBefore (x y : SUnit) : Bool :=
  if x.deadline ≠ y.deadline then x.deadline != 0 && (y.deadline == 0 || decide (x.deadline < y.deadline))
  else if x.order ≠ y.order then decide (x.order < y.order) else decide (x.bay < y.bay)

/-- The least member under an order, the first on ties. -/
def leastBy {α : Type} (lt : α → α → Bool) : List α → Option α
  | [] => none
  | x :: r => some (r.foldl (fun m y => if lt y m then y else m) x)

/-- next_unit of R392 over the ready units that need slot `e`. -/
def Dev.nextUnit (d : Dev) (e : Nat) : Option SUnit :=
  let ready := d.sched.ready.filter fun u => (d.slotsOf u).contains e
  match leastBy SUnit.hiBefore (ready.filter (·.high)) with
  | some u => some u
  | none => leastBy (fun x y : SUnit =>
      if x.bay ≠ y.bay then decide (d.vt x.bay < d.vt y.bay) || (d.vt x.bay == d.vt y.bay && decide (x.bay < y.bay))
      else decide (x.order < y.order)) ready

/-- A unit takes its slots; a HIGH_CLASS wait is measured (R393). -/
def Dev.takeSlots (d : Dev) (u : SUnit) : Dev :=
  let es := d.slotsOf u
  let d1 := d.modSched fun s =>
    let s1 := { s with ready := s.ready.filter fun x => x.sq != u.sq
                       reserved0 := if s.reserved0 == some u.sq then none else s.reserved0
                       reserved1 := if s.reserved1 == some u.sq then none else s.reserved1 }
    es.foldl (fun s e => s.setSlot e (some (u, d.now))) s1
  if u.high then d1.wr .bayHighWaitMax u.bay (max (d1.rd .bayHighWaitMax u.bay) (min (d.now - u.since) (2 ^ 32 - 1))) else d1

/-- Can the unit take every slot it needs? -/
def Dev.slotsFree (d : Dev) (u : SUnit) : Bool :=
  (d.slotsOf u).all fun e => (d.sched.slot e).isNone && (match d.sched.reserved e with | some q => q == u.sq | none => true)

/-- The unit that reserved one slot and can take both now: it does so before any other is chosen (R392). -/
def Dev.waitingBoth (d : Dev) : Option SUnit :=
  d.sched.ready.find? fun u => (d.sched.reserved0 == some u.sq || d.sched.reserved1 == some u.sq) && d.slotsFree u

/-- SCHED_PICK: an idle slot is given to the next unit, or reserved for it (R392); none is while a configuration
switch is requested or runs (04 R110). -/
def Dev.schedPick (d : Dev) (e : Nat) : Dev :=
  if e > 1 || (e = 1 && (!d.split || !d.ready)) || !d.thatchAdmits || (d.sched.slot e).isSome then d
  else match d.waitingBoth with
  | some u => d.takeSlots u
  | none => match d.sched.reserved e with
    | some q => match d.sched.ready.find? fun u => u.sq == q with
      | some u => if d.slotsFree u then d.takeSlots u else d
      | none => d.modSched fun s => s.setReserved e none
    | none => match d.nextUnit e with
      | none => d
      | some u => if d.slotsFree u then d.takeSlots u else d.modSched fun s => s.setReserved e (some u.sq)

/-- A unit ends: its slots are freed and charged (R392, R393), and a unit that reserves one takes both when it can. -/
def Dev.freeSlots (d : Dev) (q : Nat) : Dev :=
  let held := [0, 1].filter fun e => match d.sched.slot e with | some (u, _) => u.sq == q | none => false
  match held with
  | [] => d.modSched fun s => { s with ready := s.ready.filter fun x => x.sq != q
                                       reserved0 := if s.reserved0 == some q then none else s.reserved0
                                       reserved1 := if s.reserved1 == some q then none else s.reserved1 }
  | e0 :: _ => match d.sched.slot e0 with
    | none => d
    | some (u, t0) =>
      let t := d.now - t0
      let n := held.length
      let d1 := d.modSched fun s =>
        held.foldl (fun s e => s.setSlot e none) { s with vt := smSet 0 s.vt u.bay (d.vt u.bay + n * t * 256 * vtUnit / max 1 (d.fd .bayWeight u.bay 0 8)) }
      let d2 := d1.addW .bayThatchNs u.bay (n * t)
      let d3 := if u.kernel && decide (t > 4000000) then d2.addS .bayLongKernels u.bay 1 else d2
      if !d3.thatchAdmits then d3
      else [0, 1].foldl (fun d e => match d.sched.reserved e with
        | some r => (match d.sched.ready.find? fun x => x.sq == r with
          | some x => if d.slotsFree x then d.takeSlots x else d
          | none => d)
        | none => d) d3

end Sys2Proof.Machine
end

