-- ==== Sys2Proof/Machine/Stream.lean ====
section
/-!
DEFINITION. Machine/Stream.lean: the copies of a KERNEL (06 R178 to R185): LINEAR and STRIDED copies by units, and streams with their
run-ahead.
Where the spec is silent or is read by inference: DESIGN CHOICE logs 6, 58; DEDUCED logs 22, 48 (notes/assumptions).
-/
namespace Sys2Proof.Machine

/-! ## Streams (R181 to R185) -/

/-- Chunks of a stream. -/
def CopyDesc.chunks (k : CopyDesc) : Nat := ceilDiv k.len k.chunk

/-- The copy engine of chunk `n` of a stream: that of the work unit of its first byte (R169). -/
def CopyDesc.chunkEng (k : CopyDesc) (g : Engines) (n : Nat) : Nat := g.at_ (n * k.chunk / unitBytes)

/-- Add to a prefetch counter of the bay and of the engines of chunks (R183). -/
def Dev.pf (d : Dev) (b : Nat) (g : Engines) (k : CopyDesc) (rb re : Reg) (ns : List Nat) : Dev :=
  ns.foldl (fun d n => d.addW re (k.chunkEng g n) 1) (d.addW rb b ns.length)

/-- A prefetched chunk is used; each sixteenth ends an epoch and, with ADAPT, sets the distance (R184). -/
def StreamSt.useOne (k : CopyDesc) (s : StreamSt) (late : Bool) : StreamSt :=
  let n := s.epochLate + if late then 1 else 0
  if s.epochUsed + 1 < 16 then { s with epochUsed := s.epochUsed + 1, epochLate := n }
  else
    let s0 := { s with epochUsed := 0, epochLate := 0 }
    if !k.adapt then s0
    else if n ≥ 1 then { s0 with dist := min (2 * s.dist) k.raMax, calm := 0 }
    else if s.calm + 1 = 4 then { s0 with dist := max (s.dist - k.chunk) k.raMin, calm := 0 }
    else { s0 with calm := s.calm + 1 }

/-- Account for the chunks that the consumer's counter `c` has passed (R183, R184): the stream after it, and the prefetched chunks that
are used now. A chunk that has both landed and been passed is forgotten. -/
def streamUse (k : CopyDesc) (c : Nat) (s : StreamSt) : StreamSt × List Nat :=
  let now := s.chunks.filter fun e => decide (e.1 < c) && e.2.pre && !e.2.used
  let s1 := now.foldl (fun s e => s.useOne k e.2.late) s
  ({ s1 with
     passed := max s.passed c
     chunks := s.chunks.filterMap fun e => if e.1 < c then (if e.2.landed then none else some (e.1, { e.2 with used := true })) else some e },
   now.map (·.1))

/-- End a stream (R181, R183): what the consumer has passed counts as USED, its other prefetches as EVICTED. -/
def Dev.endStream (d : Dev) (b : Nat) (g : Engines) (k : CopyDesc) (s0 : StreamSt) : Dev :=
  let (s, used) := streamUse k (d.loftCounter k.cons) s0
  ((d.pf b g k .pfstatUsed .pfstatEngUsed used).pf b g k .pfstatEvicted .pfstatEngEvicted
    ((s.chunks.filter fun e => e.2.pre && !e.2.used).map (·.1))).addW .pfstatStreams b 1

/-- Is every source byte of a chunk in pages that are mapped with PREFETCHABLE (R182)? -/
def Dev.prefetchable (d : Dev) (b va n : Nat) : Bool := (d.pieces b va n).all fun p? => match p? with
  | some p => p.prefetch
  | none => false

/-- Count a drop of chunk `n` under R182, with the first of the interval remembered (R185). -/
def Dev.countDrop (d : Dev) (b : Nat) (g : Engines) (k : CopyDesc) (n : Nat) : Dev :=
  ((d.pf b g k .pfstatDropped .pfstatEngDropped [n]).addS .pfstatPendingDrops b 1).modBay b fun x =>
    { x with firstDrop := match x.firstDrop with | none => some (k.src + n * k.chunk) | f => f }

/-- STREAM_FETCH: the stream of entry `i` takes its next chunk, as a demand fetch, a prefetch or a drop. -/
def Dev.streamFetch (d : Dev) (q i : Nat) : Dev :=
  match d.entry? q i with
  | none => d
  | some (c, _, e) =>
    match e.st, parseCopy (e.desc % 2 ^ 1536) with
    | .stream s0, some k =>
      if !d.enginesRun then d
      else
        let g := c.engines k.dies i
        let cc := d.loftCounter k.cons
        if cc ≥ k.chunks then (d.endStream c.bay g k s0).setEntry q i .finished
        else
          let (s, used) := streamUse k cc s0
          let d1 := d.pf c.bay g k .pfstatUsed .pfstatEngUsed used
          -- a dropped chunk that the consumer has reached is fetched on demand
          let n := if s.dropped.contains cc && s.passed ≤ cc then cc else s.next
          let va := k.src + n * k.chunk
          let len := min k.chunk (k.len - n * k.chunk)
          let slots := k.ring / k.chunk
          if n ≥ k.chunks || !(decide (n ≤ cc + s.dist / k.chunk) && decide (n < cc + slots)) then d1.setEntry q i (.stream s)
          else if n = cc then
            if d1.unmapped c.bay false ⟨.va, va, len⟩ then (d1.endStream c.bay g k s).failEntry q i stNotMapped
            else (d1.pf c.bay g k .pfstatDemand .pfstatEngDemand [n]).setEntry q i
                (.stream { s with next := max s.next (n + 1), dropped := s.dropped.filter (· != n), chunks := smPut s.chunks n { pre := false } })
          else if d1.prefetchable c.bay va len then
            (d1.pf c.bay g k .pfstatIssued .pfstatEngIssued [n]).setEntry q i
              (.stream { s with next := n + 1, chunks := smPut s.chunks n { pre := true } })
          else (d1.countDrop c.bay g k n).setEntry q i (.stream { s with next := n + 1, dropped := n :: s.dropped })
    | _, _ => d

/-- The prefix of chunks written grows over those written beyond it. -/
def writtenPrefix (ahead : List Nat) : Nat → Nat → Nat
  | 0, n => n
  | fuel + 1, n => if ahead.contains n then writtenPrefix ahead fuel (n + 1) else n

/-- Chunk `n` has landed: it counts as written (R179), and it is forgotten once the consumer has passed it. -/
def StreamSt.land (s : StreamSt) (n : Nat) (late : Bool) : StreamSt :=
  let ahead := n :: s.ahead
  let w := writtenPrefix ahead ahead.length s.written
  { s with
    chunks := match smFind s.chunks n with
      | some h => if h.used then smDel s.chunks n else smPut s.chunks n { h with landed := true, late := late }
      | none => s.chunks
    written := w, ahead := ahead.filter fun x => decide (w ≤ x) }

/-- STREAM_CHUNK_LANDED: chunk `n` of the stream of entry `i` is written into its ring slot. -/
def Dev.streamLanded (d : Dev) (q i n : Nat) : Dev :=
  match d.entry? q i with
  | none => d
  | some (c, _, e) =>
    match e.st, parseCopy (e.desc % 2 ^ 1536) with
    | .stream s, some k => match smFind s.chunks n with
      | none => d
      | some h =>
        if !d.enginesRun || h.landed then d
        else
          let g := c.engines k.dies i
          let mask := maskSlices k.mask
          let va := k.src + n * k.chunk
          let len := min k.chunk (k.len - n * k.chunk)
          let slot := k.dst + n % (k.ring / k.chunk) * k.chunk
          let fail (d : Dev) (er : MemErr) (rs : List Rng) : Dev :=
            ((if er = .uncorr then d.faultFirst c rs else d).endStream c.bay g k s).failEntry q i er.status
          match d.engStruck g (unitsOf (n * k.chunk) len), d.readVa c.bay va len with
          | some x, _ => ((d.engParity x).endStream c.bay g k s).failEntry q i stUncorr
          | none, .error er => fail d er [⟨.va, va, len⟩]
          | none, .ok bs =>
            match (d.flashRead c.bay ⟨.va, va, len⟩).writeAll c.bay .loft mask slot bs with
            | (d1, some er) => fail d1 er ((spread .loft mask slot).map fun a => ⟨.loft, a, len⟩)
            | (d1, none) =>
              let late := h.pre && d.loftCounter k.cons == n
              let d2 := if late then d1.pf c.bay g k .pfstatLate .pfstatEngLate [n] else d1
              let s1 := s.land n late
              let d3 := (d2.engSpan g .pfstatEngBytesRd 1 (n * k.chunk) len).engSpan g .pfstatEngBytesWr (max 1 mask.length) (n * k.chunk) len
              (d3.setEntry q i (.stream s1)).putCounter c q i k.done s1.written
    | _, _ => d

/-- PF_DROP_SUMMARY: the summary interval of a bay ends, PFSTAT_SUMMARY_US after it began (R185). With PFSTAT_CTRL.DROP_EVENT 0 the drops
stay uncounted; the extra word is open where none of them lies in the interval that ends. -/
def Dev.pfDropSummary (d : Dev) (b : Nat) : Dev :=
  if b ≥ 16 || d.now < (d.bay b).summaryAt + 1000 * d.rd .pfstatSummaryUs b then d
  else
    let n := d.rd .pfstatPendingDrops b
    let first := (d.bay b).firstDrop
    let d1 := d.modBay b fun x => { x with firstDrop := none, summaryAt := d.now }
    if n = 0 || !d.rbit .pfstatCtrl b 1 then d1
    else match first with
      | some va => (d1.event b 0x0011 n va).wr .pfstatPendingDrops b 0
      | none => ((d1.event b 0x0011 n (Config.freeNat d1.free % 2 ^ 64)).wr .pfstatPendingDrops b 0).tick

/-- PFSTAT_RESET: bay `b`'s counters at 0x010 to 0x040 are zeroed (R189). -/
def Dev.pfstatReset (d : Dev) (b : Nat) : Dev :=
  [Reg.pfstatIssued, .pfstatUsed, .pfstatLate, .pfstatEvicted, .pfstatDemand, .pfstatDropped, .pfstatStreams].foldl
    (fun d r => d.wr r b 0) d

/-! ## Copies in a KERNEL (R178, R179) -/

/-- COPY_DESC_START: the copy of entry `i` starts once its wait counter allows. -/
def Dev.copyDescStart (d : Dev) (q i : Nat) : Dev :=
  match d.entry? q i with
  | none => d
  | some (c, k, e) =>
    match e.st, parseCopy (e.desc % 2 ^ 1536) with
    | .waiting, some cd =>
      if e.cls != 3 || k.stopped || !d.enginesRun || !d.diesUp cd.dies then d
      else if cd.waitLoft != 0xFFFFFFFF && decide (d.loftCounter cd.waitLoft < cd.waitCount) then d
      else if d.passed c then d.missKernel q
      else match d.copySpar c.bay cd with
        | .error s => d.failEntry q i s
        | .ok _ => (d.setEntry q i (if cd.kind = 3 then .stream { dist := cd.raInit } else .copy [])).putCounter c q i cd.done 0
    | _, _ => d

/-- Units `0 .. n - 1` all landed: the largest such n. -/
def unitPrefix (us : List Nat) : Nat → Nat → Nat
  | 0, n => n
  | fuel + 1, n => if us.contains n then unitPrefix us fuel (n + 1) else n

/-- Unit `n` of a LINEAR or STRIDED copy without compression. -/
def Dev.copyUnit (d : Dev) (c : Cmd) (g : Engines) (k : CopyDesc) (sp : Spar?) (n : Nat) : CopyOut :=
  if k.kind = 2 then d.copyPart c g k sp n 0 k.len else d.copyPart c g k sp 0 (n * k.chunk) (min k.len ((n + 1) * k.chunk))

/-- Units in order, up to the first that fails, whose number comes with it. -/
def copyUnits (c : Cmd) (g : Engines) (k : CopyDesc) (sp : Spar?) : Dev → List Nat → CopyOut × Option Nat
  | d, [] => ({ d := d }, none)
  | d, n :: r =>
    let o := d.copyUnit c g k sp n
    if o.bad.isSome then (o, some n)
    else let (o1, m) := copyUnits c g k sp o.d r; (o.join o1, m)

/-- Units that come after the one that failed are unspecified (R173), whether or not they were written before it. -/
def Dev.spoilUnits (d : Dev) (c : Cmd) (g : Engines) (k : CopyDesc) (n : Nat) : Dev :=
  if k.kind = 2 then spoilRows c g k d (upFrom (n + 1) (k.rows - n - 1))
  else match k.sf, k.df with
    | some s, some f => d.scrambleFrom c (k.convOf g s f none 0) ((n + 1) * k.chunk * f.elem.bits / 8) (k.fmtRows * f.rowLen)
    | _, _ => d.spoilBytes c k 0 ((n + 1) * k.chunk) k.len

/-- COPY_UNIT_DONE: unit `n` of the LINEAR or STRIDED copy of entry `i` is fully written; a compressed copy is written with its last unit.
Where a unit meets an error, every unit before it is written first (R173). -/
def Dev.copyUnitDone (d : Dev) (q i n : Nat) : Dev :=
  match d.entry? q i with
  | none => d
  | some (c, _, e) =>
    match e.st, parseCopy (e.desc % 2 ^ 1536) with
    | .copy us, some k =>
      if !d.enginesRun || !d.diesUp k.dies || us.contains n || n ≥ k.units then d
      else match d.copySpar c.bay k with
        | .error s => d.failEntry q i s
        | .ok sp =>
          let g := c.engines k.dies i
          let us' := n :: us
          let last := us'.length = k.units
          let go (o : CopyOut) (cnt : Nat) : Dev :=
            let d1 := o.d.reportOf c i o.nans o.rep
            match o.bad with
            | some s => (d1.failEntry q i s).putCounter c q i k.done cnt
            | none => (d1.setEntry q i (if last then .finished else .copy us')).putCounter c q i k.done cnt
          if k.pack != 0 then
            let o : CopyOut := if last then d.copyWhole c g k sp else { d := d }
            go o (if last && o.bad.isNone then k.units else 0)
          else
            let o := d.copyUnit c g k sp n
            if o.bad.isNone then go o (unitPrefix us' k.units 0)
            else
              let (o1, m) := copyUnits c g k sp d ((upFrom 0 (n + 1)).filter fun u => !us.contains u)
              let m := m.getD n
              go { o1 with d := o1.d.spoilUnits c g k m } (if k.kind = 2 then m else max m o1.done)
    | _, _ => d

end Sys2Proof.Machine
end

