-- ==== Sys2Proof/Machine/Kernel.lean ====
section
/-!
DEFINITION. Machine/Kernel.lean: KERNEL (13 R381, R382, R549): the image, the issue checks, and the end of an entry.
Where the spec is silent or is read by inference: DESIGN CHOICE log 6; DEDUCED log 22 (notes/assumptions).
-/
namespace Sys2Proof.Machine

/-- Bytes before the entries of an image of `n` entries. -/
def imageHead (n : Nat) : Nat := 64 + 64 * ceilDiv n 64

/-- The issue check of an entry (R382): the status that fails it; in early service the limits of Table 17-5 too. -/
def Dev.entryIssue (d : Dev) (b : Nat) (e : Entry) : Option Nat :=
  let late := d.ready
  match e.cls with
  | 1 => match parseThatch e.desc with
    | some o => if !late && (d.fmtShut o.fa || d.fmtShut o.fb || d.fmtShut o.fdst) then some stBadParam else d.thatchIssue b e.desc
    | none => some stBadParam
  | 2 => match parseLath e.desc with
    | some o => if !late && (o.fx.any d.fmtShut || o.fy.any d.fmtShut || o.fz.any d.fmtShut) then some stBadParam else d.lathIssue b e.desc
    | none => some stBadParam
  | 3 =>
    if e.desc ≥ 2 ^ 1536 then some stBadParam
    else match parseCopy e.desc with
      | some k => if d.copyShut k then some stBadParam else d.copyIssue b e.desc
      | none => some stBadParam
  | 4 => if !late then some stBusy else d.eaveIssue b e.desc
  | _ => some stBadParam

/-- The index and status of the first entry that fails its issue check. -/
def Dev.firstFail (d : Dev) (b : Nat) : Nat → List Entry → Option (Nat × Nat)
  | _, [] => none
  | i, e :: r => match d.entryIssue b e with
    | some s => some (i, s)
    | none => d.firstFail b (i + 1) r

/-- A KERNEL's roles: does it hold Thatch operations of ROLE FWD, of ROLE BWD (R391)? -/
def kernelRole (es : List Entry) (bwd : Bool) : Bool :=
  es.any fun e => e.cls == 1 && (match parseThatch e.desc with | some o => o.bwd == bwd | none => false)

/-- KERNEL: the image is read and checked; then its entries may start. -/
def Dev.kernelCmd (d : Dev) (q : Nat) : Dev :=
  match d.running? q 0x20 with
  | none => d
  | some c =>
    let va := c.at 16 8
    let n := c.at 24 4
    if (d.kernel? q).isSome || !d.enginesRun then d
    else if !c.only 1 [(16, 0, 48), (24, 0, 32)] || !aligned va 6 || n < 64 then d.complete c stBadParam 0 noOp
    else if c.trapped then d.complete c stAborted 0 noOp
    else match d.readVa c.bay va n with
      | .error e => ((if e = .uncorr then d.faultIn c va n else d).complete c e.status 0 noOp)
      | .ok bs =>
        let head := ofLe (bs.take 64)
        let level := bytesAt head 0 4
        let mine := d.fd .reedlineLevel 0 0 16
        let count := bytesAt head 4 2
        let c0 := imageHead count
        if !onlyFields head 512 [(0, 32), (32, 16)] || (level != mine && level + 1 != mine) || !inRange 1 4096 count
            || n != c0 + 256 * count || ((bs.drop (64 + count)).take (c0 - 64 - count)).any (· != 0) then d.complete c stBadParam 0 noOp
        else
          let es : List Entry := (((bs.drop 64).take count).zip (chunksOf 256 count (bs.drop c0))).map fun e =>
            { cls := e.1.toNat, desc := ofLe e.2 }
          match d.firstFail c.bay 0 es with
          | some (i, s) => d.complete c s 0 i
          | none =>
            let d1 := { d with kernels := d.kernels ++ [{ sq := q, entries := es, started := d.now }] }
            let f := kernelRole es false
            let w := kernelRole es true
            if f || w then
              d1.unitReady { sq := q, bay := c.bay, high := c.highClass, deadline := c.deadline, order := c.order, fwd := f, bwd := w
                             kernel := true, since := d.now }
            else d1

/-- The STREAM copies that have not ended are cancelled (R180), the ones whose wait counter never allowed them to start too (log 6). -/
def cancelStreams (c : Cmd) (q : Nat) (stopped : Bool) : Dev → Nat → List Entry → Dev
  | d, _, [] => d
  | d, i, e :: r =>
    let next (d : Dev) : Dev := cancelStreams c q stopped d (i + 1) r
    match e.st, parseCopy (e.desc % 2 ^ 1536) with
    | .stream s, some k => next ((d.endStream c.bay (c.engines k.dies i) k s).setEntry q i .ended)
    | .waiting, some k => if e.cls = 3 && k.kind = 3 && !stopped then next (d.setEntry q i .ended) else next d
    | _, _ => next d

/-- The status and EXTRA of a KERNEL that ends (R549). -/
def KernelRun.verdict (k : KernelRun) : Nat × Nat :=
  let is := (upFrom 0 k.entries.length).zip k.entries
  match is.findSome? fun e => match e.2.st with | .failed s => some (s, e.1) | _ => none with
  | some x => x
  | none => match is.find? (fun e : Nat × Entry => e.2.st == .waiting) with
    | some e => if k.missed then (stDeadline, e.1) else (stOk, noOp)
    | none => (stOk, noOp)

/-- Is the entry a STREAM copy that runs or waits for its counter? The KERNEL does not wait for it (R180). -/
def Entry.isStream (e : Entry) : Bool :=
  match e.st with
  | .stream _ => true
  | .waiting => e.cls == 3 && fld e.desc 0 4 == 3
  | _ => false

/-- May the KERNEL complete (R180, R549)? Nothing but streams runs, every other entry has ended or none more may start, and its
values are off the first-course ring (R275). -/
def Dev.kernelOver (d : Dev) (k : KernelRun) : Bool :=
  !(k.entries.any fun e => e.st.live && !e.isStream)
  && (k.stopped || k.entries.all fun e => e.st.isOver || e.isStream)
  && !(d.passes.any fun p => p.sq == k.sq)

/-- The KERNEL on SQ `q` completes if it may. -/
def Dev.kernelDone (d : Dev) (q : Nat) : Dev :=
  match d.running? q 0x20, d.kernel? q with
  | some c, some k =>
    if !d.kernelOver k then d
    else
      let d1 := cancelStreams c q k.stopped d 0 k.entries
      let k1 := (d1.kernel? q).getD k
      let (s, x) := k1.verdict
      let n := (k1.entries.filter fun e => e.st == .ended).length
      let d2 := { d1 with kernels := d1.kernels.filter fun k => k.sq != q }
      (d2.freeSlots q).finish q s n x
  | _, _ => d

/-- KERNEL_ENTRY_END: the end of entry `i` is processed, and the KERNEL completes once all have ended. -/
def Dev.kernelEntryEnd (d : Dev) (q i : Nat) : Dev :=
  match d.entry? q i with
  | none => d
  | some (_, _, e) => match e.st with
    | .finished => (d.setEntry q i .ended).kernelDone q
    | .failing s => (d.setEntry q i (.failed s)).kernelDone q
    | _ => d.kernelDone q

end Sys2Proof.Machine
end

