-- ==== Sys2Proof/Machine/Reduce.lean ====
section
/-!
DEFINITION. Machine/Reduce.lean: gradient reduction in three courses and the block collectives (10): handles, the first course's
passes, REDUCE RUN, ALLGATHER and ALLTOALL with their traffic and reports.
Where the spec is silent or is read by inference: DESIGN CHOICE log 16; DEDUCED logs 30, 55 (notes/assumptions).
-/
namespace Sys2Proof.Machine

def fkReport : Nat := 10
def fkRing : Nat := 11
def fkForm : Nat := 12
def fkBlock : Nat := 13

/-! ## Handles (R271, R289) -/

/-- Does a running operation of the bay use a handle? -/
def Dev.handleBusy (d : Dev) (b h : Nat) : Bool :=
  d.kernels.any fun k => (match (smFind d.sqs k.sq).bind (·.run) with | some c => c.bay == b | none => false) &&
    (k.entries.any fun e => e.cls == 1 && (match e.st, parseThatch e.desc with
      | .thatch _, some o => o.reduce && o.dLoft == h
      | .finished, some o => o.reduce && o.dLoft == h && d.passes.any (fun p => p.sq == k.sq)
      | _, _ => false))

/-- REDUCE with OP BIND. -/
def Dev.reduceBind (d : Dev) (q : Nat) : Dev :=
  match d.running? q 0x30 with
  | none => d
  | some c =>
    if c.bits 16 0 2 ≠ 0 then d
    else
      let h := c.at 20 4
      if !c.only 2 [(20, 0, 32), (32, 0, 48), (40, 0, 64)] || h ≥ 4096 || !aligned (c.at 32 6) 8 || !inRange 1 (2 ^ 40) (c.at 40 8) then
        d.complete c stBadParam 0
      else if d.handleBusy c.bay h then d.complete c stBusy 0
      else if c.trapped then d.complete c stAborted 0
      else if d.passed c then d.complete c stDeadline 0
      else
        (d.modBay c.bay fun x => { x with handles := smPut x.handles h { accVa := c.at 32 6, elements := c.at 40 8 } }).complete c stOk 0

/-- REDUCE with OP UNBIND. -/
def Dev.reduceUnbind (d : Dev) (q : Nat) : Dev :=
  match d.running? q 0x30 with
  | none => d
  | some c =>
    if c.bits 16 0 2 ≠ 1 then d
    else
      let h := c.at 20 4
      if !c.only 2 [(16, 0, 2), (20, 0, 32)] || h ≥ 4096 then d.complete c stBadParam 0
      else if d.handleBusy c.bay h then d.complete c stBusy 0
      else if c.trapped then d.complete c stAborted 0
      else if d.passed c then d.complete c stDeadline 0
      else (d.modBay c.bay fun x => { x with handles := smDel x.handles h }).complete c stOk 0

/-! ## The first course (R273, R274) -/

/-- Add one value into an accumulator element; the error it met. -/
def Dev.addAcc (d : Dev) (b acc x v : Nat) : Dev × Option MemErr :=
  match d.readVaNat b (acc + 4 * x) 4 with
  | .error e => (d, some e)
  | .ok a => d.writeVa b (acc + 4 * x) (toLe 4 (f32Add a (v * 2 ^ 16)))

/-- Must a pass wait for an earlier operation of its KERNEL on the same accumulator (R274)? -/
def Dev.passWaits (d : Dev) (p : FirstPass) : Bool :=
  (d.passes.any fun o => o.sq == p.sq && o.accVa == p.accVa && decide (o.entry < p.entry)) ||
  (match d.kernel? p.sq with
    | none => false
    | some k => (k.before p.entry).any fun e => match e.st, parseThatch e.desc with
      | .thatch r, some o => e.cls == 1 && o.reduce && r.accVa == p.accVa
      | _, _ => false)

/-- A travelling pass moves to the next die of the ring; where all 32 buffers there are in use, the first pass there that travels on makes
room, and so on around the ring (R275). Only what waits behind passes at home stays. -/
def pushOn : Nat → List FirstPass → Nat → Option (List FirstPass)
  | fuel, ps, n => match ps[n]? with
    | none => none
    | some p =>
      let x := ringNext p.die
      let ps1 := modAt ps n fun y => { y with die := x }
      if bufsAt ps1 x ≤ 32 then some ps1
      else match fuel with
        | 0 => none
        | k + 1 =>
          let j := ((upFrom 0 ps1.length).find? fun j => j != n && (match ps1[j]? with
            | some y => y.buf && y.die == x && y.owner != x
            | none => false))
          match j with
          | some j => pushOn k ps1 j
          | none => none

/-- Does an earlier pass of the same flow stand where pass number `n` stands? The Batten network keeps the order of messages of one
source, destination and class (01 R16). -/
def passBehind (ps : List FirstPass) (n : Nat) (p : FirstPass) : Bool :=
  (ps.take n).any fun x => x.src == p.src && x.owner == p.owner && x.die == p.die

/-- FIRST_COURSE_PASS: pass number `n` takes the buffer that it waits for, travels one die further, or is added at the die that owns it. -/
def Dev.firstCoursePass (d : Dev) (n : Nat) : Dev :=
  match d.passes[n]? with
  | none => d
  | some p =>
    if !d.enginesRun || passBehind d.passes n p then d
    else if !p.buf then
      (if bufsAt d.passes p.die < 32 then { d with passes := modAt d.passes n fun p => { p with buf := true } } else d)
    else if p.die ≠ p.owner then (match pushOn 16 d.passes n with
      | some ps => { d with passes := ps }
      | none => d)
    else if d.passWaits p then d
    else
      let (d1, e) := p.elems.foldl (fun (x : Dev × Option MemErr) v =>
        let (d2, e2) := x.1.addAcc p.bay p.accVa v.1 v.2
        (d2, match x.2 with | some e => some e | none => e2)) ({ d with passes := d.passes.eraseIdx n }, none)
      let d3 := match e with
        | none => d1
        | some e => d1.modEntry p.sq p.entry fun x => { x with st := if x.st.isOver then .failed e.status else .failing e.status }
      d3.kernelDone p.sq

/-! ## Groups and plans (R276 to R278, R286) -/

/-- Entries read one by one: `none` where one that can be read is broken, which comes before an error met at another (Table 10-7). -/
def allEntries {α : Type} : List (Except MemErr (Option α)) → Except MemErr (Option (List α))
  | [] => .ok (some [])
  | x :: r => match x, allEntries r with
    | .ok none, _ => .ok none
    | _, .ok none => .ok none
    | .error e, _ => .error e
    | _, .error e => .error e
    | .ok (some a), .ok (some l) => .ok (some (a :: l))

/-- The group object at an address: its members, `none` where it is broken, or the error that reading it met. -/
def Dev.readGroup (d : Dev) (b va : Nat) : Except MemErr (Option (List Member)) :=
  match d.readVaNat b va 16 with
  | .error e => .error e
  | .ok h =>
    let n := bytesAt h 0 4
    if !inRange 2 32768 n || h ≥ 2 ^ 32 then .ok none
    else allEntries ((upFrom 0 n).map fun i => match d.readVaNat b (va + 16 + 8 * i) 8 with
      | .error x => .error x
      | .ok e => .ok (if onlyFields e 64 [(0, 15), (16, 10), (32, 4)] then
          some { dev := fld e 0 15, domain := fld e 16 10, bay := fld e 32 4 } else none))

/-- The bytes of a group object, as far as its header tells. -/
def Dev.groupLen (d : Dev) (b va : Nat) : Nat := match d.readVaNat b va 4 with
  | .ok n => 16 + 8 * min n 32768
  | .error _ => 16

/-- This module's rank in a group, for a bay. -/
def Dev.rankIn (d : Dev) (b : Nat) (g : List Member) : Option Nat :=
  let i := g.findIdx fun m => m.dev == d.self && m.bay == b
  if i < g.length then some i else none

/-- Strictly ascending. -/
def ascending : List Nat → Bool
  | a :: b :: r => decide (a < b) && ascending (b :: r)
  | _ => true

/-- The domain list of a range. -/
def domainsOf (g : List Member) (ms : List Nat) : List Nat :=
  (upFrom 0 1024).filter fun x => ms.any fun r => (g[r]?.map (·.domain)) == some x

/-- The ring of a domain. -/
def ringOf (g : List Member) (ms : List Nat) (dom : Nat) : List Nat := ms.filter fun r => (g[r]?.map (·.domain)) == some dom

/-- Do the fields of a range entry keep their ranges (Table 10-3)? -/
def PlanRange.fieldsOk (r : PlanRange) : Bool :=
  r.accOff % 65536 == 0 && inRange 1 16777216 r.segments && inRange 1 65536 r.lastLen && decide (r.ownerBase ≤ 1023)

/-- Does a range keep its rules (Table 10-3, R277)? -/
def PlanRange.ok (r : PlanRange) (g : List Member) : Bool :=
  let doms := domainsOf g r.members
  r.fieldsOk && ascending r.members && (r.members.all fun m => decide (m < g.length))
  && (match doms with
    | [] => false
    | x :: _ => inRange 1 64 (ringOf g r.members x).length && doms.all fun y => (ringOf g r.members y).length == (ringOf g r.members x).length)

/-- A range entry of a plan with its members; `none` where it is broken. -/
def Dev.readRange (d : Dev) (b : Nat) (g : List Member) (va : Nat) : Except MemErr (Option PlanRange) :=
  match d.readVaNat b va 32 with
  | .error x => .error x
  | .ok e =>
    let n := bytesAt e 16 2
    let r : PlanRange := { accOff := bytesAt e 0 8, segments := bytesAt e 8 4, lastLen := bytesAt e 12 4, ownerBase := bytesAt e 18 2, members := [] }
    if !inRange 1 32768 n || bytesAt e 20 4 ≠ 0 || !r.fieldsOk then .ok none
    else match d.readVaNat b (bytesAt e 24 8) (2 * n) with
      | .error x => .error x
      | .ok ms =>
        let r := { r with members := unpackCodes 16 n ms }
        .ok (if r.ok g then some r else none)

/-- The reduction plan at an address. -/
def Dev.readPlan (d : Dev) (b va : Nat) (g : List Member) : Except MemErr (Option (List PlanRange)) :=
  match d.readVaNat b va 64 with
  | .error e => .error e
  | .ok h =>
    let n := bytesAt h 0 4
    if !inRange 1 65536 n || h ≥ 2 ^ 32 then .ok none
    else allEntries ((upFrom 0 n).map fun i => d.readRange b g (va + 64 + 32 * i))

/-- The parts of a plan, to name the one where reading it met an error. -/
def Dev.planParts (d : Dev) (b va : Nat) : List (Nat × Nat) :=
  (va, 64) :: (match d.readVaNat b va 4 with
    | .error _ => []
    | .ok n => (upFrom 0 (min n 65536)).flatMap fun i => (va + 64 + 32 * i, 32) :: (match d.readVaNat b (va + 64 + 32 * i) 32 with
      | .error _ => []
      | .ok e => [(bytesAt e 24 8, 2 * bytesAt e 16 2)]))

/-- The length of segment σ of a range. -/
def PlanRange.segLen (r : PlanRange) (s : Nat) : Nat := if s + 1 = r.segments then r.lastLen else 65536

/-- First element of slice `t` of a segment of length `l` cut into `n` (R277). -/
def sliceLo (l n t : Nat) : Nat := t * l / n

/-- A part's place in a range: its ring and position there, and the domain list. -/
structure Place where
  ring : List Nat
  pos : Nat
  doms : List Nat
  mine : Nat
  deriving DecidableEq, Repr

/-- The place of a part in range `r`; `none` where its rank does not hold it. -/
def CollPart.place (p : CollPart) (r : PlanRange) : Option Place :=
  if !r.members.contains p.rank then none
  else
    let doms := domainsOf p.group r.members
    let dom := (p.group[p.rank]?.map (·.domain)).getD 0
    let ring := ringOf p.group r.members dom
    some { ring := ring, pos := ring.findIdx (· == p.rank), doms := doms, mine := doms.findIdx (· == dom) }

/-- The owner domain of segment σ, as an entry of the domain list (R278). -/
def PlanRange.ownerDom (r : PlanRange) (doms : List Nat) (s : Nat) : Nat := (r.ownerBase + s) % doms.length

/-- The length of slice `t` of segment σ in a ring of `n`. -/
def PlanRange.sliceLen (r : PlanRange) (n s t : Nat) : Nat := sliceLo (r.segLen s) n (t + 1) - sliceLo (r.segLen s) n t

/-- Elements of the first `m` segments of a range that the place owns. -/
def PlanRange.owned (r : PlanRange) (p : Place) (m : Nat) : Nat :=
  sumN ((upFrom 0 m).map fun s => if r.ownerDom p.doms s = p.mine then r.sliceLen p.ring.length s p.pos else 0)

/-- Elements of the shard before range `ri` and segment σ (R278). -/
def CollPart.shardOff (p : CollPart) (ri s : Nat) : Nat :=
  sumN (((p.plan.take ri)).map fun r => match p.place r with | some x => r.owned x r.segments | none => 0)
  + (match p.plan[ri]? with | some r => (match p.place r with | some x => r.owned x s | none => 0) | none => 0)

/-! ## Forms of the third course (R281 to R283) -/

/-- The order of TOPK: NaNs, infinities, then magnitude descending, and lower indices first. -/
def topBefore (a b : Nat × Nat) : Bool :=
  let rank (v : Nat) : Nat := if isNan .fp32 v then 0xFFFFFFFF else v % 2 ^ 31
  decide (rank b.2 < rank a.2) || (rank a.2 == rank b.2 && decide (a.1 < b.1))

/-- The `k` entries chosen, in ascending index. -/
def topChoose (k : Nat) (xs : List Nat) : List (Nat × Nat) :=
  let is := (upFrom 0 xs.length).zip xs
  let best := (is.mergeSort fun a b => topBefore a b || a == b).take k
  is.filter fun e => best.contains e

/-- How many entries TOPK sends of a slice of `l` elements. -/
def topK (l kLog2 : Nat) : Nat := max 1 (l / 2 ^ kLog2)

/-- The blocks of 128 of a slice. -/
def blocks128 (xs : List Nat) : List (List Nat) := chunksOf 128 (ceilDiv xs.length 128) xs

/-- The scale parts of a SIGN form: c and the fine codes, in the arithmetic of a Lath core (R293, 05 R134). -/
def signScales (fl : Bool) (xs : List Nat) : Lane (Nat × List Nat) := do
  let bs := blocks128 xs
  if !allFinite xs then return (0x7FC00000, bs.map fun _ => 0)
  let mags ← bs.mapM fun b => do
    let sum ← b.foldlM (fun s x => lAdd fl s (x % 2 ^ 31)) 0
    lane fl (f32Div sum (f32OfNat b.length))
  let amax := mags.foldl (fun m a => if (f32 m).lt (f32 a) then a else m) 0
  let c ← if amax % 2 ^ 31 = 0 then pure 0x3F800000 else lane fl (f32Div amax (f32OfNat 448))
  return (c, mags.map fun a => divIeee .ue4m3 (f32 a) (f32 c))

/-- Encode a slice by METHOD: 0 NONE, 1 TOPK, 2 SIGN, as one little-endian number. NONE sends the values as they are; the others choose
from, or compute with, their values as operands. -/
def encodeForm (fl : Bool) (method kLog2 : Nat) (xs0 : List Nat) : Lane Nat :=
  match method with
  | 0 => pure (packCodes 32 xs0)
  | 1 => do
    let xs ← xs0.mapM (lane fl)
    return packCodes 64 ((topChoose (topK xs.length kLog2) xs).map fun e => e.1 + 2 ^ 32 * e.2)
  | _ => do
    let xs ← xs0.mapM (lane fl)
    let (c, ks) ← signScales fl xs
    return c + 2 ^ 32 * (packCodes 8 ks + 2 ^ (8 * ks.length) * packCodes 1 (xs.map fun x => if (f32 x).lt (f32 0) then 1 else 0))

/-- An element of a SIGN form under coarse scale `c` and fine code `k`: ±d_b, +0 in a zero block, and NaN under a scale or pair that 02 R39
calls invalid (R282). -/
def signElement (c k sign : Nat) : Nat :=
  if !posNormal32 c || decide (0x7F ≤ k) then 0x7FC00000
  else if k = 0 then 0
  else
    let b := f32Mul (fp32Rne (decode .ue4m3 k)) c
    if isFinite .fp32 b then b + sign * 2 ^ 31 else 0x7FC00000

/-- Decode a form of `l` elements; `none` for an absent element. -/
def decodeForm (method kLog2 l n : Nat) : List (Option Nat) :=
  match method with
  | 0 => (unpackCodes 32 l n).map some
  | 1 =>
    let es := unpackCodes 64 (topK l kLog2) n
    (upFrom 0 l).map fun i => (es.find? fun e => e % 2 ^ 32 == i).map (· / 2 ^ 32)
  | _ =>
    let nb := ceilDiv l 128
    let ks := unpackCodes 8 nb (n / 2 ^ 32)
    ((upFrom 0 l).zip (unpackCodes 1 l (n / 2 ^ (32 + 8 * nb)))).map fun e => some (signElement (n % 2 ^ 32) ((ks[e.1 / 128]?).getD 0) e.2)

/-- Bytes of a form. -/
def formBytes (method kLog2 l : Nat) : Nat :=
  match method with
  | 0 => 4 * l
  | 1 => 8 * topK l kLog2
  | _ => 4 + ceilDiv l 128 + ceilDiv l 8

/-- Add two vectors, operands and results flushed (05 R134); an absent element adds nothing. -/
def addForm (fl : Bool) (y : List Nat) (f : List (Option Nat)) : Lane (List Nat) :=
  (y.zip f).mapM fun e => match e.2 with
    | none => pure e.1
    | some v => do lAdd fl (← lane fl e.1) (← lane fl v)

/-! ## Parts (R287, R290) -/

/-- A running part. -/
def Dev.part? (d : Dev) (b tag : Nat) : Option CollPart := d.parts.find? fun p => p.bay == b && p.tag == tag
def Dev.modPart (d : Dev) (p : CollPart) (f : CollPart → CollPart) : Dev :=
  { d with parts := d.parts.map fun x => if x.sq == p.sq && x.order == p.order then f x else x }

/-- The command of a part. -/
def Dev.partCmd (d : Dev) (p : CollPart) : Option Cmd :=
  ((smFind d.sqs p.sq).bind (·.run)).filter fun c => c.order == p.order

/-- Send a message of a part to a rank: over the fabric, or back into the module where it holds that rank too (port 31). -/
def Dev.tell (d : Dev) (p : CollPart) (rank vc kind : Nat) (words : List Nat) (bytes : Nat) (keep : Bool := true) : Dev :=
  match p.group[rank]? with
  | none => d
  | some m =>
    if m.dev = d.self then d.send .reedline kind (31 :: vc :: m.bay :: p.tag :: words)
    else d.sendFrame m.dev vc kind (m.bay :: p.tag :: words) (bytes + 16) (if keep then some (p.sq, p.order) else none)

/-- Report a part's status to every other participant. -/
def Dev.tellAll (d : Dev) (p : CollPart) (status : Nat) (keep : Bool) : Dev :=
  ((upFrom 0 p.group.length).filter (· != p.rank)).foldl (fun d r => d.tell p r 0 fkReport [p.rank, status] 16 keep) d

/-- A TURN completes: TURN_DONE is raised (R314), and deferred tests are due (19 R541). -/
def Dev.turnDone (d : Dev) (c : Cmd) (status late : Nat) : Dev :=
  if c.opcode ≠ 0x40 then d
  else
    { d with turnEnded := !d.deferredTests.isEmpty }.event c.bay 0x0041 (mkFields [(0, 16, status), (16, 1, c.bits 16 0 1), (17, 1, if late = 0 then 0 else 1)])
      (c.at 20 4)

/-- A part leaves with everything kept for it; a FW_RELAY stores no more (17 R499). -/
def Dev.dropPart (d0 : Dev) (p : CollPart) : Dev :=
  let d := if p.opcode = 0xB1 then d0.sb .bringStageSts 0 1 false else d0
  { d with
    parts := d.parts.filter (fun x => !(x.sq == p.sq && x.order == p.order))
    chains := d.chains.filter (fun x => !(x.sq == p.sq && x.order == p.order))
    turns := d.turns.filter (fun x => !(x.sq == p.sq && x.order == p.order))
    fab := { d.fab with frames := d.fab.frames.filter fun f => f.cmd != some (p.sq, p.order) } }

/-- A report to the coordinator. -/
def fkReady : Nat := 14

/-- A part fails: it reports to every other, a part of an agreement also to the coordinator (R307, R310), then it
completes (R290). -/
def Dev.partFail (d : Dev) (p : CollPart) (status : Nat) (result : Nat := 0) : Dev :=
  let d1 := d.tellAll p status false
  let d2 := if p.opcode = 0x40 ∨ p.opcode = 0x42 ∨ p.opcode = 0x70 then
      (if p.rank = 0 then d1 else d1.tell p 0 0 fkReady [p.rank, 1, status, 0, 0, 0] 48 false)
    else d1
  let c? := d2.partCmd p
  let d3 := d2.dropPart p
  match c? with
  | some c => (d3.turnDone c status 0).finish p.sq status result
  | none => d3

/-- A command that its fields, its group or its plan keep from being a part fails with BAD_PARAM; where its group can be read and names
this module's rank, the failure is reported (R290), unless a part of the same COLL_TAG runs. -/
def Dev.refusePart (d : Dev) (c : Cmd) (tag : Nat) (g? : Option (List Member × Nat)) : Dev :=
  match g?.filter fun _ => (d.part? c.bay tag).isNone with
  | some (g, rank) => d.partFail { sq := c.sq, bay := c.bay, order := c.order, opcode := c.opcode, tag := tag, group := g, rank := rank } stBadParam
  | none => (d.turnDone c stBadParam 0).complete c stBadParam 0

/-- The group at an address and this module's rank in it, where both are there. -/
def Dev.groupRank (d : Dev) (b va : Nat) : Option (List Member × Nat) :=
  match d.readGroup b va with
  | .ok (some g) => (d.rankIn b g).map fun r => (g, r)
  | _ => none

/-- A part whose work is done reports success, and completes OK once every participant has (R290). One that produced a NaN has failed
(R263, NAN_TRAP is a failure by 13 R396), and so has one whose deadline has passed; both say so (Table 10-7). -/
def Dev.partGo (d : Dev) (b tag : Nat) : Dev :=
  match d.part? b tag with
  | none => d
  | some p0 =>
    if !p0.waits.isEmpty then d
    else if (d.partCmd p0).any d.passed then d.partFail p0 stDeadline
    else if p0.nan then d.partFail p0 stNanTrap p0.written
    else
      let d := if p0.done then d else (d.modPart p0 fun x => { x with done := true }).tellAll p0 stOk true
      match d.part? b tag with
      | none => d
      | some p =>
        if ((upFrom 0 p.group.length).all fun r => r == p.rank || p.ok.contains r) then
          (match d.partCmd p with
            | some c =>
              let d1 := { d with parts := d.parts.filter (fun x => !(x.sq == p.sq && x.order == p.order))
                                 chains := d.chains.filter fun x => !(x.sq == p.sq && x.order == p.order) }
              d1.complete c stOk (if p.opcode = 0x33 ∨ p.opcode = 0xB1 then min (p.written / 64) 0xFFFFFFFF else p.written)
            | none => d)
        else d

/-- An error that a part meets in a buffer ends it. A deadline that has passed comes before UNCORRECTABLE and a lost peer's page
(Table 10-7). -/
def Dev.partErr (d : Dev) (p : CollPart) (va n : Nat) (e : MemErr) : Dev :=
  let d1 := match e, d.partCmd p with
    | .uncorr, some c => d.faultIn c va n
    | _, _ => d
  d1.partFail p (if e.late && (d.partCmd p).any d.passed then stDeadline else e.status)

/-- A part whose plan cannot be read. -/
def Dev.planErr (d : Dev) (c : Cmd) (p : CollPart) (va : Nat) (e : MemErr) : Dev :=
  if c.trapped then d.partFail p stAborted
  else
    let at_ := (d.planParts c.bay va).find? fun r => match d.readVa c.bay r.1 r.2 with | .error x => x == e | .ok _ => false
    d.partErr p (at_.getD (va, 64)).1 (at_.getD (va, 64)).2 e

/-- The address of a slice of this part's accumulator. -/
def CollPart.accSlice (p : CollPart) (r : PlanRange) (n s t : Nat) : Nat := p.src + 4 * (r.accOff + 65536 * s + sliceLo (r.segLen s) n t)

/-- Is an item no longer waited for? -/
def CollPart.got (p : CollPart) (k : CollKey) : CollPart := { p with waits := p.waits.filter (· != k) }

/-- The owner combines a slice once its own sum and all forms are there (R283). An element of the slice is one NaN item: NaN by decoding, or by
an addition or the subtraction of the rule (02 R547). DESIGN CHOICE log 16: the Lath core that it names is a free dealing of the slices. -/
def Dev.combine (d : Dev) (p : CollPart) (_r : PlanRange) (x : Place) (ri s : Nat) : Dev :=
  let t := x.pos
  let nd := x.doms.length
  let forms := (upFrom 1 (nd - 1)).map fun q =>
    (p.forms.find? fun f => f.1 == { kind := 2, range := ri, seg := s, slice := t, dom := (x.mine + q) % nd }).map (·.2)
  match (p.sums.find? fun f => f.1 == { kind := 0, range := ri, seg := s, slice := t }).map (·.2) with
  | none => d
  | some y0 =>
    if forms.any (·.isNone) then d
    else
      let l := y0.length
      let fl := (d.partCmd p).any (·.flush)
      let off := 4 * p.shardOff ri s
      let plain := p.method == 0 || nd == 1
      match (if p.method = 0 then .ok [] else d.readVa p.bay (p.efIn + off) (4 * l)) with
      | .error e => d.partErr p (p.efIn + off) (4 * l) e
      | .ok ef =>
        let sums : Lane (List Nat × List Nat × List Nat) := do
          let y ← (forms.filterMap id).foldlM (fun y f => addForm fl y (decodeForm p.method p.kLog2 l f)) y0
          if plain then return (y, y, y.map fun _ => 0)
          let t ← addForm fl y ((unpackCodes 32 l (ofLe ef)).map some)
          let n ← encodeForm fl p.method p.kLog2 t
          let g ← (decodeForm p.method p.kLog2 l n).mapM fun v => lane fl (v.getD 0)
          let e ← (t.zip g).mapM fun x => lSub fl x.1 x.2
          return (t, g, e)
        let ((tt, g, eo), flushed) := sums.run false
        let nans := if nd = 1 then [] else ((upFrom 0 l).zip (tt.zip (g.zip eo))).filterMap fun e =>
          if isNan .fp32 e.2.1 || isNan .fp32 e.2.2.1 || isNan .fp32 e.2.2.2 then some (2, e.1) else none
        let d1 := match d.partCmd p with
          | some c => (d.nans c (unitLath ((c.cores [0, 1, 2, 3] ri).at_ s)) noOp nans).flushSeen p.bay flushed
          | none => d
        let (d2, e2) := d1.writeVa p.bay (p.dst + off) (toLe (4 * l) (packCodes 32 g))
        let (d3, e3) := if p.method = 0 then (d2, none) else d2.writeVa p.bay (p.efOut + off) (toLe (4 * l) (packCodes 32 eo))
        match e2, e3 with
        | some e, _ => d3.partErr p (p.dst + off) (4 * l) e
        | none, some e => d3.partErr p (p.efOut + off) (4 * l) e
        | none, none => d3.modPart p fun z =>
            { z with sums := z.sums.filter (fun f => !(f.1.range == ri && f.1.seg == s)), forms := z.forms.filter (fun f => !(f.1.range == ri && f.1.seg == s))
                     nan := z.nan || !nans.isEmpty, written := z.written + 1 }

/-- A slice sum is complete at its holder (R280): it is written and sent round, or enters the third course. -/
def Dev.sliceSum (d : Dev) (p : CollPart) (r : PlanRange) (x : Place) (ri s : Nat) (v : List Nat) : Dev :=
  let n := x.ring.length
  let t := x.pos
  if p.all then
    let a := p.accSlice r n s t
    let (d1, e) := d.writeVa p.bay a (toLe (4 * v.length) (packCodes 32 v))
    match e with
    | some e => d1.partErr p a (4 * v.length) e
    | none =>
      let d2 := d1.modPart p fun z => { z with written := z.written + 1 }
      if n = 1 then d2
      else d2.tell p (x.ring[(t + 1) % n]?.getD 0) 3 fkRing [1, ri, s, t, packCodes 32 v] (4 * v.length)
  else
    let o := r.ownerDom x.doms s
    if o = x.mine then
      let d1 := d.modPart p fun z => { z with sums := z.sums ++ [({ kind := 0, range := ri, seg := s, slice := t }, v)] }
      match d1.part? p.bay p.tag with
      | some p1 => d1.combine p1 r x ri s
      | none => d1
    else
      let dst := ((ringOf p.group r.members (x.doms[o]?.getD 0))[t]?).getD 0
      let (n, flushed) := (encodeForm ((d.partCmd p).any (·.flush)) p.method p.kLog2 v).run false
      (d.flushSeen p.bay flushed).tell p dst 3 fkForm [ri, s, t, x.mine, n] (formBytes p.method p.kLog2 v.length)

/-- A part adds its own value to a partial sum, or begins one (R279), and passes it on. The sums are Lath arithmetic: operands and results
are flushed (02 R55, 05 R134); a ring of one member computes nothing. -/
def Dev.ringStep (d : Dev) (p : CollPart) (r : PlanRange) (x : Place) (ri s t : Nat) (sum : Option (List Nat)) : Dev :=
  let n := x.ring.length
  let l := r.sliceLen n s t
  let a := p.accSlice r n s t
  match d.readVaNat p.bay a (4 * l) with
  | .error e => d.partErr p a (4 * l) e
  | .ok own =>
    let w := unpackCodes 32 l own
    let fl := (d.partCmd p).any (·.flush)
    let (v, flushed) := (if n = 1 then pure w else match sum with
      | none => w.mapM (lane fl)
      | some u => addForm fl u (w.map some)).run false
    let d := d.flushSeen p.bay flushed
    if x.pos = t then d.sliceSum p r x ri s v
    else d.tell p (x.ring[(x.pos + 1) % n]?.getD 0) 3 fkRing [0, ri, s, t, packCodes 32 v] (4 * l)

/-- What a part waits for when it starts. -/
def CollPart.allWaits (p : CollPart) : List CollKey :=
  ((upFrom 0 p.plan.length).zip p.plan).flatMap fun e => match p.place e.2 with
    | none => []
    | some x =>
      let n := x.ring.length
      (upFrom 0 e.2.segments).flatMap fun s =>
        (((upFrom 0 n).filter fun t => (t + 1) % n != x.pos).map fun t => { kind := 0, range := e.1, seg := s, slice := t : CollKey })
        ++ (if p.all then ((upFrom 0 n).filter fun t => t != x.pos).map fun t => { kind := 1, range := e.1, seg := s, slice := t : CollKey }
            else if e.2.ownerDom x.doms s = x.mine then
              ((upFrom 0 x.doms.length).filter fun y => y != x.mine).map fun y => { kind := 2, range := e.1, seg := s, slice := x.pos, dom := y : CollKey }
            else [])

/-- The partial sums that a part begins. -/
def CollPart.begins (p : CollPart) : List (Nat × Nat × Nat) :=
  ((upFrom 0 p.plan.length).zip p.plan).flatMap fun e => match p.place e.2 with
    | none => []
    | some x => (upFrom 0 e.2.segments).map fun s => (e.1, s, (x.pos + x.ring.length - 1) % x.ring.length)

/-- A message of a running part of REDUCE, ALLGATHER or ALLTOALL is used. -/
def Dev.blockUse (d : Dev) (p : CollPart) (m : CollMsg) : Dev :=
  if !p.waits.contains m.key then d
  else
    let d1 := d.modPart p (·.got m.key)
    let p := p.got m.key
    let d2 := if m.key.kind = 3 then
        let dst := p.dst + m.key.range * p.bytes
        let (d2, e) := d1.writeVa p.bay dst (toLe m.len m.data)
        (match e with
          | some e => d2.partErr p dst m.len e
          | none =>
            let d3 := d2.modPart p fun z => { z with written := z.written + m.len }
            if p.opcode = 0x31 then
              let next := (p.rank + 1) % p.group.length
              if next = m.key.range then d3 else d3.tell p next 3 fkBlock [m.key.range, m.len, m.data] m.len
            else if p.counts = 0 then d3
            else
              let a := p.counts + 8 * p.group.length + 8 * m.key.range
              let (d4, e4) := d3.writeVa p.bay a (toLe 8 m.len)
              match e4 with
              | some e => d4.partErr p a 8 e
              | none => d4)
      else match p.plan[m.key.range]? with
        | none => d1
        | some r => match p.place r with
          | none => d1
          | some x =>
            let n := x.ring.length
            let l := r.sliceLen n m.key.seg m.key.slice
            match m.key.kind with
            | 0 => d1.ringStep p r x m.key.range m.key.seg m.key.slice (some (unpackCodes 32 l m.data))
            | 1 =>
              let a := p.accSlice r n m.key.seg m.key.slice
              let (d2, e) := d1.writeVa p.bay a (toLe (4 * l) m.data)
              (match e with
                | some e => d2.partErr p a (4 * l) e
                | none =>
                  let d3 := d2.modPart p fun z => { z with written := z.written + 1 }
                  if (x.pos + 1) % n = m.key.slice then d3
                  else d3.tell p (x.ring[(x.pos + 1) % n]?.getD 0) 3 fkRing [1, m.key.range, m.key.seg, m.key.slice, m.data] (4 * l))
            | _ =>
              let d2 := d1.modPart p fun z => { z with forms := z.forms ++ [(m.key, m.data)] }
              match d2.part? p.bay p.tag with
              | some p1 => d2.combine p1 r x m.key.range m.key.seg
              | none => d2
    d2.partGo p.bay p.tag

/-- PART_DEADLINE_PASSED (R287, R289): the deadline of a part's header passes before it has ended. -/
def Dev.partDeadlinePassed (d : Dev) (q : Nat) : Dev :=
  match d.parts.find? fun p => p.sq == q with
  | none => d
  | some p => match d.partCmd p with
    | some c => if d.passed c then d.partFail p stDeadline else d
    | none => d

/-- Does a participant's module fail the level rule (R435), or is it lost? -/
def Dev.memberBad (d : Dev) (g : List Member) : Option Nat :=
  if g.any fun m => d.floorBad m.dev then some stVersionFloor
  else if g.any fun m => d.isLost m.dev then some stPeerLost else none

/-- Does a range of bay memory hold a mapped page outside T1? -/
def Dev.outsideT1 (d : Dev) (b va n : Nat) : Bool :=
  (d.pieces b va n).any fun p? => match p? with
    | none => false
    | some p => p.peer.isSome || (match d.obj? p.objBay p.objId with | some o => (o.locOf p.off).tier != 1 | none => false)

/-- The part that a REDUCE RUN packet describes, but for its plan. -/
def Cmd.reducePart (c : Cmd) (g : List Member) (rank : Nat) : CollPart :=
  { sq := c.sq, bay := c.bay, order := c.order, opcode := 0x30, tag := c.at 24 4, group := g, rank := rank, all := bitAt c.pkt 132
    method := c.bits 16 5 2, kLog2 := c.bits 17 0 4, src := c.at 32 6, dst := c.at 64 8, efIn := c.at 72 8, efOut := c.at 80 8 }

/-- The buffers of an ALLGATHER or ALLTOALL of `n` ranks: each with whether it is written. -/
def Cmd.blockRanges (c : Cmd) (n : Nat) : List (Nat × Nat × Bool) :=
  let bytes := c.at 48 8
  let counts := c.at 56 8
  [(c.at 32 8, if c.opcode = 0x31 then bytes else n * bytes, false), (c.at 40 8, n * bytes, true)]
    ++ (if counts = 0 then [] else [(counts, 8 * n, false), (counts + 8 * n, 8 * n, true)])

/-- The buffers of a REDUCE RUN: each with whether it is written. -/
def CollPart.reduceRanges (p : CollPart) : List (Nat × Nat × Bool) :=
  let rs := p.plan.filter fun r => (p.place r).isSome
  let shard := 4 * p.shardOff p.plan.length 0
  (rs.map fun r => (p.src + 4 * r.accOff, 4 * (65536 * (r.segments - 1) + r.lastLen), p.all))
  ++ (if p.all then [] else [(p.dst, shard, true)])
  ++ (if p.method = 0 then [] else [(p.efIn, shard, false), (p.efOut, shard, true)])

/-- The error of a list of buffers: an unmapped page first, then the first other in order. -/
def Dev.rangesErr (d : Dev) (b : Nat) (rs : List (Nat × Nat × Bool)) : Option MemErr :=
  let es := rs.filterMap fun r => if r.2.1 = 0 then none else if r.2.2 then d.writeErr b r.1 r.2.1 else d.checkVa b r.1 r.2.1 false
  if es.contains .notMapped then some .notMapped else es.head?

/-- A command that cannot begin its part because reading its group or plan met an error. -/
def Dev.collReadErr (d : Dev) (c : Cmd) (va n : Nat) (e : MemErr) : Dev :=
  if c.trapped then d.complete c stAborted 0
  else (if e = .uncorr then d.faultIn c va n else d).complete c (if e.late && d.passed c then stDeadline else e.status) 0

/-- The fields of a REDUCE RUN packet keep their rules (Table 10-6). -/
def Cmd.reduceOk (c : Cmd) : Bool :=
  let scope := c.bits 16 2 2
  let all := bitAt c.pkt 132
  let method := c.bits 16 5 2
  let sys := scope == 2
  c.bits 16 0 2 == 2
  && c.only 2 ([(16, 0, 4), (24, 0, 32), (32, 0, 48), (48, 0, 128)] ++ (if sys then [(16, 5, 2)] else [(16, 4, 1)])
    ++ (if method == 1 then [(17, 0, 4)] else []) ++ (if all then [] else [(64, 0, 64)])
    ++ (if method == 0 then [] else [(72, 0, 128)]))
  && (scope == 1 || scope == 2) && method != 3 && (method != 1 || inRange 4 10 (c.bits 17 0 4)) && aligned (c.at 32 6) 8

end Sys2Proof.Machine
end

