-- ==== Sys2Proof/Machine/Sheaves.lean ====
section
/-!
DEFINITION. Machine/Sheaves.lean: sheaves (11 R294 to R306, R322, R323, R325 to R328): their states and pins, the manifest and its
verification, and the commands that open, publish, hold, release, query and retire them.
Where the spec is silent or is read by inference: DEDUCED log 31 (notes/assumptions).
-/
namespace Sys2Proof.Machine

/-! ## States and pins (R296, R303) -/

/-- A resident sheaf. -/
def Dev.sheaf? (d : Dev) (b id : Nat) : Option Sheaf := (d.bay b).sheaves.find? fun s => s.id == id

/-- Change a sheaf. -/
def Dev.modSheaf (d : Dev) (b id : Nat) (f : Sheaf → Sheaf) : Dev :=
  d.modBay b fun x => { x with sheaves := x.sheaves.map fun s => if s.id == id then f s else s }

/-- SHEAF_STATE with a change of state. -/
def Dev.sheafEvent (d : Dev) (b id old new : Nat) : Dev := d.event b 0x0040 (new + 8 * old) id

/-- Set a sheaf's state. From PUBLISHED on its region is read-only (R298). -/
def Dev.setSheaf (d : Dev) (b : Nat) (s : Sheaf) (new : Nat) : Dev :=
  let d1 := d.modSheaf b s.id fun x => { x with st := new, since := d.now }
  let d2 := if new = 2 then d1.modBay b fun x => { x with ro := x.ro ++ [(s.regionVa, s.regionBytes)] } else d1
  d2.sheafEvent b s.id s.st new

/-- A sheaf is RETIRED: no longer resident, its region as before. -/
def Dev.retireSheaf (d : Dev) (b : Nat) (s : Sheaf) : Dev :=
  (d.modBay b fun x => { x with sheaves := x.sheaves.filter (fun y => y.id != s.id), ro := x.ro.filter (· != (s.regionVa, s.regionBytes)) }).sheafEvent
    b s.id s.st 5

/-- The sheaves whose pins go when a sheaf retires (Table 11-5): those of its manifest once it was verified. -/
def Sheaf.others (s : Sheaf) (b : Nat) : List (Nat × Nat) :=
  (if s.draft = 0 then [] else [(b, s.draft)]) ++ (if s.fallback = 0 then [] else [(b, s.fallback)])
  ++ (if s.base = 0 then [] else [(s.baseBay, s.base)])

/-- A DRAINING sheaf without pins retires, and what it pinned loses those pins; `fuel` bounds the chain of
pins by the sheaves that 16 bays of 8 can hold. -/
def drainSheaf : Nat → Dev → Nat → Nat → Dev
  | 0, d, _, _ => d
  | fuel + 1, d, b, id => match d.sheaf? b id with
    | none => d
    | some s =>
      if s.st = 4 ∧ s.pins = 0 then
        (s.others b).foldl (fun d o => drainSheaf fuel (d.modSheaf o.1 o.2 fun x => { x with pins := x.pins - 1 }) o.1 o.2) (d.retireSheaf b s)
      else d

/-- Release a pin. -/
def Dev.unpin (d : Dev) (b id : Nat) : Dev := drainSheaf 129 (d.modSheaf b id fun x => { x with pins := x.pins - 1 }) b id

/-- May a pin be taken (R303)? -/
def Sheaf.pinRoom (s : Sheaf) : Bool := decide (s.pins < 0xFFFFFFFF)

/-- Take a pin. -/
def Dev.pin (d : Dev) (b id : Nat) : Dev := d.modSheaf b id fun x => { x with pins := x.pins + 1 }

/-- A sheaf starts DRAINING. -/
def Dev.drain (d : Dev) (b : Nat) (s : Sheaf) : Dev := drainSheaf 129 (d.setSheaf b s 4) b s.id

/-- The CURRENT sheaf of a bay (R297). -/
def Dev.currentSheaf (d : Dev) (b : Nat) : Option Sheaf := (d.bay b).sheaves.find? fun s => s.st == 3

/-- May a switch make a sheaf of the bay CURRENT (Table 11-1, R295)? -/
def Dev.maySwitch (d : Dev) (b id : Nat) : Bool := (d.sheaf? b id).any fun s => s.st == 2 && !s.aux

/-- A switch acts (R308): the sheaf becomes CURRENT, the one that was becomes DRAINING. -/
def Dev.switchTo (d : Dev) (b id : Nat) : Dev :=
  match (d.sheaf? b id).filter fun s => s.st == 2 && !s.aux with
  | none => d
  | some s =>
    let old := d.currentSheaf b
    let d1 := d.setSheaf b s 3
    match old with
    | some o => d1.drain b o
    | none => d1

/-! ## The manifest (R299 to R301, R322, R323) -/

/-- A manifest header (Table 11-2). -/
structure Manifest where
  id : Nat
  aux : Bool
  delta : Bool
  kvMode : Nat
  vE2m1 : Bool
  headDim : Nat
  kvHeads : Nat
  layers : Nat
  draft : Nat
  fallback : Nat
  bytes : Nat
  pieces : Nat
  baseBay : Nat
  adds : Nat
  base : Nat
  layerOff : Nat
  pieceOff : Nat
  addOff : Nat
  deriving DecidableEq, Repr

/-- Read a header; `none` where a reserved field or code is used or a field breaks its range. -/
def parseManifest (n : Nat) : Option Manifest :=
  let m : Manifest :=
    { id := bytesAt n 0 4, aux := bitAt n 32, delta := bitAt n 33, kvMode := fld n 34 3, vE2m1 := bitAt n 37, headDim := 64 * 2 ^ fld n 38 2
      kvHeads := fld n 40 7, layers := bytesAt n 6 2, draft := bytesAt n 8 4, fallback := bytesAt n 12 4, bytes := bytesAt n 16 8
      pieces := bytesAt n 24 4, baseBay := fld n 224 4, adds := fld n 232 7, base := bytesAt n 32 4, layerOff := bytesAt n 40 8
      pieceOff := bytesAt n 48 8, addOff := bytesAt n 56 8 }
  let ok := onlyFields n 512 [(0, 47), (48, 180), (232, 7), (256, 32), (320, 192)]
    && inRange 1 0xFFFFFFFE m.id && inRange 1 2 m.kvMode && fld n 38 2 != 3 && inRange 1 64 m.kvHeads && inRange 1 256 m.layers
    && (!m.aux || (m.draft == 0 && m.fallback == 0)) && m.bytes % 0x10000 == 0 && m.bytes != 0 && inRange 1 65536 m.pieces
    && (m.delta || (m.baseBay == 0 && m.adds == 0 && m.base == 0)) && decide (m.adds ≤ 64)
    && ((m.delta && m.adds != 0) || m.addOff == 0)
  if ok then some m else none

/-- A pattern descriptor (08 Table 8-1). -/
structure Pattern where
  sparse : Bool
  window : Nat
  sink : Nat
  gstride : Nat
  gcount : Nat
  deriving DecidableEq, Repr

/-- Read a pattern descriptor; `none` where it breaks Table 8-1 (08 R227). -/
def parsePattern (n : Nat) : Option Pattern :=
  let kind := fld n 0 2
  let w := fld n 8 5
  let p : Pattern := { sparse := kind == 1, window := 2 ^ w, sink := bytesAt n 2 2, gstride := bytesAt n 4 4, gcount := bytesAt n 8 4 }
  let ok := onlyFields n 128 [(0, 2), (8, 5), (16, 80)] && decide (kind ≤ 1)
    && (if p.sparse then inRange 10 17 w && decide (p.sink ≤ 4096) && decide (p.gcount ≤ 8192)
          && (if p.gcount = 0 then p.gstride == 0 else inRange 64 4194304 p.gstride)
        else w == 0 && p.sink == 0 && p.gstride == 0 && p.gcount == 0)
  if ok then some p else none

/-- A layer entry (Table 11-3). -/
structure LayerEntry where
  pattern : Pattern
  score : Nat
  cq : Nat
  kTensor : Nat
  vTensor : Nat
  kvScale : Nat
  deriving DecidableEq, Repr

def parseLayer (n : Nat) : Option LayerEntry :=
  match parsePattern (bytesAt n 0 16) with
  | none => none
  | some p =>
    let l : LayerEntry := { pattern := p, score := bytesAt n 16 4, cq := bytesAt n 20 4, kTensor := bytesAt n 24 4, vTensor := bytesAt n 28 4
                            kvScale := bytesAt n 32 8 }
    if onlyFields n 384 [(0, 320)] && posNormal32 l.score && posNormal32 l.cq then some l else none

/-- A target of a low-rank addition (Table 11-12). -/
structure Target where
  tensor : Nat
  uCoarse : Nat
  aOff : Nat
  aScale : Nat
  bOff : Nat
  bScale : Nat
  aCoarse : Nat
  bCoarse : Nat
  deriving DecidableEq, Repr

def parseTarget (n : Nat) : Option Target :=
  let t : Target := { tensor := bytesAt n 0 4, uCoarse := bytesAt n 4 4, aOff := bytesAt n 8 8, aScale := bytesAt n 16 8, bOff := bytesAt n 24 8
                      bScale := bytesAt n 32 8, aCoarse := bytesAt n 40 4, bCoarse := bytesAt n 44 4 }
  if onlyFields n 512 [(0, 384)] && posNormal32 t.uCoarse && posNormal32 t.aCoarse && posNormal32 t.bCoarse then some t else none

/-- Why a verification ends: a status; the piece whose CRC differs, with the CRC found; the range that met a memory error. -/
structure VerifyErr where
  status : Nat
  piece : Option (Nat × Nat) := none
  va : Nat := 0
  len : Nat := 0
  deriving DecidableEq, Repr

abbrev VOut (α : Type) := Except VerifyErr α

/-- A condition of R302. -/
def vCheck (ok : Bool) : VOut Unit := if ok then .ok () else .error { status := stBadParam }

/-- Bytes of a region. -/
def Dev.vRead (d : Dev) (b va n : Nat) : VOut (List Byte) :=
  match d.readVa b va n with
  | .ok bs => .ok bs
  | .error .uncorr => .error { status := stUncorr, va := va, len := n }
  | .error _ => .error { status := stBadParam }

/-- Does a table lie inside the region? -/
def Manifest.inside (m : Manifest) (off n : Nat) : Bool := decide (off + n ≤ m.bytes)

/-- Do all members satisfy a check that may read memory? -/
def vAll {α : Type} (f : α → VOut Unit) : List α → VOut Unit
  | [] => .ok ()
  | x :: r => do f x; vAll f r

/-- No two ranges of a list overlap. -/
def apart : List (Nat × Nat) → Bool
  | [] => true
  | x :: r => r.all (fun y => !overlap x.1 x.2 y.1 y.2) && apart r

/-- Does a range start and end at page boundaries of the objects it maps, so that no page of it holds other data (R298)? Unmapped ends are `ownT1`'s. -/
def Dev.wholePages (d : Dev) (b va n : Nat) : Bool :=
  let edge (x : Nat) (stop : Bool) : Bool := match findMapping (d.bay b).maps x with
    | some m => (m.off + (x - m.va) + (if stop then 1 else 0)) % (if m.small then 0x10000 else 0x200000) == 0
    | none => true
  edge va false && edge (va + n - 1) true

/-- Is every page of a range the bay's own writable T1 page? -/
def Dev.ownT1 (d : Dev) (b va n : Nat) : Bool :=
  (d.pieces b va n).all fun p? => match p? with
    | none => false
    | some p => p.objBay == b && p.peer.isNone && (match d.pieceWritable b p with | .ok _ => true | .error _ => false)
      && (match d.obj? b p.objId with | some o => (o.locOf p.off).tier == 1 | none => false)

/-- The base of a DELTA sheaf meets R322. -/
def Dev.baseOk (d : Dev) (b va : Nat) (m : Manifest) : VOut Unit :=
  match d.sheaf? m.baseBay m.base with
  | none => vCheck false
  | some s => do
    vCheck (!s.delta && inRange 2 4 s.st && (m.baseBay == b || (m.baseBay == 0 && d.baseGrants.contains (m.base, b))))
    let h ← d.vRead m.baseBay s.regionVa 64
    match parseManifest (ofLe h) with
    | none => vCheck false
    | some n => do
      vCheck (n.layers == m.layers && n.kvHeads == m.kvHeads && n.headDim == m.headDim && n.vE2m1 == m.vE2m1)
      let mine ← d.vRead b (va + m.layerOff) (48 * m.layers)
      let theirs ← d.vRead m.baseBay (s.regionVa + n.layerOff) (48 * n.layers)
      vCheck (mine == theirs)

/-- Verification (R302) of the sheaf `s` of bay `b`: its manifest. -/
def Dev.verify (d : Dev) (b : Nat) (s : Sheaf) : VOut Manifest := do
  let va := s.regionVa
  vCheck (d.inTiers b va s.regionBytes [1] && d.wholePages b va s.regionBytes)
  let h ← d.vRead b va 64
  match parseManifest (ofLe h) with
  | none => .error { status := stBadParam }
  | some m =>
    vCheck (m.id == s.id && m.aux == s.aux && m.bytes == s.regionBytes)
    vCheck (m.inside m.layerOff (48 * m.layers) && m.inside m.pieceOff (32 * m.pieces) && m.inside m.addOff (16 * m.adds))
    let ls ← d.vRead b (va + m.layerOff) (48 * m.layers)
    vAll (fun l => match parseLayer (ofLe l) with
      | none => vCheck false
      | some e => do
        vCheck (m.inside e.kvScale (8 * m.kvHeads))
        let ks ← d.vRead b (va + e.kvScale) (8 * m.kvHeads)
        vCheck ((unpackCodes 32 (2 * m.kvHeads) (ofLe ks)).all posNormal32)) (chunksOf 48 m.layers ls)
    let ps ← d.vRead b (va + m.pieceOff) (32 * m.pieces)
    let es := (chunksOf 32 m.pieces ps).map ofLe
    let rs := es.map fun e => (bytesAt e 0 8, bytesAt e 8 8)
    vCheck (es.all fun e => onlyFields e 256 [(0, 192)] && bytesAt e 0 8 % 64 == 0 && inRange 1 (2 ^ 40) (bytesAt e 8 8)
      && m.inside (bytesAt e 0 8) (bytesAt e 8 8))
    vCheck (apart rs && rs.all fun r => !overlap r.1 r.2 0 64 && !overlap r.1 r.2 m.layerOff (48 * m.layers)
      && !overlap r.1 r.2 m.pieceOff (32 * m.pieces) && !overlap r.1 r.2 m.addOff (16 * m.adds))
    vCheck ([m.draft, m.fallback].all fun x => x == 0 || (match d.sheaf? b x with | some t => t.aux && t.st == 2 | none => false))
    (if m.delta then d.baseOk b va m else .ok ())
    let as ← d.vRead b (va + m.addOff) (16 * m.adds)
    vAll (fun a =>
      let n := ofLe a
      do
        vCheck (onlyFields n 128 [(0, 32), (64, 64)] && inRange 1 256 (bytesAt n 0 2) && inRange 1 4096 (bytesAt n 2 2)
          && m.inside (bytesAt n 8 8) (64 * bytesAt n 2 2))
        let ts ← d.vRead b (va + bytesAt n 8 8) (64 * bytesAt n 2 2)
        vCheck ((chunksOf 64 (bytesAt n 2 2) ts).all fun t => (parseTarget (ofLe t)).isSome)) (chunksOf 16 m.adds as)
    vAll (fun (x : Nat × Nat) => do
      let bs ← d.vRead b (va + bytesAt x.2 0 8) (bytesAt x.2 8 8)
      (if crc64 bs = bytesAt x.2 16 8 then .ok () else .error { status := stUncorr, piece := some (x.1, crc64 bs) }))
      ((upFrom 0 es.length).zip es)
    .ok m

/-- The error record of a verification that failed on a piece or a memory error (R302). -/
def Dev.verifyRecord (d : Dev) (c : Cmd) (e : VerifyErr) : Dev :=
  match e.piece with
  | some (i, crc) =>
    d.record { kind := 0x0040, bay := some c.bay, tag := c.tag, queue := c.sq, opcode := c.opcode, status := e.status, detail0 := i
               detail1 := crc }
  | none => if e.status = stUncorr then d.faultIn c e.va e.len else d

/-- Publish a verified sheaf: it takes its pins (R303); `none` where one would overflow. -/
def Dev.publish (d : Dev) (b : Nat) (s : Sheaf) (m : Manifest) : Option Dev :=
  let s1 := { s with delta := m.delta, draft := m.draft, fallback := m.fallback, baseBay := m.baseBay, base := m.base }
  let os := s1.others b
  if os.all fun o => (d.sheaf? o.1 o.2).any fun t => decide (t.pins + (os.filter (· == o)).length ≤ 0xFFFFFFFF) then
    some ((os.foldl (fun d o => d.pin o.1 o.2) (d.modSheaf b s.id fun _ => s1)).setSheaf b s1 2)
  else none

/-! ## The sheaf commands (R325, R327, R328) -/

/-- What OPEN and TURN check of a region (R298, R325, Table 11-9): the status that fails it, or the manifest's identity, class, kind
and size. `id`: the SHEAF_ID that the command names. -/
def Dev.openCheck (d : Dev) (b id va : Nat) (mainOnly : Bool) : Except Nat (Bool × Bool × Nat) :=
  if !inRange 1 0xFFFFFFFE id || va % 0x10000 != 0 || va ≥ 2 ^ 48 || (d.sheaf? b id).isSome then .error stBadParam
  else match d.readVaNat b va 64 with
    | .error .uncorr => .error stUncorr
    | .error _ => .error stNoPerm
    | .ok h =>
      let bytes := bytesAt h 16 8
      let aux := bitAt h 32
      if bytesAt h 0 4 ≠ id || bytes % 0x10000 != 0 || bytes = 0 || va + bytes > 2 ^ 48 || (mainOnly && aux)
          || (d.bay b).sheaves.any (fun s => overlap va bytes s.regionVa s.regionBytes) || !d.wholePages b va bytes then .error stBadParam
      else if !d.ownT1 b va bytes then .error stNoPerm
      else if ((d.bay b).sheaves.filter fun s => s.aux == aux).length ≥ 4 then .error stQuota
      else .ok (aux, bitAt h 33, bytes)

/-- A sheaf enters BUILDING. -/
def Dev.enterBuilding (d : Dev) (b id va : Nat) (x : Bool × Bool × Nat) : Dev :=
  (d.modBay b fun y =>
    { y with sheaves := y.sheaves ++ [{ id := id, aux := x.1, delta := x.2.1, regionVa := va, regionBytes := x.2.2, since := d.now }] }).sheafEvent b id 5 1

/-- The SHEAF_PUBLISH command that runs with an OP, once its fields keep Table 11-13. -/
def Dev.sheafCmd (d : Dev) (q op : Nat) (f : Cmd → Dev) : Dev :=
  match d.running? q 0x41 with
  | none => d
  | some c =>
    if (if op = 5 then c.bits 16 0 3 < 5 else c.bits 16 0 3 ≠ op) then d
    else if op = 5 || !c.only 1 ([(16, 0, 3), (20, 0, 32)] ++ (if op = 0 then [(24, 0, 64)] else []) ++ (if op = 4 then [(32, 0, 64)] else []))
        || (op == 4) != (c.at 20 4 == 0) then d.complete c stBadParam 0
    else f c

/-- SHEAF_PUBLISH with OP OPEN. -/
def Dev.sheafOpen (d : Dev) (q : Nat) : Dev :=
  d.sheafCmd q 0 fun c => match d.openCheck c.bay (c.at 20 4) (c.at 24 8) false with
    | .error s => d.complete c (if c.trapped && s == stUncorr then stAborted else s) 0
    | .ok x => if c.trapped then d.complete c stAborted 0 else (d.enterBuilding c.bay (c.at 20 4) (c.at 24 8) x).complete c stOk 0

/-- SHEAF_PUBLISH with OP PUBLISH. -/
def Dev.sheafPublish (d : Dev) (q : Nat) : Dev :=
  d.sheafCmd q 1 fun c => match d.sheaf? c.bay (c.at 20 4) with
    | none => d.complete c stBadParam 0
    | some s =>
      if s.st ≠ 1 then d.complete c stBadParam 0
      else match d.verify c.bay s with
        | .error e =>
          if e.status ≠ stBadParam && c.trapped then d.complete c stAborted 0
          else (d.verifyRecord c e).complete c e.status 0
        | .ok m => match d.publish c.bay s m with
          | none => d.complete c stQuota 0
          | some d1 => if c.trapped then d.complete c stAborted 0 else d1.complete c stOk 0

/-- SHEAF_PUBLISH with OP HOLD. -/
def Dev.sheafHold (d : Dev) (q : Nat) : Dev :=
  d.sheafCmd q 2 fun c => match d.sheaf? c.bay (c.at 20 4) with
    | none => d.complete c stBadParam 0
    | some s =>
      if s.st ≠ 2 ∧ s.st ≠ 3 then d.complete c stBadParam 0
      else if !s.pinRoom then d.complete c stQuota 0
      else if c.trapped then d.complete c stAborted 0
      else (d.modSheaf c.bay s.id fun x => { x with pins := x.pins + 1, holds := x.holds + 1 }).complete c stOk 0

/-- SHEAF_PUBLISH with OP RELEASE. -/
def Dev.sheafRelease (d : Dev) (q : Nat) : Dev :=
  d.sheafCmd q 3 fun c => match d.sheaf? c.bay (c.at 20 4) with
    | none => d.complete c stBadParam 0
    | some s =>
      if s.holds = 0 then d.complete c stBadParam 0
      else if c.trapped then d.complete c stAborted 0
      else ((d.modSheaf c.bay s.id fun x => { x with holds := x.holds - 1 }).unpin c.bay s.id).complete c stOk 0

/-- A query entry (Table 11-14). -/
def Sheaf.entry (s : Sheaf) : Nat :=
  mkFields [(0, 32, s.id), (32, 3, s.st), (35, 1, if s.aux then 1 else 0), (36, 1, if s.delta then 1 else 0), (64, 32, s.pins), (128, 64, s.regionVa)
    , (192, 64, s.since)]

/-- SHEAF_PUBLISH with OP QUERY, and an OP that Table 11-13 reserves. -/
def Dev.sheafQuery (d : Dev) (q : Nat) : Dev :=
  let d0 := d.sheafCmd q 5 fun _ => d
  match d0.running? q 0x41 with
  | none => d0
  | some _ => d.sheafCmd q 4 fun c =>
    if c.trapped then d.complete c stAborted 0
    else
      let ss := sortBy (fun a b : Sheaf => decide (a.id ≤ b.id)) (d.bay c.bay).sheaves
      let (d1, e) := d.writeVa c.bay (c.at 32 8) (ss.flatMap fun s => toLe 32 s.entry)
      match e with
      | some e => (if e = .uncorr then d1.faultIn c (c.at 32 8) (32 * ss.length) else d1).complete c e.status 0
      | none => d1.complete c stOk ss.length

/-- Is a TURN or CHAIN_BROADCAST running that fills a sheaf? -/
def Dev.filled (d : Dev) (b : Nat) (s : Sheaf) : Bool :=
  d.parts.any fun p => p.bay == b && (p.opcode == 0x40 || p.opcode == 0x33) &&
    ((d.turns.any fun t => t.sq == p.sq && t.order == p.order && !t.learn && t.sheaf == s.id)
      || d.chains.any fun x => x.sq == p.sq && x.order == p.order && x.stores && overlap x.dst x.bytes s.regionVa s.regionBytes)

/-- SHEAF_RETIRE (R327); it runs in a trapped bay. -/
def Dev.sheafRetire (d : Dev) (q : Nat) : Dev :=
  match d.running? q 0x43 with
  | none => d
  | some c => match d.sheaf? c.bay (c.at 16 4) with
    | none => d.complete c stBadParam 0
    | some s =>
      if !c.only 1 [(16, 0, 32)] then d.complete c stBadParam 0
      else if s.st = 3 || d.filled c.bay s then d.complete c stBusy 0
      else
        let d1 := match s.st with
          | 1 => d.retireSheaf c.bay s
          | 2 => d.drain c.bay s
          | _ => d
        d1.complete c stOk s.pins

end Sys2Proof.Machine
end

