-- ==== Sys2Proof/Machine/Turns.lean ====
section
/-!
DEFINITION. Machine/Turns.lean: the agreement on a switch (11 R307 to R310), the reshard plan and its quantisation jobs (R315 to
R317), chains (R318 to R321), TURN, SHEAF_SWITCH and CHAIN_BROADCAST.
Where the spec is silent or is read by inference: DEDUCED logs 31, 32; DESIGN CHOICE log 56 (notes/assumptions).
-/
namespace Sys2Proof.Machine

def fkDecision : Nat := 15
def fkChunk : Nat := 16
def fkResend : Nat := 17

/-! ## Parts of a TURN or SHEAF_SWITCH -/

def Dev.turn? (d : Dev) (p : CollPart) : Option TurnSt := d.turns.find? fun t => t.sq == p.sq && t.order == p.order
def Dev.modTurn (d : Dev) (p : CollPart) (f : TurnSt → TurnSt) : Dev :=
  { d with turns := d.turns.map fun t => if t.sq == p.sq && t.order == p.order then f t else t }

/-- The cutoff (R307). -/
def TurnSt.cutoff (t : TurnSt) : Nat := t.time - 1000 * t.guard

/-- The ranks to which rank `r` forwards a decision: its two children, and in place of a lost one that one's own (R307). -/
def forwardTo (lost : Nat → Bool) (n : Nat) : Nat → Nat → List Nat
  | 0, _ => []
  | fuel + 1, r =>
    [2 * r + 1, 2 * r + 2].flatMap fun c => if c ≥ n then [] else if lost c then forwardTo lost n fuel c else [c]

/-- Is a rank's module lost? -/
def Dev.rankLost (d : Dev) (p : CollPart) (r : Nat) : Bool := (p.group[r]?).any fun m => d.isLost m.dev

/-- A part takes the first decision it receives: it forwards it, and completes where it is an abort. -/
def Dev.takeDecision (d : Dev) (p : CollPart) (commit : Bool) (status : Nat) : Dev :=
  match d.turn? p with
  | none => d
  | some t =>
    if t.decision.isSome then d
    else
      let next := forwardTo (fun r => d.rankLost p r) p.group.length 16 p.rank
      let d1 := next.foldl (fun d r => d.tell p r 0 fkDecision [if commit then 1 else 0, status] 16 false) d
      if commit then d1.modTurn p fun t => { t with decision := some (true, status, d.now) } else d1.partFail p status

/-- An underlay is cut (19 R524): the coordinator's module sends the HOLD frame of the cut window. -/
def Dev.holdForCut (d : Dev) (p : CollPart) : Dev :=
  match d.turn? p with
  | none => d
  | some t =>
    let dom := (p.group[0]?.map (·.domain)).getD 0
    d.beginHold t.time (t.time + 1000 * d.rd .errlogUlCutWindowUs 0) (if p.group.all fun m => m.domain == dom then 1 else 2)

/-- The coordinator decides once (R307) and sends the decision to every rank; for an underlay, the status of a commit is 1 with a cut. -/
def Dev.agree (d : Dev) (p : CollPart) (commit : Bool) (status : Nat) : Dev :=
  let d0 := if p.opcode = 0x70 ∧ commit ∧ status = 1 then d.holdForCut p else d
  let d1 := (d0.modTurn p fun t => { t with decided := true })
  let d2 := ((upFrom 1 (p.group.length - 1))).foldl (fun d r => d.tell p r 0 fkDecision [if commit then 1 else 0, status] 16 false) d1
  d2.takeDecision p commit status

/-- The coordinator takes a report: a failure, a mismatch or the last ready report at or before the cutoff decides. -/
def Dev.takeReady (d : Dev) (p : CollPart) (m : ReadyMsg) : Dev :=
  match d.turn? p with
  | none => d
  | some t =>
    if t.decided then d
    else match m.fail with
      | some _ => d.agree p false stAborted
      | none =>
        let x := (m.sheaf, m.time, m.crc)
        if t.first.any (· != x) then d.agree p false stAborted
        else
          let rs := if t.readyRanks.contains m.rank then t.readyRanks else t.readyRanks ++ [m.rank]
          let blocked := t.blocked || bitAt m.flags 0
          let due := t.due || bitAt m.flags 1
          let d1 := d.modTurn p fun t => { t with first := some x, readyRanks := rs, blocked := blocked, due := due }
          let cut := p.opcode == 0x70 && (t.force || (!blocked && due))
          if rs.length = p.group.length && decide (d.now ≤ t.cutoff) then d1.agree p true (if cut then 1 else 0) else d1

/-- A part whose own work is done sends its ready report (R307). -/
def Dev.sendReady (d : Dev) (p : CollPart) : Dev :=
  match d.turn? p with
  | none => d
  | some t =>
    if t.ready then d
    else
      let d1 := d.modTurn p fun t => { t with ready := true }
      let flags := (if t.blocked then 1 else 0) + (if t.due then 2 else 0)
      if p.rank = 0 then
        d1.takeReady p { bay := p.bay, tag := p.tag, rank := 0, fail := none, sheaf := t.sheaf, time := t.time, crc := t.crc, flags := flags }
      else d1.tell p 0 0 fkReady [p.rank, 0, t.sheaf, t.time, t.crc, flags] 48

/-! ## The work of a part of a TURN (R312) -/

/-- Write the CRC field of a piece (R312 phase 5), or CRC_OUT. -/
def Dev.writeCrc (d : Dev) (p : CollPart) (va : Option Nat) (crc : Nat) : Dev × Option MemErr :=
  match va with
  | none => (d, none)
  | some a => d.writeVa p.bay a (toLe 8 crc)

/-- Verification once every chain of the part has ended, then the ready report. -/
def Dev.turnWorkDone (d : Dev) (p : CollPart) : Dev :=
  match d.turn? p, d.partCmd p with
  | some t, some c =>
    if t.ready || !p.waits.isEmpty then d
    else if t.learn then d.sendReady p
    else match d.sheaf? p.bay t.sheaf with
      | none => d.partFail p stBadParam
      | some s =>
        if t.switch then (if s.st = 2 && !s.aux then d.sendReady p else d.partFail p stBadParam)
        else match d.verify p.bay s with
          | .error e => (d.verifyRecord c e).partFail p e.status
          | .ok m => match d.publish p.bay s m with
            | none => d.partFail p stQuota
            | some d1 => d1.sendReady p
  | _, _ => d

/-- A part's own work may have ended. -/
def Dev.workDone (d : Dev) (b tag : Nat) : Dev :=
  match d.part? b tag with
  | none => d
  | some p => if p.opcode = 0x40 ∨ p.opcode = 0x42 then d.turnWorkDone p else if p.opcode = 0x70 then d.sendReady p else d.partGo b tag

/-! ## Chains (R318, R319) -/

/-- The chunk of a chain. -/
def chunkBytes : Nat := 4 * 2 ^ 20

/-- Length of chunk `k`. -/
def ChainRun.len (x : ChainRun) (k : Nat) : Nat := min chunkBytes (x.bytes - k * chunkBytes)

/-- Chunks of a chain. -/
def ChainRun.chunks (x : ChainRun) : Nat := ceilDiv x.bytes chunkBytes

def Dev.modChain (d : Dev) (x : ChainRun) (f : ChainRun → ChainRun) : Dev :=
  { d with chains := d.chains.map fun y => if y.sq == x.sq && y.order == x.order && y.idx == x.idx then f y else y }
def Dev.chain? (d : Dev) (p : CollPart) (idx : Nat) : Option ChainRun :=
  d.chains.find? fun x => x.sq == p.sq && x.order == p.order && x.idx == idx

/-- A piece whose CRC differs: its error record. -/
def Dev.pieceRecord (d : Dev) (p : CollPart) (piece crc : Nat) : Dev :=
  match d.partCmd p with
  | none => d
  | some c => d.record { kind := 0x0040, bay := some c.bay, tag := c.tag, queue := c.sq, opcode := c.opcode, status := stUncorr
                         detail0 := piece, detail1 := crc }

/-- Send chunk `k` to the next member, with its CRC and, for the last, the piece's. -/
def Dev.sendChunk (d : Dev) (p : CollPart) (x : ChainRun) (k : Nat) (data : List Byte) (pieceCrc : Nat) : Dev :=
  match x.members[x.pos + 1]? with
  | none => d
  | some r => d.tell p r 3 fkChunk [x.idx, k, data.length, ofLe data, crc64 data, if k + 1 = x.chunks then pieceCrc else 0] data.length

/-- The part has done with a chain. -/
def Dev.chainOver (d : Dev) (p : CollPart) (x : ChainRun) : Dev := (d.modPart p (·.got { kind := 4, range := x.idx })).workDone p.bay p.tag

/-- Read a chain's bytes: FW_RELAY's lie in the staging window (17 R499), every other chain's in the bay's memory. -/
def Dev.chainRead (d : Dev) (p : CollPart) (a n : Nat) : Except MemErr (List Byte) := if p.opcode = 0xB1 then .ok (d.staged a n) else d.readVa p.bay a n

/-- A refetch (19 R537): the destination of a CHAIN_BROADCAST lies within one piece of a PUBLISHED, CURRENT or DRAINING sheaf region of the
bay; that piece, as (index, VA, bytes, CRC). -/
def Dev.refetchOf (d : Dev) (b op dst n : Nat) : Option (Nat × Nat × Nat × Nat) :=
  if op ≠ 0x33 then none
  else (d.bay b).sheaves.findSome? fun s =>
    if !inRange 2 4 s.st || !(decide (s.regionVa ≤ dst) && decide (dst + n ≤ s.regionVa + s.regionBytes)) then none
    else match d.readVaNat b s.regionVa 64 with
      | .error _ => none
      | .ok h => (upFrom 0 (bytesAt h 24 4)).findSome? fun i => match d.readVaNat b (s.regionVa + bytesAt h 48 8 + 32 * i) 32 with
        | .error _ => none
        | .ok e =>
          let va := s.regionVa + bytesAt e 0 8
          let len := bytesAt e 8 8
          if va ≤ dst ∧ dst + n ≤ va + len then some (i, va, len, bytesAt e 16 8) else none

/-- Write a chain's bytes; a refetch writes through the read-only mapping. -/
def Dev.chainWrite (d : Dev) (p : CollPart) (x : ChainRun) (a : Nat) (bs : List Byte) : Dev × Option MemErr :=
  if p.opcode = 0xB1 then (d.stagePut a bs, none)
  else match d.refetchOf p.bay p.opcode x.dst x.bytes with
    | none => d.writeVa p.bay a bs
    | some _ =>
      let open_ : Dev := { d with bays := d.bays.map fun y => { y with ro := [] } }
      let (d1, e) := open_.writeVa p.bay a bs
      ({ d1 with bays := (d1.bays.zip d.bays).map fun y => { y.1 with ro := y.2.ro } }, e)

/-- Store a chunk, read it back and compare (R318); the error it met. -/
def Dev.storeChunk (d : Dev) (p : CollPart) (x : ChainRun) (k : Nat) (bs : List Byte) : Dev × Option MemErr :=
  let a := x.dst + k * chunkBytes
  let (d1, e) := d.chainWrite p x a bs
  match e with
  | some e => (d1, some e)
  | none => match d1.chainRead p a bs.length with
    | .error e => (d1, some e)
    | .ok back => (d1.modPart p fun z => { z with written := z.written + bs.length }, if back == bs then none else some .uncorr)

/-- A relayed image is stored (17 R499): it is validated, and an image that is not valid ends the part. -/
def Dev.relayEnd (d : Dev) (p : CollPart) (x : ChainRun) : Dev :=
  match (d.sb .bringStageSts 0 1 false).validate with
  | (d1, some _) => d1.chainOver p x
  | (d1, none) => d1.partFail p stUncorr

/-- The end of a chain at a member that stored its piece: the whole piece is compared, and its CRC written where the command asks. -/
def Dev.chainEnd (d : Dev) (p : CollPart) (x : ChainRun) (pieceCrc : Nat) : Dev :=
  let whole : Except MemErr (Option (Nat × Nat)) := match d.refetchOf p.bay p.opcode x.dst x.bytes with
    | none => .ok none
    | some (i, va, n, crc) => match d.readVa p.bay va n with
      | .error e => .error e
      | .ok bs => .ok (if crc64 bs = crc then none else some (i, crc64 bs))
  match d.chainRead p x.dst x.bytes, whole with
  | .error e, _ => d.partErr p x.dst x.bytes e
  | _, .error e => d.partErr p x.dst x.bytes e
  | .ok bs, .ok piece =>
    if crc64 bs ≠ pieceCrc then (d.pieceRecord p x.piece (crc64 bs)).partFail p stUncorr
    else if p.opcode = 0xB1 then d.relayEnd p x
    else match piece with
    | some (i, crc) => (d.pieceRecord p i crc).partFail p stUncorr
    | none =>
      let (d1, e) := d.writeCrc p x.crcVa pieceCrc
      match e with
      | some e => d1.partErr p (x.crcVa.getD 0) 8 e
      | none => d1.chainOver p x

/-- A head has formed chunk `k`: it stores it where it stores the piece, and sends it. -/
def Dev.headChunk (d : Dev) (p : CollPart) (x : ChainRun) (k : Nat) (bs : List Byte) (pieceCrc : Nat) : Dev :=
  let (d1, e) := if x.stores then d.storeChunk p x k bs else (d, none)
  match e with
  | some e => d1.partErr p (x.dst + k * chunkBytes) bs.length e
  | none => d1.sendChunk p x k bs pieceCrc

/-- A head whose bytes are in memory sends its chain. -/
def Dev.headRun (d : Dev) (p : CollPart) (x : ChainRun) : Dev :=
  match d.chainRead p x.src x.bytes with
  | .error e => d.partErr p x.src x.bytes e
  | .ok bs =>
    let crc := crc64 bs
    let d1 := ((upFrom 0 x.chunks).zip (chunksOf chunkBytes x.chunks bs)).foldl (fun d e =>
      if (d.part? p.bay p.tag).isSome then d.headChunk p x e.1 e.2 crc else d) (d.modChain x fun y => { y with next := x.chunks })
    if (d1.part? p.bay p.tag).isNone then d1
    else if x.stores then d1.chainEnd p x crc else d1.chainOver p x

/-- A chunk arrives at a member (R318, R319). -/
def Dev.chunkIn (d : Dev) (p : CollPart) (x : ChainRun) (k len data crc pieceCrc : Nat) : Dev :=
  if x.pos = 0 || k ≠ x.next then d
  else
    let bs := toLe len data
    if len ≠ x.len k || crc64 bs ≠ crc then
      if x.tries ≥ 2 then d.partFail p stLinkLost
      else
        (d.modChain x fun y => { y with tries := y.tries + 1 }).tell p (x.members[x.pos - 1]?.getD 0) 3 fkResend [x.idx, k] 16
    else
      let d1 := d.modChain x fun y => { y with next := k + 1, tries := 0 }
      let (d2, e) := d1.storeChunk p x k bs
      match e with
      | some .uncorr => (d2.pieceRecord p x.piece crc).partErr p (x.dst + k * chunkBytes) len .uncorr
      | some e => d2.partErr p (x.dst + k * chunkBytes) len e
      | none =>
        let d3 := d2.sendChunk p x k bs pieceCrc
        if k + 1 = x.chunks then d3.chainEnd p x pieceCrc else d3

/-- CHAIN_RESEND_REQUEST: the predecessor sends a chunk again (R319). -/
def Dev.chunkAgain (d : Dev) (p : CollPart) (x : ChainRun) (k : Nat) : Dev :=
  let n := x.len k
  match x.kept[k]? with
  | some bs => d.sendChunk p x k (toLe n bs) x.crc
  | none =>
    let a := if x.pos = 0 then x.src else x.dst
    match d.chainRead p (a + k * chunkBytes) n, d.chainRead p a x.bytes with
    | .ok bs, .ok all => d.sendChunk p x k bs (crc64 all)
    | .error e, _ => d.partErr p (a + k * chunkBytes) n e
    | _, .error e => d.partErr p a x.bytes e

/-- ROCE_READ_RESPONSE (R321): bytes of a head's chain land from network storage; a whole chunk is sent on. -/
def Dev.roceReadResponse (d : Dev) (conn b tag idx len data : Nat) : Dev :=
  match d.part? b tag with
  | none => d
  | some p => match d.chain? p idx with
    | none => d
    | some x =>
      if x.conn ≠ some conn || (d.conn conn).st ≠ 2 || x.next ≥ x.chunks || len = 0 || x.bufLen + len > x.len x.next || !d.enginesRun then d
      else
        let e := fld (d.conn conn).cfg 4 2
        let d := ((d.addW .ethPortRxBytes e len).addW .ethPortRetrans e (Config.freeNat d.free)).tick
        let n := x.bufLen + len
        let buf := x.buf + data % 2 ^ (8 * len) * 2 ^ (8 * x.bufLen)
        if n < x.len x.next then d.modChain x fun y => { y with buf := buf, bufLen := n }
        else
          let k := x.next
          let kept := x.kept ++ [buf]
          let x1 := { x with buf := 0, bufLen := 0, next := k + 1, kept := kept }
          let d1 := d.modChain x fun _ => x1
          let whole := ((upFrom 0 kept.length).zip kept).flatMap fun e => toLe (x.len e.1) e.2
          let last := k + 1 = x.chunks
          if last && crc64 whole != x.crc then (d1.pieceRecord p x.piece (crc64 whole)).partFail p stUncorr
          else
            let d2 := d1.headChunk p x1 k (toLe n buf) x.crc
            if last && (d2.part? b tag).isSome then (if x.stores then d2.chainEnd p x1 x.crc else d2.chainOver p x1) else d2

/-! ## Chain entries and the reshard plan (R316, R317) -/

/-- A chain entry (Table 11-8). -/
structure ChainEntry where
  piece : Nat
  members : Nat
  headStores : Bool
  memberOff : Nat
  srcOff : Nat
  dstOff : Nat
  bytes : Nat
  deriving DecidableEq, Repr

def parseChain (n : Nat) : Option ChainEntry :=
  let x : ChainEntry := { piece := bytesAt n 0 4, members := bytesAt n 4 2, headStores := bitAt n 48, memberOff := bytesAt n 8 8
                          srcOff := bytesAt n 16 8, dstOff := bytesAt n 24 8, bytes := bytesAt n 32 8 }
  if onlyFields n 384 [(0, 49), (64, 256)] && inRange 1 1024 x.members && inRange 1 (2 ^ 40) x.bytes then some x else none

/-- Read `n` chain entries with their members. -/
def Dev.readChains (d : Dev) (b chainVa memberVa n ranks : Nat) : Except MemErr (Option (List (ChainEntry × List Nat))) :=
  match d.readVa b chainVa (48 * n) with
  | .error e => .error e
  | .ok bs =>
    (chunksOf 48 n bs).foldr (fun c acc => match acc with
      | .ok (some l) => match parseChain (ofLe c) with
        | none => .ok none
        | some x => match d.readVaNat b (memberVa + 2 * x.memberOff) (2 * x.members) with
          | .error e => .error e
          | .ok m =>
            let ms := unpackCodes 16 x.members m
            if ms.all (fun r => decide (r < ranks)) && ms.eraseDups.length == ms.length then .ok (some ((x, ms) :: l)) else .ok none
      | o => o) (.ok (some []))

/-- This part's run of a chain. -/
def chainRun (c : Cmd) (idx rank srcBase dstBase : Nat) (e : ChainEntry × List Nat) : Option ChainRun :=
  if !e.2.contains rank then none
  else
    let pos := e.2.findIdx (· == rank)
    some { sq := c.sq, order := c.order, idx := idx, piece := e.1.piece, members := e.2, pos := pos, stores := pos != 0 || e.1.headStores
           src := srcBase + e.1.srcOff, dst := dstBase + e.1.dstOff, bytes := e.1.bytes }

/-- A quantisation job (Table 11-8). -/
structure Job where
  rank : Nat
  chain : Nat
  src : Nat
  elements : Nat
  lscale : Nat
  dstOff : Nat
  step : Nat
  fmt : FmtDesc
  deriving DecidableEq, Repr

def parseJob (n : Nat) : Option Job :=
  let fn := bytesAt n 48 40
  match parseFmt false (setFld fn 192 48 1) with
  | none => none
  | some f =>
    let j : Job := { rank := fld n 0 15, chain := bytesAt n 4 4, src := bytesAt n 8 8, elements := bytesAt n 16 8, lscale := bytesAt n 24 8
                     dstOff := bytesAt n 32 8, step := bytesAt n 40 4, fmt := { f with scaleVa := fld fn 192 48 } }
    if onlyFields n 768 [(0, 15), (32, 320), (384, 320)] && inRange 1 (2 ^ 40) j.elements && j.elements % f.rowLen == 0 && f.mode == .learned then
      some j
    else none

/-- A reshard plan as this module needs it: its jobs, its chains, and the plan's CRC. -/
structure TurnPlan where
  jobs : List Job
  chains : List (ChainEntry × List Nat)
  crc : Nat
  deriving DecidableEq, Repr

/-- Read a plan; `none` where it breaks R316. -/
def Dev.readTurnPlan (d : Dev) (b va ranks : Nat) : Except MemErr (Option TurnPlan) :=
  match d.readVa b va 64 with
  | .error e => .error e
  | .ok hb =>
    let h := ofLe hb
    let nc := bytesAt h 4 4
    let nj := bytesAt h 8 4
    if !onlyFields h 512 [(0, 96), (128, 192)] || bytesAt h 0 4 ≠ ranks || !inRange 1 1048576 nc || nj > 1048576 then .ok none
    else match d.readVa b (bytesAt h 16 8) (96 * nj), d.readVa b (bytesAt h 24 8) (48 * nc), d.readChains b (bytesAt h 24 8) (bytesAt h 32 8) nc ranks with
      | .error e, _, _ => .error e
      | _, .error e, _ => .error e
      | _, _, .error e => .error e
      | _, _, .ok none => .ok none
      | .ok jb, .ok cb, .ok (some cs) =>
        let js := (chunksOf 96 nj jb).map fun x => parseJob (ofLe x)
        let ms := cs.foldl (fun m x => max m (x.1.memberOff + x.1.members)) 0
        if js.any (·.isNone) then .ok none
        else match d.readVa b (bytesAt h 32 8) (2 * ms) with
          | .error e => .error e
          | .ok mb =>
            let js := js.filterMap id
            if js.all fun j => (cs[j.chain]?).any fun x => x.2.head? == some j.rank then .ok (some { jobs := js, chains := cs, crc := crc64 (hb ++ jb ++ cb ++ mb) })
            else .ok none

/-- Does every piece of this module's manifest travel in exactly one chain in which it stores, at the piece's place (R317)? -/
def Dev.planFits (d : Dev) (b va rank : Nat) (pl : TurnPlan) : Bool :=
  match d.readVaNat b va 64 with
  | .error _ => false
  | .ok h =>
    let n := bytesAt h 24 4
    let mine := pl.chains.filter fun x => x.2.contains rank && (x.1.headStores || x.2.head? != some rank)
    match d.readVa b (va + bytesAt h 48 8) (32 * n) with
    | .error _ => false
    | .ok bs =>
      let ps := (chunksOf 32 n bs).map ofLe
      mine.length == n && (upFrom 0 n).all fun i =>
        match mine.filter fun x => x.1.piece == i, ps[i]? with
        | [x], some e => x.1.dstOff == bytesAt e 0 8 && x.1.bytes == bytesAt e 8 8
        | _, _ => false

/-- One row of a quantisation job: its FP32 elements pass the load path (SCALE_MODE NONE, coarse scale 1.0) and the store path, on the copy
engine to which they are dealt. -/
def Dev.jobRow (c : Cmd) (g : Engines) (j : Job) (f : FmtDesc) (dst : Nat) (acc : Dev × Option MemErr) (r : Nat × List Nat) : Dev × Option MemErr :=
  match acc with
  | (d, some e) => (d, some e)
  | (d, none) =>
    let src : FmtDesc := { f with elem := .fp32, mode := .none, coarse := 0x3F800000, coarseSrc := false, stats := false }
    let (v, rl) := loadBlocks src c.flush (r.1 * f.blocksPerRow) ((chunksOf f.block f.blocksPerRow r.2).map fun x => (x, 0, 0x3F800000))
    let o := d.storeFmtRow c .va f dst r.1 (fun col => srDraw j.step f.tensorId 0 (r.1 * f.rowLen + col)) v
    let e := g.at_ (4 * r.1 * f.rowLen / unitBytes)
    let d1 := ((o.d.addW .pfstatEngBytesRd e (4 * r.2.length)).addW .pfstatEngBytesWr e o.bytes).addW .pfstatEngConv e r.2.length
    (d1.report c (unitCopy e) noOp (rl.join o.rep), o.bad)

/-- Run a quantisation job (R315) into the chain's bytes at the head. The learned scales are input operands, flushed as they are read (R55). -/
def Dev.runJob (d : Dev) (c : Cmd) (base : Nat) (j : Job) : Dev × Option (MemErr × Nat × Nat) :=
  let f := { j.fmt with scaleVa := base + j.fmt.scaleVa }
  let rows := j.elements / f.rowLen
  let nb := rows * f.blocksPerRow
  let sva := c.at 80 8 + 4 * j.lscale
  let mva := c.at 72 8 + 4 * j.src
  match d.readVaNat c.bay sva (4 * nb), d.readVaNat c.bay mva (4 * j.elements) with
  | .error e, _ => (d, some (e, sva, 4 * nb))
  | _, .error e => (d, some (e, mva, 4 * j.elements))
  | .ok ss, .ok ms =>
    let scales := (unpackCodes 32 nb ss).map (flushCode c.flush .fp32)
    let (d1, e1) := (d.report c unitModule noOp { flushed := scales.any (·.2) }).writeVa c.bay f.scaleVa (scales.map fun k => BitVec.ofNat 8 (learnedCode k.1))
    match e1 with
    | some e => (d1, some (e, f.scaleVa, nb))
    | none =>
      let dst := base + j.dstOff
      let (d2, e2) := ((upFrom 0 rows).zip (chunksOf f.rowLen rows (unpackCodes 32 j.elements ms))).foldl
        (Dev.jobRow c (c.engines 0 j.chain) j f dst) (d1, none)
      (d2, e2.map fun e => (e, dst, 0))

/-- Run the jobs of a rank, up to the first error. -/
def runJobs (c : Cmd) (bases : Nat → Nat) : Dev → List Job → Dev × Option (MemErr × Nat × Nat)
  | d, [] => (d, none)
  | d, j :: r => match d.runJob c (bases j.chain) j with
    | (d1, none) => runJobs c bases d1 r
    | x => x

/-! ## Starting the parts -/

/-- Is another TURN or SHEAF_SWITCH of a bay in flight? -/
def Dev.turnBusy (d : Dev) (b : Nat) : Bool := d.parts.any fun p => p.bay == b && (p.opcode == 0x40 || p.opcode == 0x42)

/-- A TURN or SHEAF_SWITCH that ends before it has a part. -/
def Dev.turnEnds (d : Dev) (c : Cmd) (status : Nat) : Dev := (d.turnDone c status 0).complete c status 0

/-- The statuses of Table 11-9, first to last. -/
def turnOrder : List Nat :=
  [stBadParam, stNoPerm, stBusy, stQuota, stAborted, stDeadline, stPeerLost, stLinkLost, stUncorr, stNanTrap]

/-- The first status of Table 11-9 that holds for a TURN or SHEAF_SWITCH, or for OPEN, that meets `s` at its start: another in flight, the
trap and the cutoff may come before it. -/
def Dev.turnFirst (d : Dev) (c : Cmd) (busy : Bool) (cutoff : Nat) (s : Nat) : Nat :=
  (turnOrder.find? fun x => x == s || (x == stBusy && busy) || (x == stAborted && c.trapped) || (x == stDeadline && decide (cutoff < d.now))).getD s

/-- The group that a TURN or SHEAF_SWITCH names, and this module's rank in it. -/
def Dev.turnGroup (d : Dev) (c : Cmd) (va : Nat) : Except Nat (List Member × Nat) :=
  match d.readGroup c.bay va with
  | .error .uncorr => .error stUncorr
  | .error _ => .error stBadParam
  | .ok none => .error stBadParam
  | .ok (some g) => match d.rankIn c.bay g with
    | none => .error stBadParam
    | some r => .ok (g, r)

/-- What every part of an agreement checks after its own fields: the tail of Table 11-9 up to LINK_LOST. -/
def Dev.turnLate (d : Dev) (c : Cmd) (g : List Member) (t : TurnSt) : Option Nat :=
  if c.trapped then some stAborted else if t.cutoff < d.now then some stDeadline else d.memberBad g

/-- TURN with DIRECTION TO_LEARN (R313). -/
def Dev.turnToLearn (d : Dev) (q : Nat) (start : CollPart → Dev → Dev) : Dev :=
  match d.running? q 0x40 with
  | none => d
  | some c =>
    if c.bits 16 0 1 ≠ 1 || (d.parts.any fun p => p.sq == q) || !d.enginesRun then d
    else if !c.only 2 [(16, 0, 1), (24, 0, 64), (32, 0, 128)] || c.deadline ≠ 0 || !inRange 1000 100000 (c.at 28 4) then
      d.refusePart c (c.at 24 4) (d.groupRank c.bay (c.at 40 8))
    else match d.turnGroup c (c.at 40 8) with
      | .error s => d.turnEnds c (d.turnFirst c (d.turnBusy c.bay) (c.at 32 8 - 1000 * c.at 28 4) s)
      | .ok (g, rank) =>
        let t : TurnSt := { sq := q, order := c.order, learn := true, switch := false, sheaf := 0, time := c.at 32 8, guard := c.at 28 4 }
        let p : CollPart := { sq := q, bay := c.bay, order := c.order, opcode := 0x40, tag := c.at 24 4, group := g, rank := rank }
        if d.turnBusy c.bay then d.partFail p stBusy
        else match d.turnLate c g t with
          | some s => d.partFail p s
          | none => start p { d with turns := d.turns ++ [t] }

/-- SHEAF_SWITCH (R326). -/
def Dev.sheafSwitch (d : Dev) (q : Nat) (start : CollPart → Dev → Dev) : Dev :=
  match d.running? q 0x42 with
  | none => d
  | some c =>
    if (d.parts.any fun p => p.sq == q) || !d.enginesRun then d
    else
      let bad := !c.only 1 [(16, 0, 96), (32, 0, 128)] || !inRange 1000 100000 (c.at 24 4)
        || (match d.sheaf? c.bay (c.at 16 4) with | some s => s.aux || s.st != 2 | none => true)
      if bad then d.refusePart c (c.at 20 4) (d.groupRank c.bay (c.at 40 8))
      else match d.turnGroup c (c.at 40 8) with
        | .error s => d.complete c (d.turnFirst c (d.turnBusy c.bay) (c.at 32 8 - 1000 * c.at 24 4) s) 0
        | .ok (g, rank) =>
          let t : TurnSt := { sq := q, order := c.order, learn := false, switch := true, sheaf := c.at 16 4, time := c.at 32 8, guard := c.at 24 4 }
          let p : CollPart := { sq := q, bay := c.bay, order := c.order, opcode := 0x42, tag := c.at 20 4, group := g, rank := rank }
          if d.turnBusy c.bay then d.partFail p stBusy
          else match d.turnLate c g t with
            | some s => d.partFail p s
            | none => start p { d with turns := d.turns ++ [t] }

/-- TURN with DIRECTION TO_GENERATE (R311, R312): phases 1 to 3, then the chains begin. -/
def Dev.turnToGenerate (d : Dev) (q : Nat) (start : CollPart → Dev → Dev) : Dev :=
  match d.running? q 0x40 with
  | none => d
  | some c =>
    let va := c.at 56 8
    let id := c.at 20 4
    if c.bits 16 0 1 ≠ 0 || (d.parts.any fun p => p.sq == q) || !d.enginesRun then d
    else if !c.only 2 [(16, 0, 1), (20, 0, 96), (32, 0, 448)] || c.deadline ≠ 0 || !inRange 1000 100000 (c.at 28 4) then
      d.refusePart c (c.at 24 4) (d.groupRank c.bay (c.at 40 8))
    else
      let first (s : Nat) : Nat := d.turnFirst c (d.turnBusy c.bay) (c.at 32 8 - 1000 * c.at 28 4) s
      match d.turnGroup c (c.at 40 8) with
      | .error s => d.turnEnds c (first s)
      | .ok (g, rank) =>
        let p : CollPart := { sq := q, bay := c.bay, order := c.order, opcode := 0x40, tag := c.at 24 4, group := g, rank := rank }
        match d.openCheck c.bay id va true, d.readTurnPlan c.bay (c.at 48 8) g.length with
        | .error _, .ok none => d.partFail p stBadParam
        | .error s, _ => d.partFail p (first ((if s = stUncorr then d.memberBad g else none).getD s))
        | _, .error .uncorr => d.partFail p (first ((d.memberBad g).getD stUncorr))
        | _, .error _ => d.partFail p stBadParam
        | _, .ok none => d.partFail p stBadParam
        | .ok x, .ok (some pl) =>
          let t : TurnSt := { sq := q, order := c.order, learn := false, switch := false, sheaf := id, time := c.at 32 8, guard := c.at 28 4, crc := pl.crc }
          if !d.planFits c.bay va rank pl then d.partFail p stBadParam
          else if d.turnBusy c.bay then d.partFail p stBusy
          else match d.turnLate c g t with
            | some s => d.partFail p s
            | none =>
              let base (e : ChainEntry) : Nat := if e.headStores then va else c.at 64 8
              let runs := ((upFrom 0 pl.chains.length).zip pl.chains).filterMap fun e =>
                (chainRun c e.1 rank (base e.2.1) va e.2).map fun r =>
                  { r with crcVa := if r.stores then some (va + (match d.readVaNat c.bay (va + 48) 8 with | .ok n => n | .error _ => 0) + 32 * r.piece + 16)
                                    else none }
              let p1 := { p with waits := runs.map fun r => { kind := 4, range := r.idx } }
              let d1 := { d.enterBuilding c.bay id va x with turns := d.turns ++ [t], chains := d.chains ++ runs }
              match runJobs c (fun i => (pl.chains[i]?.map fun e => base e.1 + e.1.srcOff).getD 0) d1 (pl.jobs.filter fun j => j.rank == rank) with
              | (d2, some (e, a, n)) => d2.partErr p1 a n e
              | (d2, none) =>
                if ((d2.partCmd p1).any (·.nan)) then d2.partFail p1 stNanTrap else start p1 d2

/-- CHAIN_BROADCAST (R320, R321). -/
def Dev.chainBroadcast (d : Dev) (q : Nat) (start : CollPart → Dev → Dev) : Dev :=
  match d.running? q 0x33 with
  | none => d
  | some c =>
    let roce := bitAt c.pkt 128
    let n := c.at 24 4
    let tag := c.at 20 4
    let crcOut := c.at 80 8
    let fields := [(16, 0, 1), (20, 0, 64), (32, 0, 192), (64, 0, 64), (80, 0, 64)] ++ (if roce then [(72, 0, 64)] else [(56, 0, 64)])
    if d.parts.any fun p => p.sq == q then d
    else if !c.only 2 fields || !inRange 1 1048576 n then d.refusePart c tag (d.groupRank c.bay (c.at 32 8))
    else if !d.enginesRun || (d.part? c.bay tag).isSome then d
    else match d.readGroup c.bay (c.at 32 8) with
      | .error e => d.collReadErr c (c.at 32 8) (d.groupLen c.bay (c.at 32 8)) e
      | .ok none => d.complete c stBadParam 0
      | .ok (some g) => match d.rankIn c.bay g with
        | none => d.complete c stBadParam 0
        | some rank =>
          let p : CollPart := { sq := q, bay := c.bay, order := c.order, opcode := 0x33, tag := tag, group := g, rank := rank }
          match d.readChains c.bay (c.at 40 8) (c.at 48 8) n g.length, (if roce then d.readVa c.bay (c.at 72 8) (32 * n) else .ok []) with
          | .error e, _ => if c.trapped then d.partFail p stAborted else d.partErr p (c.at 40 8) (48 * n) e
          | _, .error e => if c.trapped then d.partFail p stAborted else d.partErr p (c.at 72 8) (32 * n) e
          | .ok none, _ => d.partFail p stBadParam
          | .ok (some cs), .ok rb =>
            let res := (chunksOf 32 n rb).map ofLe
            let runs := ((upFrom 0 n).zip cs).filterMap fun e =>
              (chainRun c e.1 rank (c.at 56 8) (c.at 64 8) e.2).map fun r =>
                let x := (res[e.1]?).getD 0
                { r with crcVa := if r.stores && crcOut != 0 then some (crcOut + 8 * r.piece) else none
                         conn := if roce && r.pos == 0 then some (bytesAt x 0 4) else none
                         crc := if roce && r.pos == 0 then bytesAt x 16 8 else 0 }
            let bufs : List (Nat × Nat × Bool) := runs.flatMap fun r =>
              (if r.stores then [(r.dst, r.bytes, (d.refetchOf c.bay 0x33 r.dst r.bytes).isNone)] else []) ++ (if r.pos = 0 && !roce then [(r.src, r.bytes, false)] else [])
              ++ (match r.crcVa with | some a => [(a, 8, true)] | none => [])
            let conns := runs.filterMap (·.conn)
            if res.any (fun x => x ≥ 2 ^ 192) || bufs.any (fun r => d.outsideT1 c.bay r.1 r.2.1) then d.partFail p stBadParam
            else if conns.any (fun h => (d.conn h).st != 0 && fld (d.conn h).cfg 0 4 != c.bay) then d.partFail p stNoPerm
            else if c.trapped then d.partFail p stAborted
            else match d.rangesErr c.bay bufs with
              | some e => d.partFail p e.status
              | none =>
                if d.passed c then d.partFail p stDeadline
                else match d.memberBad g with
                  | some s => d.partFail p s
                  | none =>
                    if conns.any (fun h => (d.conn h).st != 2) then d.partFail p stLinkLost
                    else
                      let d1 := runs.foldl (fun d r => match r.conn, res[r.idx]? with
                        | some h, some x => d.ethSend (fld (d.conn h).cfg 4 2) 1 [h, bytesAt x 4 4, bytesAt x 8 8, r.bytes]
                        | _, _ => d) { d with chains := d.chains ++ runs }
                      start { p with waits := runs.map fun r => { kind := 4, range := r.idx } } d1

/-- FW_RELAY (17 R499): the staged image travels along chains between staging windows. -/
def Dev.fwRelay (d : Dev) (q : Nat) (start : CollPart → Dev → Dev) : Dev :=
  match d.running? q 0xB1 with
  | none => d
  | some c =>
    let n := c.at 20 4
    let tag := c.at 16 4
    if d.parts.any fun p => p.sq == q then d
    else if !c.only 2 [(16, 0, 64), (24, 0, 192)] || !inRange 1 1048576 n then d.refusePart c tag (d.groupRank c.bay (c.at 24 8))
    else if !d.enginesRun || (d.part? c.bay tag).isSome then d
    else match d.readGroup c.bay (c.at 24 8) with
      | .error e => d.collReadErr c (c.at 24 8) (d.groupLen c.bay (c.at 24 8)) e
      | .ok none => d.complete c stBadParam 0
      | .ok (some g) => match d.rankIn c.bay g with
        | none => d.complete c stBadParam 0
        | some rank =>
          let p : CollPart := { sq := q, bay := c.bay, order := c.order, opcode := 0xB1, tag := tag, group := g, rank := rank }
          match d.readChains c.bay (c.at 32 8) (c.at 40 8) n g.length with
          | .error e => if c.trapped then d.partFail p stAborted else d.partErr p (c.at 32 8) (48 * n) e
          | .ok none => d.partFail p stBadParam
          | .ok (some cs) =>
            let runs := ((upFrom 0 n).zip cs).filterMap fun e => chainRun c e.1 rank 0 0 e.2
            let bad := cs.any fun x => x.1.piece != 0 || x.1.headStores || decide (x.1.srcOff + x.1.bytes > stageSize) || decide (x.1.dstOff + x.1.bytes > stageSize)
            if bad then d.partFail p stBadParam
            else if c.trapped then d.partFail p stAborted
            else if d.passed c then d.partFail p stDeadline
            else match d.memberBad g with
              | some s => d.partFail p s
              | none =>
                let d1 := { d with chains := d.chains ++ runs }
                let d2 := if runs.any (·.stores) then d1.sb .bringStageSts 0 1 true else d1
                start { p with waits := runs.map fun r => { kind := 4, range := r.idx } } d2

/-- The heads of a part whose bytes are in memory send their chains. -/
def Dev.headsRun (d : Dev) (p : CollPart) : Dev :=
  (d.chains.filter fun x => x.sq == p.sq && x.order == p.order && x.pos == 0 && x.conn.isNone).foldl
    (fun d x => if (d.part? p.bay p.tag).isSome then d.headRun p x else d) d

/-! ## The decision and the switch (R307 to R309) -/

/-- AGREEMENT_CUTOFF: the cutoff comes before every rank is ready. -/
def Dev.agreementCutoff (d : Dev) (q : Nat) : Dev :=
  match d.parts.find? fun p => p.sq == q && p.rank == 0 with
  | none => d
  | some p => match d.turn? p with
    | none => d
    | some t => if t.decided || d.now < t.cutoff then d else d.agree p false stDeadline

/-- DECISION_TIMEOUT (R309): no decision has come at SWITCH_TIME + 1,000 × GUARD_US ns, holds not counted. -/
def Dev.decisionTimeout (d : Dev) (q : Nat) : Dev :=
  match d.parts.find? fun p => p.sq == q with
  | none => d
  | some p => match d.turn? p with
    | none => d
    | some t =>
      if t.decision.isSome || d.now < t.time + 1000 * t.guard + t.paused then d
      else d.partFail p (if d.rankLost p 0 then stPeerLost else stDeadline)

/-- A TURN or SHEAF_SWITCH that has acted completes. -/
def Dev.turnOver (d : Dev) (p : CollPart) (late : Nat) : Dev :=
  match d.partCmd p with
  | none => d
  | some c => ((d.dropPart p).turnDone c stOk late).finish p.sq stOk late

/-- SWITCH_ACT (R308): at the first beat at or after SWITCH_TIME and the decision, out of every hold, the action applies. A TURN
that requested an array configuration completes once that is in force. DEDUCED log 31: where the named sheaf is no longer a PUBLISHED
MAIN sheaf (SHEAF_RETIRE may come between the ready report and the action), no transition of Table 11-1 is left and the command
completes BAD_PARAM, the wrong state of Table 11-9. -/
def Dev.switchAct (d : Dev) (q : Nat) : Dev :=
  match d.parts.find? fun p => p.sq == q with
  | none => d
  | some p => match (if p.opcode = 0x70 then none else d.turn? p) with
    | none => d
    | some t => match t.decision, t.acted with
      | some (true, _, came), none =>
        let due := alignUp (max t.time came) 4
        if d.now < due || !d.enginesRun then d
        else if !t.learn && !d.maySwitch p.bay t.sheaf then d.partFail p stBadParam
        else
          let late := if came > t.time || d.now > due then min (d.now - t.time) 0xFFFFFFFF else 0
          let d1 := if t.learn then d else d.switchTo p.bay t.sheaf
          let target := if t.learn then 2 else 1
          if t.switch || !(p.bay == 0 || d.rbit .bayId p.bay 6) then d1.turnOver p late
          else
            let d2 := d1.arrayRequest target true
            if d2.fd .thatchArraySts 0 0 2 = target && !d2.rbit .thatchArraySts 0 2 && !d2.rbit .thatchArraySts 0 3 then d2.turnOver p late
            else d2.modTurn p fun t => { t with acted := some late }
      | _, _ => d

/-- TURNs whose array configuration has been dealt with complete: called when a configuration switch ends. -/
def Dev.turnsResume (d : Dev) : Dev :=
  d.parts.foldl (fun d p => match d.turn? p with
    | some t => (match t.acted with
      | some late => if d.rbit .thatchArraySts 0 2 || d.rbit .thatchArraySts 0 3 then d else d.turnOver p late
      | none => d)
    | none => d) d

end Sys2Proof.Machine
end

