-- ==== Sys2Proof/Machine/Kv.lean ====
section
/-!
DEFINITION. Machine/Kv.lean: key-value caches (08 R226 to R240): the serving pool, directories, page tables and pages.
Where the spec is silent or is read by inference: DESIGN CHOICE logs 33, 34; DEDUCED log 76 (notes/assumptions).
-/
namespace Sys2Proof.Machine

/-! ## Layout (R229, R231, R232) -/

def KvCache.h (k : KvCache) : Nat := 64 * 2 ^ k.dim

/-- Entries of the directory: layers by KV heads. -/
def KvCache.lh (k : KvCache) : Nat := k.layers * k.heads

/-- Bytes of the values of a page. -/
def KvCache.vb (k : KvCache) : Nat := kvValueBytes k.h k.e2m1

/-- PB of R229. -/
def KvCache.pageBytes (k : KvCache) : Nat := alignUp (64 * k.h + k.vb + 2 * k.h) 256

/-- Entries of a global table for which a directory has room: those of the largest GCOUNT, for the pattern is the first step's (R227, R234). -/
def KvCache.globPages (_ : KvCache) : Nat := 128

/-- PATTERN_VA, MAIN_PT_VA and GLOBAL_PT_VA of entry `e`: the tables follow the directory. -/
def KvCache.patternVa (k : KvCache) : Nat := k.dir + 64 + 32 * k.lh
def KvCache.mainPt (k : KvCache) (e : Nat) : Nat := k.patternVa + 16 * k.layers + e * (k.maxPos / 8)
def KvCache.globPt (k : KvCache) (e : Nat) : Nat := k.patternVa + 16 * k.layers + k.lh * (k.maxPos / 8) + e * (8 * k.globPages)

/-- Bytes of the directory with its tables. -/
def KvCache.tableBytes (k : KvCache) : Nat := 64 + 32 * k.lh + 16 * k.layers + k.lh * (k.maxPos / 8) + k.lh * (8 * k.globPages)

/-- The shape of a sheaf's caches (Table 8-3). -/
def Manifest.cache (m : Manifest) (aux maxPos : Nat) : KvCache :=
  { aux := aux, dir := 0, layers := m.layers, heads := m.kvHeads, dim := if m.headDim = 64 then 0 else if m.headDim = 128 then 1 else 2
    e2m1 := m.vE2m1, maxPos := maxPos }

/-- Do two caches have one shape? -/
def KvCache.like (a b : KvCache) : Bool := a.layers == b.layers && a.heads == b.heads && a.dim == b.dim && a.e2m1 == b.e2m1

/-! ## Sheaves, read for serving -/

/-- The manifest of a resident sheaf. -/
def Dev.manifest? (d : Dev) (b id : Nat) : Option Manifest :=
  match d.sheaf? b id with
  | none => none
  | some s => match d.readVaNat b s.regionVa 64 with
    | .ok n => parseManifest n
    | .error _ => none

/-- A layer entry of a resident sheaf. -/
def Dev.layer? (d : Dev) (b id l : Nat) : Option LayerEntry :=
  match d.sheaf? b id, d.manifest? b id with
  | some s, some m => match d.readVaNat b (s.regionVa + m.layerOff + 48 * l) 48 with
    | .ok n => parseLayer n
    | .error _ => none
  | _, _ => none

/-- The bytes of a sheaf's region and of its base's. -/
def Dev.weights (d : Dev) (b id : Nat) : Except Nat (List Byte) :=
  match d.sheaf? b id with
  | none => .error stBadParam
  | some s => match d.readVa b s.regionVa s.regionBytes with
    | .error e => .error e.status
    | .ok bs =>
      if s.base = 0 then .ok bs
      else match d.sheaf? s.baseBay s.base with
        | none => .error stBadParam
        | some t => match d.readVa s.baseBay t.regionVa t.regionBytes with
          | .error e => .error e.status
          | .ok cs => .ok (bs ++ cs)

/-- Does any layer of a sheaf have the DENSE pattern? -/
def Dev.anyDense (d : Dev) (b id layers : Nat) : Bool :=
  (upFrom 0 layers).any fun l => match d.layer? b id l with | some e => !e.pattern.sparse | none => true

/-- R334: may a sequence of this addition and MAX_POS run on the sheaf, its main cache given once it has one? -/
def Dev.fits (d : Dev) (b id addition maxPos : Nat) (main : Option KvCache) : Bool :=
  match d.manifest? b id with
  | none => false
  | some m => decide (addition ≤ m.adds) && (decide (maxPos ≤ 262144) || !d.anyDense b id m.layers)
    && (match main with | some k => k.like (m.cache 0 maxPos) | none => true)

/-! ## The serving pool (R235, R339, R356) -/

/-- Change a bay's sequences. -/
def Dev.modSeqs (d : Dev) (b : Nat) (f : List Seq → List Seq) : Dev := d.modBay b fun x => { x with seqs := f x.seqs }

/-- A sequence or handle by serial. -/
def Dev.seqOf (d : Dev) (b serial : Nat) : Option Seq := (d.bay b).seqs.find? fun s => s.serial == serial

/-- Change it. -/
def Dev.modSeq (d : Dev) (b serial : Nat) (f : Seq → Seq) : Dev := d.modSeqs b fun ss => ss.map fun s => if s.serial == serial then f s else s

/-- Pool ranges in use or reserved, as (VA, bytes). -/
def Dev.poolRanges (d : Dev) (b : Nat) : List (Nat × Nat) :=
  (d.bay b).seqs.flatMap fun s => s.own ++ s.resv.map fun r => (r.2.2.1, r.2.2.2)

/-- Does every byte of a range lie on the stack wanted, if one is? A page lies on one stack, and none is smaller than 64 KiB. -/
def Dev.onStack (d : Dev) (b a n : Nat) (stack : Option Nat) : Bool := match stack with
  | none => true
  | some s => (upFrom (a / 0x10000) ((a + n - 1) / 0x10000 - a / 0x10000 + 1)).all fun j => d.stackOf b (max a (j * 0x10000)) == s

/-- Does a range lie in 64 KiB small pages? -/
def Dev.smallPages (d : Dev) (b a n : Nat) : Bool := (d.pieces b a n).all fun p? => match p? with
  | some p => (match d.obj? p.objBay p.objId with | some o => o.small | none => false)
  | none => false

/-- The lowest free range of `n` bytes from `a` in steps of `al` that a wish allows. -/
def Dev.freeRange (d : Dev) (b n al stop : Nat) (ok : Nat → Bool) (used : List (Nat × Nat)) : Nat → Nat → Option Nat
  | 0, _ => none
  | fuel + 1, a =>
    if a + n ≤ stop && !(used.any fun u => overlap a n u.1 u.2) && d.ownT1 b a n && ok a then some a
    else d.freeRange b n al stop ok used fuel (a + al)

/-- Where `n` bytes of bay `b`'s pool may lie, beside `taken`: on the stack of R235 for a page, anywhere for a directory. -/
def Dev.poolFind (d : Dev) (b n al : Nat) (stack : Option Nat) (taken : List (Nat × Nat)) : Option Nat :=
  let a := d.rd .bayServePoolVa b
  let bytes := d.rd .bayServePoolBytes b
  d.freeRange b n al (a + bytes) (fun x => d.onStack b x n stack) (d.poolRanges b ++ taken) (bytes / al) a

/-- Where a 64 KiB small page on a stack may lie (R240). -/
def Dev.poolSmall (d : Dev) (b stack : Nat) (taken : List (Nat × Nat)) : Option Nat :=
  let a := d.rd .bayServePoolVa b
  let bytes := d.rd .bayServePoolBytes b
  d.freeRange b 0x10000 0x10000 (a + bytes) (fun x => d.onStack b x 0x10000 (some stack) && d.smallPages b x 0x10000) (d.poolRanges b ++ taken)
    (bytes / 0x10000) a

/-- The registers that tell of the bay's pool, sequences and handles (Table 12-7). -/
def Dev.serveRegs (d : Dev) (b : Nat) : Dev :=
  let ss := (d.bay b).seqs.filter fun s => !s.closed
  ((d.wr .bayServeSts b (ss.filter fun s => !s.handle).length).wr .bayPrefixSts b (ss.filter fun s => s.handle).length).wr .bayServePoolFree b
    (d.rd .bayServePoolBytes b - sumN ((d.poolRanges b).map (·.2)))

/-- The stack of page `j` of entry `e` of a cache of a sequence or handle whose number is `id` (R235). -/
def KvCache.stack (k : KvCache) (id e j : Nat) : Nat := (id % 32 + e / k.heads + 4 * (e % k.heads) + j / 16) % 32

/-- The page table entry of page `j` of entry `e`, main or global. -/
def KvCache.pte (k : KvCache) (glob : Bool) (e j : Nat) : Nat := (if glob then k.globPt e else k.mainPt e) + 8 * j

/-- A page table entry (Table 8-5): its page where one is present. -/
def Dev.pageAt (d : Dev) (b pte : Nat) : Except Nat (Option Nat) :=
  match d.readVaNat b pte 8 with
  | .ok n => .ok (if bitAt n 0 then some (fld n 8 40 * 256) else none)
  | .error e => .error e.status

/-- Is a page present? -/
def Dev.hasPage (d : Dev) (b pte : Nat) : Bool := match d.pageAt b pte with | .ok (some _) => true | _ => false

/-- A write of the Bylliroth's own, after the ones before it: a status where one has failed. -/
def Dev.andWrite (x : Dev × Option Nat) (b a : Nat) (bs : List Byte) : Dev × Option Nat := match x with
  | (d, some s) => (d, some s)
  | (d, none) => let (d1, e) := d.writeVa b a bs; (d1, e.map MemErr.status)

/-- Write a page table entry. -/
def Dev.setPte (d : Dev) (b pte page : Nat) (shared : Bool) : Dev × Option Nat :=
  Dev.andWrite (d, none) b pte (toLe 8 (page + 1 + (if shared then 2 else 0)))

/-- The pattern of a layer of a cache: the one in its directory, or, before its first step, that of a sheaf. -/
def Dev.patternOf (d : Dev) (b sheaf : Nat) (k : KvCache) (l : Nat) : Option Pattern :=
  if k.scaleSheaf = 0 then (d.layer? b sheaf l).map (·.pattern)
  else match d.readVaNat b (k.patternVa + 16 * l) 16 with
    | .ok n => parsePattern n
    | .error _ => none

/-- The global positions of a pattern in `[a, z)` with their slots (08, before R226). -/
def Pattern.globals (p : Pattern) (a z : Nat) : List (Nat × Nat) :=
  if !p.sparse || p.gcount = 0 then []
  else
    let k0 := (a + 1 + (p.gstride - 1)) / p.gstride - 1
    ((upFrom k0 (min p.gcount (z / p.gstride) - k0)).map fun k => (k, k * p.gstride + p.gstride - 1)).filter fun x => decide (a ≤ x.2) && decide (x.2 < z)

/-- The pages that positions `[a, z)` of a cache need, as (global, entry, page). -/
def Dev.pagesFor (d : Dev) (b sheaf : Nat) (k : KvCache) (a z : Nat) : List (Bool × Nat × Nat) :=
  (upFrom 0 k.lh).flatMap fun e =>
    (if a < z then upFrom (a / 64) ((z - 1) / 64 + 1 - a / 64) else []).map (fun j => (false, e, j))
    ++ (match d.patternOf b sheaf k (e / k.heads) with
      | some p => ((p.globals a z).map fun x => x.1 / 64).eraseDups.map fun j => (true, e, j)
      | none => [])

/-- Reserve pages one by one for a request: what it reserved, as (PTE, VA, bytes), or none where the pool has no room. -/
def Dev.reserve (d : Dev) (b id : Nat) (k : KvCache) : List (Bool × Nat × Nat) → List (Nat × Nat × Nat) → List (Nat × Nat) → Option (List (Nat × Nat × Nat))
  | [], acc, _ => some acc
  | (g, e, j) :: r, acc, taken =>
    let pte := k.pte g e j
    if d.hasPage b pte || acc.any (fun x => x.1 == pte) then d.reserve b id k r acc taken
    else match d.poolFind b k.pageBytes 256 (some (k.stack id e j)) taken with
      | none => none
      | some a => d.reserve b id k r (acc ++ [(pte, a, k.pageBytes)]) (taken ++ [(a, k.pageBytes)])

/-- Reserve the pages of a handle one by one (R240): they lie in 64 KiB small pages on their stacks that hold nothing else, as many in each as
it has room for. Each page as (PTE, VA, bytes), and the small pages, each with its stack, the bytes of a page and the room left. -/
def Dev.reserveShared (d : Dev) (b : Nat) : List (Nat × Nat × Nat) → List (Nat × Nat × Nat) → List (Nat × Nat × Nat × Nat) →
    Option (List (Nat × Nat × Nat) × List (Nat × Nat))
  | [], acc, open_ => some (acc, open_.map fun o => (o.1, 0x10000))
  | (pte, n, s) :: r, acc, open_ =>
    match open_.find? fun o => o.2.1 == s && o.2.2.1 == n && decide (o.2.2.2 ≥ n) with
    | some o => d.reserveShared b r (acc ++ [(pte, o.1 + (0x10000 - o.2.2.2), n)])
        (open_.map fun x => if x.1 == o.1 then (x.1, x.2.1, x.2.2.1, x.2.2.2 - n) else x)
    | none => match d.poolSmall b s (open_.map fun o => (o.1, 0x10000)) with
      | none => none
      | some a => d.reserveShared b r (acc ++ [(pte, a, n)]) (open_ ++ [(a, s, n, 0x10000 - n)])

/-- The pages of a handle's caches. -/
def Dev.reserveHandle (d : Dev) (b id : Nat) (ks : List (KvCache × List (Bool × Nat × Nat))) : Option (List (Nat × Nat × Nat) × List (Nat × Nat)) :=
  d.reserveShared b (ks.flatMap fun k => k.2.map fun p => (k.1.pte p.1 p.2.1 p.2.2, k.1.pageBytes, k.1.stack id p.2.1 p.2.2)) [] []

/-- A page for a table entry: the one present, the one reserved, or a free one; QUOTA where the pool has none. -/
def Dev.ensurePage (d : Dev) (b serial : Nat) (k : KvCache) (g : Bool) (e j : Nat) : Dev × Except Nat Nat :=
  let pte := k.pte g e j
  let put (x : Dev) (a : Nat) : Dev × Except Nat Nat := match x.setPte b pte a false with
    | (y, none) => (y, .ok a)
    | (y, some s) => (y, .error s)
  match d.pageAt b pte, d.seqOf b serial with
  | .error s, _ => (d, .error s)
  | .ok (some p), _ => (d, .ok p)
  | .ok none, none => (d, .error stQuota)
  | .ok none, some s => match s.resv.find? fun r => r.2.1 == pte with
    | some r =>
      put (d.modSeq b serial fun x =>
        { x with resv := x.resv.filter (fun y => y.2.1 != pte), own := if x.handle then x.own else x.own ++ [(r.2.2.1, r.2.2.2)] }) r.2.2.1
    | none => match d.poolFind b k.pageBytes 256 (some (k.stack s.id e j)) [] with
      | none => (d, .error stQuota)
      | some a => put (d.modSeq b serial fun x => { x with own := x.own ++ [(a, k.pageBytes)] }) a

/-! ## Directories (R231, R234) -/

/-- The directory header (Table 8-3). -/
def KvCache.header (k : KvCache) (id pre : Nat) : Nat :=
  mkFields [(0, 32, id), (32, 32, k.scaleSheaf), (64, 32, k.committed), (96, 32, k.maxPos), (128, 16, k.layers), (144, 8, k.heads), (152, 2, k.dim),
    (154, 1, if k.e2m1 then 1 else 0), (160, 32, pre), (192, 64, k.patternVa)]

/-- A new directory: header and entries, with empty tables. -/
def Dev.writeDir (d : Dev) (b id pre : Nat) (k : KvCache) : Dev × Option Nat :=
  let es := (upFrom 0 k.lh).flatMap fun e => toLe 32 (k.mainPt e)
  Dev.andWrite (d, none) b k.dir (toLe 64 (k.header id pre) ++ es ++ List.replicate (k.tableBytes - 64 - 32 * k.lh) 0)

/-- Cache `i` of a sequence or handle. -/
def Dev.cacheOf (d : Dev) (b serial i : Nat) : Option KvCache := (d.seqOf b serial).bind fun s => s.caches[i]?

/-- Change it. -/
def Dev.modCache (d : Dev) (b serial i : Nat) (f : KvCache → KvCache) : Dev := d.modSeq b serial fun x => { x with caches := modAt x.caches i f }

/-- COMMITTED of a cache moves, once its directory says so. -/
def Dev.setCommitted (d : Dev) (b serial i n : Nat) : Dev × Option Nat :=
  match d.cacheOf b serial i with
  | none => (d, none)
  | some k => match Dev.andWrite (d, none) b (k.dir + 8) (toLe 4 n) with
    | (d1, some s) => (d1, some s)
    | (d1, none) => (d1.modCache b serial i fun y => { y with committed := n }, none)

/-- The entries that a directory takes from a sheaf: pattern and coarse scales of each layer and KV head, or the error of the sheaf's read. -/
def Dev.scalesFrom (d : Dev) (b sheaf l g : Nat) : Except Nat (Nat × Nat × Nat) :=
  match d.sheaf? b sheaf, d.manifest? b sheaf with
  | some s, some m => match d.readVaNat b (s.regionVa + m.layerOff + 48 * l) 48 with
    | .error e => .error e.status
    | .ok n => match parseLayer n with
      | none => .error stBadParam
      | some le => match d.readVaNat b (s.regionVa + le.kvScale + 8 * g) 8 with
        | .error e => .error e.status
        | .ok x => .ok (bytesAt n 0 16, bytesAt x 0 4, bytesAt x 4 4)
  | _, _ => .error stBadParam

/-- R234: a cache takes the pattern table and coarse scales of a sheaf with its first write. -/
def Dev.takeScales (d : Dev) (b serial i sheaf : Nat) : Dev × Option Nat :=
  match d.cacheOf b serial i with
  | none => (d, none)
  | some k =>
    if k.scaleSheaf ≠ 0 then (d, none)
    else
      let x := (upFrom 0 k.lh).foldl (fun (x : Dev × Option Nat) e => match x.1.scalesFrom b sheaf (e / k.heads) (e % k.heads) with
        | .error s => (x.1, x.2.or (some s))
        | .ok (pat, ck, cv) =>
          let glob := match parsePattern pat with | some p => p.sparse && p.gcount != 0 | none => false
          Dev.andWrite (Dev.andWrite x b (k.patternVa + 16 * (e / k.heads)) (toLe 16 pat)) b (k.dir + 64 + 32 * e)
            (toLe 24 (mkFields [(0, 64, k.mainPt e), (64, 64, if glob then k.globPt e else 0), (128, 32, ck), (160, 32, cv)])))
        (Dev.andWrite (d, none) b (k.dir + 4) (toLe 4 sheaf))
      if x.2.isSome then x else (x.1.modCache b serial i fun y => { y with scaleSheaf := sheaf }, none)

/-- CK and CV of a directory entry (Table 8-4). -/
def Dev.dirScales (d : Dev) (b : Nat) (k : KvCache) (e : Nat) : Nat × Nat :=
  match d.readVaNat b (k.dir + 64 + 32 * e + 16) 8 with
  | .ok n => (bytesAt n 0 4, bytesAt n 4 4)
  | .error _ => (0, 0)

/-! ## What a row sees (R226) -/

/-- Is position `p` visible to a row at position `i`? -/
def Pattern.visible (pat : Pattern) (i p : Nat) : Bool :=
  decide (p ≤ i) && (!pat.sparse || decide (p < pat.sink) || decide (i - p < pat.window) || !(pat.globals p (p + 1)).isEmpty)

/-- Where the parts of slot `s` of a page lie: keys, values, key scales, value scales, with their bytes (Table 8-2). -/
def KvCache.slot (k : KvCache) (page s : Nat) : List (Nat × Nat) :=
  let h := k.h
  [(page + s * h, h), (page + 64 * h + s * k.vb / 64, k.vb / 64), (page + 64 * h + k.vb + s * h / 64, h / 64), (page + 65 * h + k.vb + s * h / 64, h / 64)]

/-- Copy a slot bitwise: one part after another, each from where the first list puts it to where the second does. -/
def Dev.copySlot (x : Dev × Option Nat) (b : Nat) (src dst : List (Nat × Nat)) : Dev × Option Nat :=
  (src.zip dst).foldl (fun (x : Dev × Option Nat) r => match x with
    | (d, some s) => (d, some s)
    | (d, none) => match d.readVa b r.1.1 r.1.2 with
      | .error e => (d, some e.status)
      | .ok bs => Dev.andWrite (d, none) b r.2.1 bs) x

/-! ## Writing rows (R230, R233) -/

/-- Exactly `n` codes. -/
def fitRow (n : Nat) (l : List Nat) : List Nat := (l ++ List.replicate n 0).take n

/-- The destination descriptor of a key or value row (R230). -/
def kvStoreFmt (elem : Fmt) (abs : Bool) (tensor coarse h scaleVa : Nat) : FmtDesc :=
  { elem := elem, mode := if abs then .absmax else .mse, block := 64, round := 0, ovfIeee := false, coarseSrc := false, stats := true
    tensorId := tensor, coarse := coarse, rowLen := h, sliceBlocks := 0, scaleVa := scaleVa, coarseVa := 0 }

/-- Store the key and value rows of one position of one entry; DESIGN CHOICE log 76: the block index of each row counts from 0. -/
def Dev.storeKv (d : Dev) (c : Cmd) (k : KvCache) (abs : Bool) (le : LayerEntry) (e page s : Nat) (key val : List Nat) : Dev × Option Nat :=
  let sc := d.dirScales c.bay k e
  let h := k.h
  let x := d.storeFmtRow c .va (kvStoreFmt .e4m3 abs le.kTensor sc.1 h (page + 64 * h + k.vb + s * h / 64)) (page + s * h) 0 (fun _ => 0) key
  let y := x.d.storeFmtRow c .va (kvStoreFmt (if k.e2m1 then .e2m1 else .e4m3) abs le.vTensor sc.2 h (page + 65 * h + k.vb + s * h / 64))
    (page + 64 * h + s * k.vb / 64) 0 (fun _ => 0) val
  let unit := unitLath (Config.freeNat y.d.free % 192)
  (y.d.tick.report c unit (e / k.heads) (x.rep.join y.rep), (x.bad.or y.bad).map MemErr.status)

/-- The bytes of a bay's KV pages that no commit covers: the slots at or beyond COMMITTED of every page that a main table names, as (object, offset,
bytes); an underlay shows them as zero blocks (R239). -/
def Dev.provisional (d : Dev) (b : Nat) : List (Nat × Nat × Nat) :=
  (d.bay b).seqs.flatMap fun s => s.caches.flatMap fun k => (upFrom 0 k.lh).flatMap fun e =>
    (upFrom (k.committed / 64) (k.maxPos / 64 - k.committed / 64)).flatMap fun j => match d.pageAt b (k.pte false e j) with
      | .ok (some p) => (upFrom (k.committed - 64 * j) (64 - (k.committed - 64 * j))).flatMap fun t => (k.slot p t).flatMap fun r =>
          (d.pieces b r.1 r.2).filterMap fun x => x.map fun y => (y.objId, y.off, y.len)
      | _ => []

/-! ## Commit -/

/-- R233: positions `[a, z)` of a cache are committed: those that are global are copied to their global slots; the status that stops it. -/
def Dev.copyGlobals (d : Dev) (b serial i a z : Nat) : Dev × Option Nat :=
  match d.cacheOf b serial i with
  | none => (d, none)
  | some k => (upFrom 0 k.lh).foldl (fun (x : Dev × Option Nat) e => match x.1.patternOf b k.scaleSheaf k (e / k.heads) with
    | none => (x.1, x.2.or (some stUncorr))
    | some pat => (pat.globals a z).foldl (fun (x : Dev × Option Nat) g => match x with
      | (d, some s) => (d, some s)
      | (d, none) => match d.pageAt b (k.pte false e (g.2 / 64)), d.ensurePage b serial k true e (g.1 / 64) with
        | .error s, _ => (d, some s)
        | .ok none, _ => (d, some stBadParam)
        | .ok (some _), (d1, .error s) => (d1, some s)
        | .ok (some src), (d1, .ok dst) => Dev.copySlot (d1, none) b (k.slot src (g.2 % 64)) (k.slot dst (g.1 % 64))) x) (d, none)

/-- Commit a cache up to `n` positions: COMMITTED moves once the global slots hold its data. -/
def Dev.commitCache (d : Dev) (b serial i n : Nat) : Dev × Option Nat :=
  match d.cacheOf b serial i with
  | none => (d, none)
  | some k => if n ≤ k.committed then (d, none) else match d.copyGlobals b serial i k.committed n with
    | (d1, some s) => (d1, some s)
    | (d1, none) => d1.setCommitted b serial i n

end Sys2Proof.Machine
end

