-- ==== Sys2Proof/Machine/Attention.lean ====
section
/-!
DEFINITION. Machine/Attention.lean: the attention of a STEP (08 R241 to R246): the spans of decode rows, their ATTEND items and the merge of
the partials; and the prefill procedure on the Thatch array.
Where the spec is silent or is read by inference: DESIGN CHOICE logs 16, 33 (notes/assumptions).
-/
namespace Sys2Proof.Machine

/-! ## Spans and items (R242, R243) -/

/-- A span of the main or the global page table: positions or slots, LIMIT0, CANDS and its first candidate. -/
structure Span where
  glob : Bool
  start : Nat
  stop : Nat
  limit : Nat
  cands : Nat
  cand : Nat
  deriving DecidableEq, Repr

/-- A global that no global slot holds or none may be used for: its one position in the main table. -/
def Span.one (g cands cand : Nat) : Span := ⟨false, g, g + 1, g, cands, cand⟩

/-- The procedure cut of R242 for `c` candidates from position `i`. A global at or beyond COMMITTED has no slot yet (R233): its position is read
through the main table. -/
def Pattern.cut (pat : Pattern) (committed i c : Nat) : List Span :=
  if !pat.sparse then [⟨false, 0, i + c, i, c, 0⟩]
  else
    let w := pat.window
    let cs := i + c - w
    let sk := min pat.sink cs
    let left := i + 1 - w
    let lo := (pat.globals 0 pat.sink).length
    let hi := (pat.globals 0 (min left committed)).length
    (if sk > 0 then [⟨false, 0, sk, sk - 1, c, 0⟩] else [])
    ++ (if hi > lo then [⟨true, lo, hi, hi - 1, c, 0⟩] else [])
    ++ ((pat.globals (max pat.sink committed) left).map fun g => Span.one g.2 c 0)
    ++ ((upFrom 0 c).flatMap fun k =>
      let t0 := max pat.sink (i + k + 1 - w)
      ((pat.globals (max pat.sink left) (i + k + 1 - w)).map fun g => Span.one g.2 1 k) ++ (if t0 < cs then [⟨false, t0, cs, cs - 1, 1, k⟩] else []))
    ++ [⟨false, cs, i + c, i, c, 0⟩]

/-- The pieces of a span: cut at every multiple of 1,024. -/
def Span.pieces (s : Span) : List Span :=
  if s.stop ≤ s.start then []
  else (upFrom (s.start / 1024) ((s.stop - 1) / 1024 - s.start / 1024 + 1)).map fun q =>
    { s with start := max s.start (1024 * q), stop := min s.stop (1024 * q + 1024) }

/-- What the attention of one KV head of one layer of a sequence works on: the cache and the head's directory entry, the pattern, the layer's
score factor and query scale, GROUP, CK and CV, and the sequence's SEQ_SLOT. -/
structure AttHead where
  k : KvCache
  e : Nat
  pat : Pattern
  scale : Nat
  cq : Nat
  group : Nat
  ck : Nat
  cv : Nat
  slot : Nat
  deriving DecidableEq, Repr

/-- The ATTEND items of `c` candidates from position `i` (R243), with their first candidates. Rows and records count from 0 in each KV head. -/
def AttHead.items (a : AttHead) (i c : Nat) : List (Nat × AttItem) :=
  ((a.pat.cut a.k.committed i c).flatMap Span.pieces).foldl (fun (is : List (Nat × AttItem)) (s : Span) =>
    let o := sumN (is.map fun (x : Nat × AttItem) => x.2.cands * a.group)
    is ++ [(s.cand, { pt := a.k.pte s.glob a.e 0, start := s.start, stop := s.stop, limit := s.limit, cands := s.cands, slot := a.slot
                      qRow := s.cand * a.group, oRow := o, ck := a.ck, cv := a.cv })]) []

/-- The unit that runs an item: that of the stack that holds the page of its START. -/
def Dev.itemUnit (d : Dev) (b : Nat) (i : AttItem) : Nat :=
  match d.kvPage b i.pt i.start with | .ok (some p) => d.stackOf b p | _ => d.stackOf b i.pt

/-- Items that the deadline monitor cancels before they start (R220): their rows' records are empty partials that nothing merges. -/
def Dev.cancelItems (d : Dev) (b : Nat) (is : List AttItem) : Dev := is.foldl (fun d i => d.addW .eaveAttCancelled (d.itemUnit b i) 1) d

/-! ## Decode attention (R244) -/

/-- An item of a STEP, whose query rows are at hand: its partials, row by row. -/
def EaveOut.stepItem (x : EaveOut) (c : Cmd) (a : AttHead) (i : AttItem) (qs : List (List Nat)) : EaveOut × List AttRow :=
  if x.bad.isSome then (x, [])
  else if !posNormal32 i.ck || !posNormal32 i.cv then ({ x with bad := some stBadParam }, [])
  else match x.d.kvPresent c.bay i with
  | some s => ({ x with bad := some s }, [])
  | none =>
    let n := i.visible (i.cands - 1)
    let h := a.k.h
    let k := x.d.itemUnit c.bay i
    let y := x.work c k 4
    if y.bad.isSome then (y, [])
    else match y.d.kvSpan c.bay h a.k.e2m1 c.flush i.pt i.start n with
      | .error s => ({ y with bad := some s }, [])
      | .ok (kvs, rep) =>
        let pages := (upFrom i.start n).flatMap fun p => match y.d.kvPage c.bay i.pt p with
          | .ok (some page) => (i.pt + 8 * (p / 64), 8) :: a.k.slot page (p % 64)
          | _ => []
        let z := ((({ y with d := y.d.addW .eaveAttPos k n }).dot k).reads c.bay k pages).add k 3 rep
        ((upFrom 0 (i.cands * a.group)).zip qs).foldl (fun (acc : EaveOut × List AttRow) r =>
          let q := r.2.map (flushCode c.flush .bf16)
          let (s, fl) := (attRow c.flush h i.ck i.cv a.scale (q.map fun v => decode .bf16 v.1) (kvs.take (i.visible (r.1 / a.group)))).run false
          (acc.1.add k 3 { nans := s.nans h (i.oRow + r.1), flushed := fl || q.any (·.2) }, acc.2 ++ [s])) (z, [])

/-- The items of a head one after another, each with its partials. -/
def EaveOut.stepItems (x : EaveOut) (c : Cmd) (a : AttHead) (qs : List (List Nat)) : List (Nat × AttItem) → EaveOut × List (Nat × AttItem × List AttRow)
  | [] => (x, [])
  | i :: r =>
    let (y, ps) := x.stepItem c a i.2 ((qs.drop i.2.qRow).take (i.2.cands * a.group))
    let (z, rest) := y.stepItems c a qs r
    (z, (i.1, i.2, ps) :: rest)

/-- The partials of query row `q` of candidate `k`, in the order of R244. -/
def partialsOf (group k q : Nat) (xs : List (Nat × AttItem × List AttRow)) : List AttRow :=
  xs.filterMap fun x => if x.1 ≤ k ∧ k < x.1 + x.2.1.cands then x.2.2[(k - x.1) * group + q]? else none

/-- exp2((v - m) L) of R244 and R246. -/
def lExpDiff (fl : Bool) (m v : Nat) : Lane Nat := do
  let t ← lSub fl v m
  let u ← lMul fl t log2e
  lane fl (sfuExp2 u)

/-- The sums of the merge: lt and ot. -/
def mergeParts (fl : Bool) (mx : Nat) : Nat → List Nat → List AttRow → Lane (Nat × List Nat)
  | lt, ot, [] => pure (lt, ot)
  | lt, ot, p :: r => do
    let a ← if p.m = infCode .fp32 true then pure 0 else lExpDiff fl mx p.m
    let la ← lMul fl p.l a
    let lt1 ← lAdd fl lt la
    let ot1 ← lZip (fun o v => do
      let va ← lMul fl v a
      lAdd fl o va) ot p.o
    mergeParts fl mx lt1 ot1 r

/-- The merge of a row's partials (R244). -/
def mergeRow (fl : Bool) (h : Nat) (ps : List AttRow) : Lane (List Nat) := do
  let mx := (ps.map (·.m)).foldl f32Max (infCode .fp32 true)
  if mx = infCode .fp32 true then pure (List.replicate h 0)
  else
    let (lt, ot) ← mergeParts fl mx 0 (List.replicate h 0) ps
    let r ← lane fl (sfuRcp lt)
    lMap (fun o => lMul fl o r) ot

/-- A Lath core for work of a STEP. -/
def Dev.anyCore (d : Dev) : Nat := unitLath (Config.freeNat d.free % 192)

/-- NaN items of rows of `h` values that a Lath core made (Table 2-8a), rows counted from `r0`. -/
def rowNans (h r0 : Nat) (rows : List (List Nat)) : List (Nat × Nat) :=
  ((upFrom 0 rows.length).zip rows).flatMap fun r => ((upFrom 0 r.2.length).zip r.2).filterMap fun v =>
    if isNan .fp32 v.2 then some (2, ((r0 + r.1) * h + v.1) % 2 ^ 32) else none

/-- Decode attention of one KV head for candidates from position `i`, whose queries are given candidate by candidate and head by head: the outputs
in that order, or the status that stops the sequence. -/
def Dev.decodeHead (d : Dev) (c : Cmd) (l : Nat) (a : AttHead) (i : Nat) (qs : List (List Nat)) : Dev × Except Nat (List (List Nat)) :=
  let n := qs.length / a.group
  let (x, ps) := ({ d := d } : EaveOut).stepItems c a qs (a.items i n)
  let d1 := x.d.reportOf c l x.nans x.rep
  match x.bad with
  | some s => (d1, .error s)
  | none =>
    let outs := (upFrom 0 n).flatMap fun k => (upFrom 0 a.group).map fun q => (mergeRow c.flush a.k.h (partialsOf a.group k q ps)).run false
    let rows := outs.map (·.1)
    ((d1.report c d1.anyCore l { nans := rowNans a.k.h (a.e * qs.length) rows, flushed := outs.any (·.2) }).tick, .ok rows)

/-! ## Prefill attention (R246) -/

/-- A key block: of the main or the global table, by its number. -/
structure KeyBlock where
  glob : Bool
  n : Nat
  deriving DecidableEq, Repr

/-- The aligned blocks of 256 that meet `[a, z)`. -/
def blocks256 (a z : Nat) : List Nat := if z ≤ a then [] else upFrom (a / 256) ((z - 1) / 256 + 1 - a / 256)

/-- The key blocks of a query block of positions `qmin` to `qmax`, in order. -/
def Pattern.keyBlocks (pat : Pattern) (qmin qmax : Nat) : List KeyBlock :=
  if !pat.sparse then (blocks256 0 (qmax + 1)).map (⟨false, ·⟩)
  else
    let left := qmin + 1 - pat.window
    let sinks := blocks256 0 (min pat.sink (qmax + 1))
    let lo := (pat.globals 0 pat.sink).length
    let hi := (pat.globals 0 left).length
    sinks.map (⟨false, ·⟩) ++ (blocks256 lo hi).map (⟨true, ·⟩)
    ++ ((blocks256 left (qmax + 1)).filter fun n => !sinks.contains n).map (⟨false, ·⟩)

/-- Is key `p` of a block, a position or a slot, admitted to the row at position `i`? A global beyond the sink and below every row's window is
admitted through its slot alone. -/
def Pattern.admits (pat : Pattern) (qmin i : Nat) (kb : KeyBlock) (p : Nat) : Bool :=
  let left := qmin + 1 - pat.window
  if kb.glob then decide ((pat.globals 0 pat.sink).length ≤ p) && decide (p < (pat.globals 0 left).length)
  else pat.visible i p && !(pat.sparse && decide (pat.sink ≤ p) && decide (p < left) && !(pat.globals p (p + 1)).isEmpty)

/-- The keys and values of a block, a key that no row admits as zero; a slot of a global at or beyond COMMITTED is read by its position. -/
def Dev.keyBlock (d : Dev) (c : Cmd) (a : AttHead) (qmin qmax : Nat) (kb : KeyBlock) : Except Nat (List (List Fv × List Fv) × Report) :=
  let h := a.k.h
  let none_ : List Fv × List Fv := (List.replicate h (.num false 0 0), List.replicate h (.num false 0 0))
  (upFrom (256 * kb.n) 256).foldl (fun (acc : Except Nat (List (List Fv × List Fv) × Report)) p => match acc with
    | .error s => .error s
    | .ok (xs, rep) =>
      if !((upFrom qmin (qmax + 1 - qmin)).any fun i => a.pat.admits qmin i kb p) then .ok (xs ++ [none_], rep)
      else
        let g := p * a.pat.gstride + a.pat.gstride - 1
        let (glob, at_) := if kb.glob then (if g < a.k.committed then (true, p) else (false, g)) else (false, p)
        match d.kvAt c.bay h a.k.e2m1 c.flush (a.k.pte glob a.e 0) at_ with
        | .error s => .error s
        | .ok (k, v, r) => .ok (xs ++ [(k, v)], rep.join r)) (.ok ([], {}))

/-- A row of values stored as E4M3 under MSE and read back exactly (R246): blocks of `n`, coarse scale `coarse`; the reports of the store and
of the load. -/
def restored (fl : Bool) (n coarse : Nat) (vals : List Nat) : List Fv × Report × Report :=
  let f : FmtDesc :=
    { elem := .e4m3, mode := .mse, block := n, round := 0, ovfIeee := false, coarseSrc := false, stats := false
      tensorId := 0, coarse := coarse, rowLen := vals.length, sliceBlocks := 0, scaleVa := 0, coarseVa := 0 }
  let (ks, codes, rep) := storeBlocks f fl 0 ((chunksOf n (ceilDiv vals.length n) vals).map fun b =>
    { x := b.map fun v => (v, false), fine := 0, coarse := coarse, draws := b.map fun _ => 0 })
  let (v, reps) := exactRow f fl false 0 (chunksOf n (ceilDiv vals.length n) codes) ks
  (v, rep, reps.foldl Report.join {})

/-- The coarse scale of the stored probabilities, 2^-8. -/
def pCoarse : Nat := 0x3B800000

/-- A product of two rows of K values as the array drains it, with the output flush. -/
def drained (fl : Bool) (k : Nat) (va vb : Nat → Fv) (ca cb : Nat) (addend : Option Nat) : Nat × Bool :=
  flushCode fl .fp32 (thatchElement va vb k false (fun _ => 0) ca cb none addend)

/-- What a row's turn at a key block gives: its state, the reports of the store and of the array, and its drained values: scores and products. -/
structure PreRow where
  s : AttRow
  stored : Report := {}
  array : Report := {}
  scores : List Nat := []
  prods : List Nat := []

/-- The softmax part of a row at a key block of R246, for scaled scores whose maximum with m, `mb`, is not -inf: l, the probabilities and the
addends. -/
def preSoftmax (fl : Bool) (mb : Nat) (xs : List Nat) (s : AttRow) : Lane (Nat × List Nat × List Nat) := do
  let w ← if s.m = infCode .fp32 true then pure 0 else lExpDiff fl mb s.m
  let e ← lMap (lExpDiff fl mb) xs
  let t ← lMul fl s.l w
  let r ← rowsum fl e
  let l ← lAdd fl t r
  let add ← lMap (fun v => lMul fl v w) s.o
  pure (l, e, add)

/-- Element `j` of a row of exact values. -/
def fvAt (v : List Fv) (j : Nat) : Fv := (v[j]?).getD (.num false 0 0)

/-- One row at one key block of R246; `adm`: which keys are admitted. -/
def preStep (fl : Bool) (a : AttHead) (q : List Fv) (adm : List Bool) (kb : List (List Fv × List Fv)) (s : AttRow) : Lane PreRow := do
  let ds := kb.map fun kv => drained fl a.k.h (fvAt q) (fvAt kv.1) a.cq a.ck none
  let xs ← lMap (fun v => match v with | 0 => pure (infCode .fp32 true) | n + 1 => lMul fl n a.scale)
    ((ds.zip adm).map fun x => if x.2 then x.1.1 + 1 else 0)
  let mb := xs.foldl f32Max s.m
  let up := mb != infCode .fp32 true
  let (l, e, add) ← if up then preSoftmax fl mb xs s else pure (s.l, xs.map fun _ => 0, s.o)
  let (p, st, ld) := restored fl 32 pCoarse e
  let os := ((upFrom 0 a.k.h).zip add).map fun d =>
    drained fl 256 (fvAt p) (fun j => ((kb[j]?).map fun kv => fvAt kv.2 d.1).getD (.num false 0 0)) pCoarse a.cv (some d.2)
  pure { s := { m := if up then mb else s.m, l := l, o := os.map (·.1) }, stored := st, array := ld.join { flushed := (ds ++ os).any (·.2) }
         scores := ds.map (·.1), prods := os.map (·.1) }

/-- The end of a row: its output, and rowmax and lse (R246, Table 8-7). -/
def preEnd (fl : Bool) (s : AttRow) : Lane (List Nat × Nat × Nat) :=
  if s.m = infCode .fp32 true then pure (s.o.map fun _ => 0, s.m, s.m)
  else do
    let r ← lane fl (sfuRcp s.l)
    let o ← lMap (fun v => lMul fl v r) s.o
    let g ← lane fl (sfuLog2 s.l)
    let t ← lMul fl g 0x3F317218
    let lse ← lAdd fl s.m t
    pure (o, s.m, lse)

/-- A query of a block: its position, its exact values and the report of loading them. -/
abbrev PreQ := Nat × List Fv × Report

/-- What a query block's turn at a key block gives: the state of its rows; the reports of the array, whose NaNs are listed with their tiles, and of
the Lath cores. -/
structure PreOut where
  rows : List AttRow
  nans : List (Nat × Nat × Nat)
  array : Report
  lath : Report

/-- A query block at a key block; the rows of its products start at (`ur`, `uc`) of the array. -/
def preBlock (fl : Bool) (a : AttHead) (ur uc qmin : Nat) (kb : KeyBlock) (kvs : List (List Fv × List Fv)) (qs : List PreQ) (ss : List AttRow) : PreOut :=
  let rs : List (Nat × PreRow × Bool) := ((upFrom 0 qs.length).zip (qs.zip ss)).map fun x =>
    (x.1, (preStep fl a x.2.1.2.1 ((upFrom (256 * kb.n) 256).map fun p => a.pat.admits qmin x.2.1.1 kb p) kvs x.2.2).run false)
  let drains (r : Nat) (vs : List Nat) : List (Nat × Nat × Nat) := ((upFrom 0 vs.length).zip vs).filterMap fun v =>
    if isNan .fp32 v.2 then some (tileUnit (ur + r) (uc + v.1), 1, drainTile (r / 64) (v.1 / 64)) else none
  { rows := rs.map fun x => x.2.1.s
    nans := rs.flatMap fun x => drains x.1 x.2.1.scores ++ drains x.1 x.2.1.prods
    array := rs.foldl (fun r x => r.join x.2.1.array) (qs.foldl (fun r q => r.join q.2.2) {})
    lath := rs.foldl (fun r x => (r.join x.2.1.stored).join { flushed := x.2.2 }) {} }

/-- The engine on which the Thatch work of a STEP runs, and where in it a block of 256 by 256 does: a free cell. -/
def Dev.anyCorner (d : Dev) : Nat × Nat :=
  let (u0, us, _) := d.engineOf false
  let x := Config.freeNat d.free
  ((u0 + x % us) * 256, x / us % 16 * 256)

/-- A query block at a key block read from the cache, with what it reports. -/
def Dev.preReport (d : Dev) (c : Cmd) (l ur uc : Nat) (rep : Report) (x : PreOut) : Dev :=
  let die := dieAt ur uc
  let array := rep.join x.array
  let d1 := (d.tick.addW .thatchPasses die 2).thatchCycles false [die]
  let d2 := d1.reportOf c l (x.nans ++ array.nans.map fun n => (tileUnit ur uc, n)) { array with nans := [] }
  (d2.report c d2.anyCore l x.lath).tick

/-- The key blocks of a query block in order. -/
def Dev.preBlocks (c : Cmd) (l : Nat) (a : AttHead) (qmin qmax : Nat) (qs : List PreQ) : Dev → List AttRow → List KeyBlock → Dev × Except Nat (List AttRow)
  | d, ss, [] => (d, .ok ss)
  | d, ss, kb :: r => match d.keyBlock c a qmin qmax kb with
    | .error s => (d, .error s)
    | .ok (kvs, rep) =>
      let (ur, uc) := d.anyCorner
      let x := preBlock c.flush a ur uc qmin kb kvs qs ss
      Dev.preBlocks c l a qmin qmax qs (d.preReport c l ur uc rep x) x.rows r

/-- Prefill attention of one query head over one query block: its rows are consecutive positions, each with its query in FP32. -/
def Dev.prefillBlock (d : Dev) (c : Cmd) (l : Nat) (a : AttHead) (rows : List (Nat × List Nat)) : Dev × Except Nat (List (List Nat)) :=
  let qmin := (rows.head?.map (·.1)).getD 0
  let qmax := qmin + rows.length - 1
  let qs := rows.map fun r => (r.1, restored c.flush 64 a.cq r.2)
  let d0 := (d.report c d.anyCore l (qs.foldl (fun r q => r.join q.2.2.1) {})).tick
  match Dev.preBlocks c l a qmin qmax (qs.map fun q => (q.1, q.2.1, q.2.2.2)) d0 (rows.map fun _ => AttRow.empty a.k.h) (a.pat.keyBlocks qmin qmax) with
  | (d1, .error s) => (d1, .error s)
  | (d1, .ok ss) =>
    let ends := ss.map fun s => (preEnd c.flush s).run false
    let outs := ends.map fun e => e.1.1
    ((d1.report c d1.anyCore l { nans := rowNans a.k.h qmin outs, flushed := ends.any (·.2) }).tick, .ok outs)

/-- The query blocks of a chunk's rows: of 256 positions, aligned, so that a row's block does not depend on where chunks end (12 R350). -/
def queryBlocks (rows : List (Nat × List Nat)) : List (List (Nat × List Nat)) :=
  match rows with
  | [] => []
  | r :: _ => (blocks256 r.1 (r.1 + rows.length)).map fun n => rows.filter fun x => x.1 / 256 == n

/-- Prefill attention of one query head. -/
def Dev.prefillHead (d : Dev) (c : Cmd) (l : Nat) (a : AttHead) (rows : List (Nat × List Nat)) : Dev × Except Nat (List (List Nat)) :=
  (queryBlocks rows).foldl (fun (acc : Dev × Except Nat (List (List Nat))) q => match acc with
    | (d, .error s) => (d, .error s)
    | (d, .ok xs) => match d.prefillBlock c l a q with
      | (d1, .error s) => (d1, .error s)
      | (d1, .ok ys) => (d1, .ok (xs ++ ys))) (d, .ok [])

end Sys2Proof.Machine
end

