-- ==== Sys2Proof/Machine/Passes.lean ====
section
/-!
DEFINITION. Machine/Passes.lean: the passes of a model in a STEP (08 R241, 12 R343): layer after layer, the products of all rows, the key and value
rows of each sequence and its attention.
Where the spec is silent or is read by inference: DESIGN CHOICE logs 16, 33 (notes/assumptions).
-/
namespace Sys2Proof.Machine

/-- A sequence's part in a pass: its cache of the pass's sheaf, its SEQ_SLOT, how many of its rows prefill (those after them decode), its rows,
which are consecutive positions, and the status that has stopped it. -/
structure PassJob where
  serial : Nat
  cache : Nat
  slot : Nat
  pre : Nat
  rows : List RowIn
  bad : Option Nat := none

/-- The rows of a pass: tokens from position `p` on, with their attention outputs so far. -/
def rowsFrom (weights : List Byte) (addition : Nat) (flush : Bool) (p : Nat) (tokens : List Nat) (outs : List (List (List (List Nat)))) : List RowIn :=
  ((upFrom 0 tokens.length).zip tokens).map fun t =>
    { weights := weights, addition := addition, flush := flush, token := t.2, pos := p + t.1, outs := (outs[t.1]?).getD [] }

/-! ## Products (07 R216) -/

/-- Counters of every unit of a list move by amounts that the spec does not state. -/
def Dev.countFree (d : Dev) (rs : List Reg) (units : List Nat) : Dev :=
  units.foldl (fun d k => rs.foldl (fun d r => (d.addW r k (Config.freeNat d.free)).tick) d) d

/-- NaNs of a list, each on a unit that the mapping deals it to. -/
def Dev.freeNans (d : Dev) (c : Cmd) (l src : Nat) (unit : Nat → Nat) (tiles : List Nat) : Dev :=
  let (d1, ns) := tiles.foldl (fun (acc : Dev × List (Nat × Nat × Nat)) t =>
    (acc.1.tick, acc.2 ++ [(unit (Config.freeNat acc.1.free), src, t % 2 ^ 32)])) (d, [])
  d1.nansOf c l (gatherUnits ns)

/-- Product `p` of a layer over the batch rows `rs`: on the Eave units when they are at most MAX_ROWS, and on the Thatch array otherwise (R216). The
status with which an error of the Eave unit stops its rows. -/
def Dev.product (d : Dev) (c : Cmd) (l p : Nat) (rs : List RowIn) : Dev × Option Nat :=
  let tiles := rs.flatMap fun r => Config.productNans r p
  if rs.length ≤ d.fd .eaveGemvCfg 0 0 4 then
    let x := ({ d := d.tick } : EaveOut).work c (Config.freeNat d.free % 32) 3
    let d1 := x.d.countFree [.eaveDotCyc, .eaveReads, .eaveMerged, .eaveRowHits, .eaveRowMisses, .eaveRemoteBytes] (upFrom 0 32)
    (d1.freeNans c l 3 (fun u => unitEave (u % 32) 2) tiles, x.bad)
  else
    let (u0, us, _) := d.engineOf false
    let dies := upFrom u0 us
    let d1 := d.countFree [.thatchPasses, .thatchActiveCyc, .thatchTileCyc, .thatchFeedStall] dies
    (d1.freeNans c l 1 (fun u => tileUnit ((u0 + u % us) * 256 + u / us % 4 * 64) (u / us / 4 % 64 * 64)) tiles, none)

/-- Stop the jobs that have one of these rows. -/
def stopJobs (jobs : List PassJob) (p s : Nat) : List PassJob :=
  jobs.map fun j => if j.bad.isNone && j.rows.any (fun r => Config.rowTakes r p) then { j with bad := some s } else j

/-- The products of a layer, and the rest of the layer's work on the Lath cores, for the rows that `sel` takes of each job. -/
def Dev.passProducts (d : Dev) (c : Cmd) (l : Nat) (sel : PassJob → List RowIn) (jobs : List PassJob) : Dev × List PassJob :=
  let rows (js : List PassJob) : List RowIn := (js.filter fun j => j.bad.isNone).flatMap sel
  match rows jobs with
  | [] => (d, jobs)
  | r0 :: _ =>
    let (d1, js) := (upFrom 0 (Config.products r0.weights l)).foldl (fun (acc : Dev × List PassJob) p =>
      match (rows acc.2).filter fun r => Config.rowTakes r p with
      | [] => acc
      | rs => match acc.1.product c l p rs with
        | (d, none) => (d, acc.2)
        | (d, some s) => (d, stopJobs acc.2 p s)) (d, jobs)
    let rs := rows js
    ((d1.freeNans c l 2 (fun u => unitLath (u % 192)) (rs.flatMap Config.lathNans)).flushSeen c.bay (rs.any Config.rowFlush), js)

/-! ## Key and value rows, and attention (08 R241) -/

/-- A row of `n` codes of `w` bits. -/
def codeRow (n w : Nat) (l : List Nat) : List Nat := (fitRow n l).map (· % 2 ^ w)

/-- Store the key and value rows of a job's rows for one layer: the status that stops it. -/
def Dev.storeRows (d : Dev) (c : Cmd) (j : PassJob) (k : KvCache) (abs : Bool) (le : LayerEntry) (l : Nat) : Dev × Option Nat :=
  (upFrom 0 k.heads).foldl (fun acc g => j.rows.foldl (fun (acc : Dev × Option Nat) r => match acc with
    | (d, some s) => (d, some s)
    | (d, none) =>
      let e := l * k.heads + g
      match d.ensurePage c.bay j.serial k false e (r.pos / 64) with
      | (d1, .error s) => (d1, some s)
      | (d1, .ok page) => d1.storeKv c k abs le e page (r.pos % 64) (codeRow k.h 32 (Config.kvRow r g false)) (codeRow k.h 32 (Config.kvRow r g true))) acc)
    (d, none)

/-- The attention of one KV head: for each row, its outputs query head by query head. -/
def Dev.headAttention (d : Dev) (c : Cmd) (l g : Nat) (a : AttHead) (pre : Nat) (rows : List RowIn) : Dev × Except Nat (List (List (List Nat))) :=
  let first := rows.take pre
  let last := rows.drop pre
  let x := (upFrom 0 a.group).foldl (fun (acc : Dev × Except Nat (List (List (List Nat)))) q => match acc with
    | (d, .error s) => (d, .error s)
    | (d, .ok xs) => match d.prefillHead c l a (first.map fun r => (r.pos, codeRow a.k.h 32 (Config.query r (g * a.group + q) false))) with
      | (d1, .error s) => (d1, .error s)
      | (d1, .ok ys) => (d1, .ok (xs ++ [ys]))) (d, .ok [])
  match x with
  | (d1, .error s) => (d1, .error s)
  | (d1, .ok xs) =>
    let pres := (upFrom 0 first.length).map fun r => xs.map fun q => (q[r]?).getD []
    match last with
    | [] => (d1, .ok pres)
    | r0 :: _ =>
      let qs := last.flatMap fun r => (upFrom 0 a.group).map fun q => codeRow a.k.h 16 (Config.query r (g * a.group + q) true)
      match d1.decodeHead c l a r0.pos qs with
      | (d2, .error s) => (d2, .error s)
      | (d2, .ok ys) => (d2, .ok (pres ++ chunksOf a.group last.length ys))

/-- What the attention of KV head `g` of layer `l` works on, once the cache has its scales. -/
def Dev.attHead (d : Dev) (b : Nat) (j : PassJob) (k : KvCache) (le : LayerEntry) (pat : Pattern) (group l g : Nat) : AttHead :=
  let e := l * k.heads + g
  let sc := d.dirScales b k e
  { k := k, e := e, pat := pat, scale := le.score, cq := le.cq, group := group, ck := sc.1, cv := sc.2, slot := j.slot % 65536 }

/-- Query heads per KV head of the sheaf that a row runs on. -/
def RowIn.group (r : RowIn) : Nat := Config.group r.weights % 16 + 1

/-- The attention of a layer: every row's outputs, query head by query head. -/
def Dev.layerAttention (d : Dev) (c : Cmd) (j : PassJob) (k : KvCache) (le : LayerEntry) (pat : Pattern) (l : Nat) : Dev × Except Nat (List (List (List Nat))) :=
  let group := ((j.rows.head?).map RowIn.group).getD 1
  (upFrom 0 k.heads).foldl (fun (acc : Dev × Except Nat (List (List (List Nat)))) g => match acc with
    | (d, .error s) => (d, .error s)
    | (d, .ok xs) => match d.headAttention c l g (d.attHead c.bay j k le pat group l g) j.pre j.rows with
      | (d1, .error s) => (d1, .error s)
      | (d1, .ok ys) => (d1, .ok ((xs.zip ys).map fun e => e.1 ++ e.2))) (d, .ok (j.rows.map fun _ => []))

/-- A layer for one job: the cache takes its scales with its first write, the rows' keys and values are stored, and then the layer's attention
runs (R234, R241). -/
def Dev.layerJob (d : Dev) (c : Cmd) (sheaf l : Nat) (j : PassJob) : Dev × PassJob :=
  match d.manifest? c.bay sheaf, d.layer? c.bay sheaf l, d.takeScales c.bay j.serial j.cache sheaf with
  | some _, some _, (d1, some s) => (d1, { j with bad := some s })
  | some man, some le, (d1, none) => match d1.cacheOf c.bay j.serial j.cache with
    | none => (d1, { j with bad := some stAborted })
    | some k => match d1.storeRows c j k (man.kvMode == 2) le l, d1.patternOf c.bay sheaf k l with
      | (d2, some s), _ => (d2, { j with bad := some s })
      | (d2, none), none => (d2, { j with bad := some stUncorr })
      | (d2, none), some pat => match d2.layerAttention c j k le pat l with
        | (d3, .error s) => (d3, { j with bad := some s })
        | (d3, .ok outs) => (d3, { j with rows := (j.rows.zip outs).map fun e => { e.1 with outs := e.1.outs ++ [e.2] } })
  | _, _, _ => (d, { j with bad := some stBadParam })

/-- A layer of a pass. -/
def Dev.passLayer (d : Dev) (c : Cmd) (sheaf l : Nat) (jobs : List PassJob) : Dev × List PassJob :=
  let (d1, js) := d.passProducts c l (·.rows) jobs
  js.foldl (fun (acc : Dev × List PassJob) j => if j.bad.isSome then (acc.1, acc.2 ++ [j])
    else let (d2, k) := acc.1.layerJob c sheaf l j; (d2, acc.2 ++ [k])) (d1, [])

/-- The logits of a pass: the products of the rows that decode. -/
def Dev.passLogits (d : Dev) (c : Cmd) (layers : Nat) (jobs : List PassJob) : Dev × List PassJob := d.passProducts c layers (fun j => j.rows.drop j.pre) jobs

/-- A whole pass over its sheaf. -/
def Dev.runPass (d : Dev) (c : Cmd) (sheaf : Nat) (jobs : List PassJob) : Dev × List PassJob :=
  match d.manifest? c.bay sheaf with
  | none => (d, jobs.map fun j => { j with bad := some stBadParam })
  | some man =>
    let (d1, js) := (upFrom 0 man.layers).foldl (fun (acc : Dev × List PassJob) l => acc.1.passLayer c sheaf l acc.2) (d, jobs)
    d1.passLogits c man.layers js

end Sys2Proof.Machine
end

