-- ==== Sys2Proof/Machine/Serving.lean ====
section
/-!
DEFINITION. Machine/Serving.lean: serving sequences (12): opening and closing, deferred requests, prefix handles, and STEP with its
builder, drafting, deadlines, fallback and commit.
Where the spec is silent or is read by inference: DESIGN CHOICE logs 33, 35, 36 (notes/assumptions).
-/
namespace Sys2Proof.Machine

/-! ## Sequences and requests -/

/-- The open sequence of an identifier. -/
def Dev.seq? (d : Dev) (b id : Nat) : Option Seq := (d.bay b).seqs.find? fun s => !s.handle && !s.closed && s.id == id

/-- The handle, resident or building, of an identifier. -/
def Dev.handle? (d : Dev) (b id : Nat) : Option Seq := (d.bay b).seqs.find? fun s => s.handle && !s.closed && s.id == id

/-- Positions of a token list. -/
def Seq.len (s : Seq) : Nat := s.base + s.toks.length

/-- The main cache, and COMMITTED. -/
def Seq.main (s : Seq) : KvCache := s.caches.headD { dir := 0, layers := 0, heads := 1, dim := 0, e2m1 := false, maxPos := 0 }
def Seq.committed (s : Seq) : Nat := s.main.committed

/-- Pending positions (R331). -/
def Seq.pending (s : Seq) : Nat := s.len - s.committed

/-- The active request. -/
def Seq.active (s : Seq) : Option SeqReq := match s.reqs with | r :: _ => if r.active then some r else none | [] => none

/-- Change the request of a start order. -/
def Seq.modReq (s : Seq) (order : Nat) (f : SeqReq → SeqReq) : Seq := { s with reqs := s.reqs.map fun r => if r.cmd.order == order then f r else r }

/-- The index of the cache bound to an AUX sheaf. -/
def Seq.auxCache (s : Seq) (id : Nat) : Option Nat :=
  if id = 0 then none else ((upFrom 0 s.caches.length).zip s.caches).findSome? fun e => if e.2.aux == id then some e.1 else none

/-- Is the running step of the bay's STEP working on the sequence? -/
def Dev.inStep (d : Dev) (b serial : Nat) : Bool := d.steps.any fun r => r.bay == b && r.entries.any fun e => e.serial == serial

/-- Sequences close, and their pins under PIN_SEQUENCE go at once (R340, Table 11-5); handles are dropped. -/
def Dev.closeSeqs (d : Dev) (b : Nat) (hit : Seq → Bool) : Dev :=
  let ss := (d.bay b).seqs.filter fun s => !s.handle && !s.closed && hit s && s.pin && s.sheaf != 0 && s.begun
  ss.foldl (fun d s => d.unpin b s.sheaf) (d.modSeqs b fun ss => ss.map fun s => if hit s then { s with closed := true } else s)

/-- The pages of closed sequences and dropped handles go once no running step and no sequence holds them (R240, R340, R359, Table 8-8);
a handle gives back its pin then (Table 11-5). -/
def Dev.reapSeqs (d : Dev) (b : Nat) : Dev :=
  let gone (ss : List Seq) (s : Seq) : Bool :=
    s.closed && !d.inStep b s.serial && !(s.handle && ss.any fun x => x.onHandle == some s.serial)
  let ss := (d.bay b).seqs
  let left := ss.filter fun s => s.handle || !gone ss s
  let handlesGone := left.filter fun s => s.handle && gone left s
  let d1 := d.modBay b fun x =>
    { x with seqs := left.filter fun s => !(s.handle && gone left s)
             ro := x.ro.filter fun r => !(handlesGone.any fun s => s.own.contains r) }
  let d2 := handlesGone.foldl (fun d s => d.unpin b s.sheaf) d1
  d2.serveRegs b

/-- Keep the values of submitted tokens that are still in software's buffer: it may change once the command completes (R336). -/
def Dev.keepTokens (d : Dev) (b : Nat) (s : Seq) : Seq :=
  let ts := s.toks.map fun t => match t with
    | .known v => some v
    | .at_ va => match d.readVaNat b va 4 with | .ok v => some v | .error _ => none
  { s with toks := (ts.takeWhile (·.isSome)).filterMap fun t => t.map Tok.known }

/-- A request ends: its completion, its reservation and its place among the sequence's requests. -/
def Dev.endReq (d : Dev) (b serial : Nat) (r : SeqReq) (status result : Nat) : Dev :=
  let d1 := d.modSeq b serial fun s =>
    let s1 := if r.generate then s else d.keepTokens b s
    { s1 with reqs := s1.reqs.filter (fun x => x.cmd.order != r.cmd.order), resv := s1.resv.filter fun x => x.1 != r.cmd.order }
  let d2 := if status = stDeadline then d1.addW .bayDlMissed b 1 else d1
  (d2.completeDeferred r.cmd status result).serveRegs b

/-- Requests whose queue was stopped are no longer accepted (13 R372, R394). -/
def Dev.dropStale (d : Dev) (b : Nat) : Dev :=
  let live (r : SeqReq) : Bool := match smFind d.sqs r.cmd.sq with
    | some s => s.deferred.any fun c => c.order == r.cmd.order
    | none => false
  d.modSeqs b fun ss => ss.map fun s =>
    if s.reqs.all live then s
    else
      let s1 := { s with reqs := s.reqs.filter live, resv := s.resv.filter fun x => s.reqs.any fun r => r.cmd.order == x.1 && live r }
      -- the build of a handle ends with its command
      if s.handle && s.committed < s.len then { s1 with closed := true } else s1

/-- A command is accepted as deferred (R338): its queue goes on. -/
def Dev.deferCmd (d : Dev) (c : Cmd) : Dev := { d with sqs := smMod d.sqs c.sq fun s => { s with run := none, deferred := s.deferred ++ [c] } }

/-! ## SEQ_OPEN (R333) -/

/-- Allocate directories for caches, one after another. -/
def Dev.allocDirs (d : Dev) (b : Nat) : List KvCache → List (Nat × Nat) → List KvCache → Option (List KvCache × List (Nat × Nat))
  | [], taken, acc => some (acc, taken)
  | k :: r, taken, acc =>
    let n := alignUp k.tableBytes 256
    match d.poolFind b n 256 none taken with
    | none => none
    | some a => d.allocDirs b r (taken ++ [(a, n)]) (acc ++ [{ k with dir := a }])

/-- The caches that a MAIN sheaf gives a sequence: main, draft, fallback (R348). -/
def Dev.cachesOf (d : Dev) (b : Nat) (m : Manifest) (maxPos : Nat) : List KvCache :=
  m.cache 0 maxPos :: ([m.draft, m.fallback].filter (· != 0)).eraseDups.filterMap fun x => (d.manifest? b x).map fun a => a.cache x maxPos

/-- The pages that a prefix of `n` positions leaves in part full, as (global, entry, page, slots in use): they are copied, not shared (R240). -/
def Dev.partPages (d : Dev) (b : Nat) (src : KvCache) (n : Nat) : List (Bool × Nat × Nat × Nat) :=
  (upFrom 0 src.lh).flatMap fun e =>
    let part (g : Bool) (cnt : Nat) : List (Bool × Nat × Nat × Nat) := if cnt % 64 = 0 then [] else [(g, e, cnt / 64, cnt % 64)]
    part false n ++ (match d.patternOf b src.scaleSheaf src (e / src.heads) with
      | some pat => part true (pat.globals 0 n).length
      | none => [])

/-- Share the whole pages of a handle's prefix with one entry of a cache. -/
def Dev.linkPages (x : Dev × Option Nat) (b : Nat) (k src : KvCache) (g : Bool) (e cnt : Nat) : Dev × Option Nat :=
  (upFrom 0 (cnt / 64)).foldl (fun (x : Dev × Option Nat) j => match x with
    | (d, some s) => (d, some s)
    | (d, none) => match d.pageAt b (src.pte g e j) with
      | .ok (some p) => d.setPte b (k.pte g e j) p true
      | .ok none => (d, none)
      | .error s => (d, some s)) x

/-- Share a handle's pages with one cache of a sequence: whole pages are named, the slots in use of a page in part full are copied (R240). -/
def Dev.sharePages (d : Dev) (b serial : Nat) (k src : KvCache) (n : Nat) : Dev × Option Nat :=
  let linked := (upFrom 0 k.lh).foldl (fun (x : Dev × Option Nat) e =>
    let y := Dev.linkPages x b k src false e n
    match y.1.patternOf b src.scaleSheaf src (e / k.heads) with
    | some pat => Dev.linkPages y b k src true e (pat.globals 0 n).length
    | none => (y.1, y.2.or (some stUncorr))) (d, none)
  (d.partPages b src n).foldl (fun (x : Dev × Option Nat) p => match x with
    | (d, some s) => (d, some s)
    | (d, none) => match d.pageAt b (src.pte p.1 p.2.1 p.2.2.1), d.ensurePage b serial k p.1 p.2.1 p.2.2.1 with
      | .error s, _ => (d, some s)
      | .ok none, _ => (d, none)
      | .ok (some _), (d1, .error s) => (d1, some s)
      | .ok (some a), (d1, .ok t) => (upFrom 0 p.2.2.2).foldl (fun x s => Dev.copySlot x b (k.slot a s) (k.slot t s)) (d1, none)) linked

/-- One cache of a sequence takes over a handle's prefix of `n` positions: scales, pages and COMMITTED. -/
def Dev.takePrefix (x : Dev × Option Nat) (b serial i : Nat) (k src : KvCache) (n : Nat) : Dev × Option Nat := match x with
  | (d, some s) => (d, some s)
  | (d, none) => match d.takeScales b serial i src.scaleSheaf with
    | (d1, some s) => (d1, some s)
    | (d1, none) => match d1.sharePages b serial k src n with
      | (d2, some s) => (d2, some s)
      | (d2, none) => d2.setCommitted b serial i n

/-- Directories of a new sequence or handle. -/
def Dev.writeDirs (d : Dev) (b id pre : Nat) (ks : List KvCache) : Dev × Option Nat :=
  ks.foldl (fun (x : Dev × Option Nat) k => match x with
    | (d, some s) => (d, some s)
    | (d, none) => d.writeDir b id pre k) (d, none)

/-- Pages of its own that a sequence opened on a handle needs at once (R240): for the pages of the prefix in part full. -/
def Dev.ownPages (d : Dev) (b id order pre : Nat) (ks : List (KvCache × KvCache)) : Option (List (Nat × Nat × Nat × Nat)) :=
  ks.foldl (fun (acc : Option (List (Nat × Nat × Nat × Nat))) k => match acc with
    | none => none
    | some rs => match d.reserve b id k.1 ((d.partPages b k.2 pre).map fun p => (p.1, p.2.1, p.2.2.1)) [] (rs.map fun r => (r.2.2.1, r.2.2.2)) with
      | none => none
      | some xs => some (rs ++ xs.map fun x => (order, x.1, x.2.1, x.2.2))) (some [])

/-- SEQ_OPEN. -/
def Dev.seqOpen (d : Dev) (q : Nat) : Dev :=
  match d.running? q 0x50 with
  | none => d
  | some c =>
    let b := c.bay
    let id := c.at 16 4
    let hid := c.at 24 8
    let out := c.at 32 8
    let recs := c.at 40 4
    let maxPos := c.at 44 4
    let addition := c.bits 21 0 7
    let h := d.handle? b hid
    let resident := match h with | some s => s.reqs.isEmpty | none => false
    let sheaf := if hid = 0 then (d.currentSheaf b).map (·.id) else h.map (·.sheaf)
    let pre := if hid = 0 then 0 else match h with | some s => s.len | none => 0
    let shape := c.only 1 [(16, 0, 32), (20, 0, 1), (21, 0, 7), (24, 0, 64), (32, 0, 48), (40, 0, 32), (44, 0, 32)] && id != 0xFFFFFFFF
      && aligned out 6 && inRange 16 65536 recs && popCount 32 recs == 1 && aligned maxPos 6 && inRange 64 4194304 maxPos && decide (addition ≤ 64)
    let ok := shape && (d.seq? b id).isNone && (hid == 0 || resident) && decide (pre ≤ maxPos)
      && (match sheaf with | some x => d.fits b x addition maxPos none | none => false)
    let ring := d.checkVa b out (64 + 32 * recs) true
    let opened := ((d.bay b).seqs.filter fun s => !s.handle && !s.closed).length
    let total := sumN ((upFrom 0 16).map fun x => ((d.bay x).seqs.filter fun s => !s.handle && !s.closed).length)
    if !ok then d.complete c stBadParam 0
    else if ring.isSome then d.complete c stNotMapped 0
    else if opened ≥ d.fd .bayServeLimit b 0 19 || total ≥ 262144 then d.complete c stQuota 0
    else match sheaf.bind (d.manifest? b) with
      | none => d.complete c stBadParam 0
      | some m => match d.allocDirs b (d.cachesOf b m maxPos) [] [] with
        | none => d.complete c stQuota 0
        | some (ks, own) =>
          let s : Seq :=
            { id := id, serial := c.order, pin := bitAt c.pkt 160, addition := addition, onHandle := h.map (·.serial), outVa := out, outRecords := recs
              maxPos := maxPos, base := pre, caches := ks, sheaf := if hid = 0 then 0 else sheaf.getD 0, own := own }
          let pairs := ks.zip ((h.map fun x => x.caches).getD [])
          let fails (d : Dev) (s : Nat) : Dev :=
            if c.trapped then d.complete c stAborted 0
            else ((d.modSeqs b fun ss => ss.filter fun x => x.serial != c.order).serveRegs b).complete c s 0
          match (d.modSeqs b fun ss => ss ++ [s]).writeDirs b id pre ks with
          | (_, some e) => fails d e
          | (d1, none) => match d1.ownPages b id c.order pre pairs with
            | none => d.complete c stQuota 0
            | some rs =>
              if c.trapped then d.complete c stAborted 0
              else match ((upFrom 0 ks.length).zip pairs).foldl (fun (x : Dev × Option Nat) e => Dev.takePrefix x b c.order e.1 e.2.1 e.2.2 pre)
                  (d1.modSeq b c.order fun x => { x with resv := rs }, none) with
                | (d3, some e) => fails d3 e
                | (d3, none) => (d3.serveRegs b).complete c stOk 0

/-! ## Deferred requests (R336 to R339) -/

/-- Tokens that accepted requests not yet active may still add, at most. -/
def Seq.ahead (s : Seq) : Nat := sumN (s.reqs.map fun r =>
  if r.generate then (if r.active then r.cmd.at 20 4 - r.emitted else r.cmd.at 20 4) + 8 else if r.active then 0 else r.cmd.at 20 4)

/-- Tokens that submitted requests not yet active will add. -/
def Seq.submitted (s : Seq) : Nat := sumN (s.reqs.map fun r => if r.generate || r.active then 0 else r.cmd.at 20 4)

/-- The sheaf of a candidate (R345): its own, or the one that is CURRENT. -/
def Dev.sheafFor (d : Dev) (b : Nat) (s : Seq) : Option Nat := if s.sheaf != 0 then some s.sheaf else (d.currentSheaf b).map (·.id)

/-- Reserve what a request may fill in every cache (R339): the new entries of `resv`, or none. -/
def Dev.reserveReq (d : Dev) (b order : Nat) (s : Seq) (n : Nat) : Option (List (Nat × Nat × Nat × Nat)) :=
  let z := min s.maxPos (s.len + s.ahead + n)
  s.caches.foldl (fun (acc : Option (List (Nat × Nat × Nat × Nat))) k => match acc with
    | none => none
    | some rs =>
      let sheaf := if k.aux = 0 then (d.sheafFor b s).getD 0 else k.aux
      let want := (d.pagesFor b sheaf k k.committed z).filter fun p => !(s.resv.any fun x => x.2.1 == k.pte p.1 p.2.1 p.2.2)
      match d.reserve b s.id k want [] (rs.map fun r => (r.2.2.1, r.2.2.2)) with
      | none => none
      | some xs => some (rs ++ xs.map fun x => (order, x.1, x.2.1, x.2.2))) (some [])

/-- Accept a request whose own fields are right: BUSY, QUOTA, ABORTED and UNCORRECTABLE of Table 12-4 come after them. -/
def Dev.acceptReq (d : Dev) (c : Cmd) (s : Seq) (generate : Bool) (n : Nat) : Dev :=
  if s.reqs.length ≥ 4 then d.complete c stBusy 0
  else match d.reserveReq c.bay c.order s n with
    | none => d.complete c stQuota 0
    | some rs =>
      if c.trapped then d.complete c stAborted 0
      else if s.faulted then d.complete c stUncorr 0
      else
        let r : SeqReq := { cmd := c, generate := generate, accepted := d.now }
        ((d.modSeq c.bay s.serial fun x => { x with reqs := x.reqs ++ [r], resv := x.resv ++ rs }).deferCmd c).serveRegs c.bay

/-- SEQ_SUBMIT. -/
def Dev.seqSubmit (d0 : Dev) (q : Nat) : Dev :=
  match d0.running? q 0x51 with
  | none => d0
  | some c =>
    let d := d0.dropStale c.bay
    match d.seq? c.bay (c.at 16 4) with
    | none => d.complete c stBadParam 0
    | some s =>
      let n := c.at 20 4
      if !c.only 1 [(16, 0, 32), (20, 0, 32), (24, 0, 48)] || !inRange 1 4194304 n || s.len + s.submitted + n > s.maxPos then d.complete c stBadParam 0
      else d.acceptReq c s false n

/-- SEQ_GENERATE's fields (Table 12-3). -/
def genOk (c : Cmd) : Bool :=
  let dmin := c.bits 49 0 4
  let dmax := c.bits 49 4 4
  let stops := c.bits 50 0 3
  c.only 2 [(16, 0, 32), (20, 0, 32), (24, 0, 32), (28, 0, 32), (32, 0, 32), (36, 0, 32), (40, 0, 32), (44, 0, 32), (48, 0, 2), (49, 0, 8), (50, 0, 3),
      (64, 0, 32 * min 4 stops)]
    && inRange 1 4194304 (c.at 20 4) && (bitAt c.pkt 384 || posFinite (c.at 28 4)) && decide (c.at 32 4 ≤ 4096)
    && posFinite (c.at 36 4) && decide (c.at 36 4 ≤ 0x3F800000) && decide (dmin ≤ dmax) && decide (dmax ≤ 8) && decide (stops ≤ 4)

/-- SEQ_GENERATE. -/
def Dev.seqGenerate (d0 : Dev) (q : Nat) : Dev :=
  match d0.running? q 0x52 with
  | none => d0
  | some c =>
    let d := d0.dropStale c.bay
    match d.seq? c.bay (c.at 16 4) with
    | none => d.complete c stBadParam 0
    | some s => if !genOk c || s.len ≥ s.maxPos then d.complete c stBadParam 0 else d.acceptReq c s true (c.at 20 4 + 8)

/-- The draft length that a rate gives (R349). -/
def draftLen (c : Cmd) (rate : Nat) : Nat := min (c.bits 49 4 4) (max (c.bits 49 0 4) (rate / (256 - rate) + 1))

/-- Has a SEQ_SUBMIT committed every token that it appended but a last pending one (R336)? -/
def Seq.submitDone (s : Seq) (r : SeqReq) : Bool := r.cmd.at 20 4 == 1 || decide (s.committed ≥ r.stop - 1)

/-- REQUEST_ACTIVATE: the oldest accepted request of sequence `seg` becomes active. -/
def Dev.requestActivate (d0 : Dev) (b seg : Nat) : Dev :=
  let d := d0.dropStale b
  match d.seq? b seg with
  | none => d
  | some s => match s.reqs with
    | [] => d
    | r :: _ =>
      if r.active then d
      else if r.generate then
        if s.pending = 0 || s.len ≥ s.maxPos then d.endReq b s.serial r stBadParam 0
        else d.modSeq b s.serial fun x => x.modReq r.cmd.order fun y => { y with active := true, rate := 192, draft := draftLen r.cmd 192 }
      else
        let n := r.cmd.at 20 4
        if s.len + n > s.maxPos then d.endReq b s.serial r stBadParam 0
        else
          let va := r.cmd.at 24 8
          let r1 := { r with active := true, stop := s.len + n }
          let d1 := d.modSeq b s.serial fun x =>
            (x.modReq r.cmd.order fun _ => r1) |> fun x => { x with toks := x.toks ++ (upFrom 0 n).map fun i => Tok.at_ (va + 4 * i) }
          if n = 1 then d1.endReq b s.serial r1 stOk n else d1

/-! ## SEQ_CLOSE and prefix handles (R340, R357 to R359) -/

/-- SEQ_CLOSE. -/
def Dev.seqClose (d0 : Dev) (q : Nat) : Dev :=
  match d0.running? q 0x53 with
  | none => d0
  | some c =>
    let d := d0.dropStale c.bay
    match d.seq? c.bay (c.at 16 4) with
    | none => d.complete c stBadParam 0
    | some s =>
      if !c.only 1 [(16, 0, 32)] then d.complete c stBadParam 0
      else
        let d1 := s.reqs.foldl (fun d r => d.endReq c.bay s.serial r stAborted 0) d
        ((d1.closeSeqs c.bay fun x => x.serial == s.serial).reapSeqs c.bay).complete c stOk s.committed

/-- PREFIX_BUILD. -/
def Dev.prefixBuild (d0 : Dev) (q : Nat) : Dev :=
  match d0.running? q 0x54 with
  | none => d0
  | some c =>
    let b := c.bay
    let d := d0.dropStale b
    let hid := c.at 16 8
    let n := c.at 32 4
    let sid := c.at 36 4
    let sheaf := if sid = 0 then d.currentSheaf b else d.sheaf? b sid
    let maxPos := alignUp n 64
    let ok := c.only 1 [(16, 0, 64), (24, 0, 48), (32, 0, 32), (36, 0, 32)] && hid != 0 && inRange 1 262144 n && (d.handle? b hid).isNone
      && (match sheaf with | some s => !s.aux && inRange 2 4 s.st | none => false)
    match sheaf, sheaf.bind fun s => d.manifest? b s.id with
    | some s, some m =>
      if !ok then d.complete c stBadParam 0
      else if ((d.bay b).seqs.filter fun x => x.handle && !x.closed).length ≥ d.fd .bayPrefixLimit b 0 17 || !s.pinRoom then d.complete c stQuota 0
      else match d.allocDirs b (d.cachesOf b m maxPos) [] [] with
        | none => d.complete c stQuota 0
        | some (ks, own) =>
          let d1 := d.modSeqs b fun ss => ss ++ [{ handle := true, id := hid, serial := c.order, maxPos := maxPos, caches := ks, own := own, sheaf := s.id }]
          match d1.reserveHandle b hid (ks.map fun k => (k, d1.pagesFor b (if k.aux = 0 then s.id else k.aux) k 0 n)) with
          | none => d.complete c stQuota 0
          | some (ps, blocks) =>
            if c.trapped then d.complete c stAborted 0
            else
              let va := c.at 24 8
              let d2 := d1.modSeq b c.order fun x =>
                { x with own := x.own ++ blocks, resv := ps.map fun p => (c.order, p.1, p.2.1, 0)
                         toks := (upFrom 0 n).map fun i => Tok.at_ (va + 4 * i)
                         reqs := [{ cmd := c, generate := false, accepted := d.now, active := true, stop := n }] }
              match d2.writeDirs b (hid % 2 ^ 32) 0 ks with
              | (d3, some e) => ((d3.modSeqs b fun ss => ss.filter fun x => x.serial != c.order).serveRegs b).complete c e 0
              | (d3, none) => ((d3.pin b s.id).deferCmd c).serveRegs b
    | _, _ => d.complete c stBadParam 0

/-- PREFIX_DROP. -/
def Dev.prefixDrop (d0 : Dev) (q : Nat) : Dev :=
  match d0.running? q 0x55 with
  | none => d0
  | some c =>
    let d := d0.dropStale c.bay
    match d.handle? c.bay (c.at 16 8) with
    | none => d.complete c stBadParam 0
    | some s =>
      if !c.only 1 [(16, 0, 64)] then d.complete c stBadParam 0
      else
        let d1 := s.reqs.foldl (fun d r => d.endReq c.bay s.serial r stAborted 0) d
        let d2 := d1.modSeq c.bay s.serial fun x => { x with closed := true }
        let sharing := ((d.bay c.bay).seqs.filter fun x => !x.handle && !x.closed && x.onHandle == some s.serial).length
        (d2.reapSeqs c.bay).complete c stOk sharing

/-! ## STEP and its builder (R342 to R345) -/

/-- The running STEP of an SQ. -/
def Dev.step? (d : Dev) (q : Nat) : Option StepRun := d.steps.find? fun r => r.sq == q

/-- Change it. -/
def Dev.modStep (d : Dev) (q : Nat) (f : StepRun → StepRun) : Dev := { d with steps := d.steps.map fun r => if r.sq == q then f r else r }

/-- Change an entry of the running step. -/
def Dev.modStepEntry (d : Dev) (q serial : Nat) (f : StepEntry → StepEntry) : Dev :=
  d.modStep q fun r => { r with entries := r.entries.map fun e => if e.serial == serial then f e else e }

/-- The step deadline of an active SEQ_GENERATE, 0 for none. -/
def SeqReq.stepDeadline (r : SeqReq) : Nat :=
  if !r.generate then 0
  else match r.lastEmit with
    | none => if r.cmd.at 40 4 = 0 then 0 else r.accepted + r.cmd.at 40 4
    | some t => if r.cmd.at 44 4 = 0 then 0 else t + r.cmd.at 44 4

/-- The earlier of two deadlines, 0 for none. -/
def earlier (a b : Nat) : Nat := if a = 0 then b else if b = 0 then a else min a b

/-- The key of a request (R345). -/
def SeqReq.key (r : SeqReq) : Nat := earlier r.cmd.deadline r.stepDeadline

/-- The next phase or layer of a STEP waits for its slot (13 R391). -/
def Dev.stepUnit (d : Dev) (q : Nat) : Dev :=
  match d.running? q 0x21, d.step? q with
  | some c, some r =>
    let keys := r.entries.filterMap fun e => (d.seqOf r.bay e.serial).bind fun s => s.active.map (·.key)
    (d.freeSlots q).unitReady { sq := q, bay := c.bay, high := c.highClass, deadline := keys.foldl earlier c.deadline, order := c.order, fwd := true, bwd := false
                                kernel := false, since := d.now }
  | _, _ => d

/-- Does the STEP hold its slot? -/
def Dev.onSlot (d : Dev) (q : Nat) : Bool := [0, 1].any fun e => match d.sched.slot e with | some (u, _) => u.sq == q | none => false

/-- STEP. -/
def Dev.stepCmd (d : Dev) (q : Nat) : Dev :=
  match d.running? q 0x21 with
  | none => d
  | some c =>
    let budget := c.at 16 4
    if (d.step? q).isSome || !d.enginesRun then d
    else if !c.only 1 [(16, 0, 32), (20, 0, 16), (22, 0, 16)] || !(budget == 0 || inRange 512 65536 budget) || c.at 20 2 == 0 || decide (c.at 22 2 > 16384) then
      d.complete c stBadParam 0
    else if c.trapped then d.complete c stAborted 0
    else if d.steps.any fun r => r.bay == c.bay then d
    else
      let r : StepRun :=
        { sq := q, bay := c.bay, budget := if budget = 0 then d.fd .bayServeCfg c.bay 0 17 else budget, left := c.at 20 2
          maxSeqs := if c.at 22 2 = 0 then 16384 else c.at 22 2 }
      Dev.stepUnit { d with steps := d.steps ++ [r] } q

/-- A STEP ends. -/
def Dev.stepEnd (d : Dev) (q status : Nat) : Dev :=
  match d.step? q with
  | none => d
  | some r =>
    let d1 := { d with steps := d.steps.filter fun x => x.sq != q }.freeSlots q
    let d2 := if r.sheaf = 0 then d1 else d1.unpin r.bay r.sheaf
    (d2.reapSeqs r.bay).finish q status r.ran

/-- Is there room in the ring for a step's records (R335)? A ring that cannot be read is found when it is written. -/
def Dev.ringRoom (d : Dev) (b : Nat) (s : Seq) : Bool :=
  match d.readVaNat b (s.outVa + 8) 8 with
  | .ok n => decide (s.produced + 9 ≤ s.outRecords + n)
  | .error _ => true

/-- The candidates of a step, with the key and start order of their requests, in order (R345). -/
def Dev.candidates (d : Dev) (b : Nat) : List (Seq × SeqReq) :=
  let cs := (d.bay b).seqs.filterMap fun s => match s.active with
    | some r =>
      let work := if s.handle then decide (s.committed < s.len) else decide (s.pending > 1) || (r.generate && decide (s.pending ≥ 1))
      if s.closed || s.faulted || !work || (r.generate && !d.ringRoom b s) || d.inStep b s.serial then none else some (s, r)
    | none => none
  sortBy (le := fun x y =>
    let a := x.2.key
    let z := y.2.key
    if a = z then decide (x.2.cmd.order ≤ y.2.cmd.order) else a != 0 && (z == 0 || decide (a < z))) cs

/-- The draft length of a sequence in a step on a sheaf: the request's, clipped under R339; 0 where the sheaf names another draft sheaf
than the one it is bound to (R348). -/
def Dev.draftsFor (d : Dev) (b sheaf : Nat) (s : Seq) (r : SeqReq) : Nat :=
  match d.manifest? b sheaf with
  | none => 0
  | some m => if (s.auxCache m.draft).isSome then min r.draft (s.maxPos - 2 - (s.len - 1)) else 0

/-- The largest chunk of R344 within `left`. -/
def Seq.chunk (s : Seq) (left : Nat) : Nat :=
  let top := if s.handle then s.len else s.len - 1
  if s.committed + left ≥ top then top - s.committed
  else (s.committed + left) / 256 * 256 - s.committed

/-- A planned entry. -/
abbrev Plan := List (Seq × SeqReq × Nat × Option Nat)

/-- build_step (R345): decode first, then prefill. -/
def Dev.buildPlan (d : Dev) (b sheaf budget maxSeqs : Nat) (cs : List (Seq × SeqReq)) : Plan :=
  let (left, plan) := cs.foldl (fun (acc : Nat × Plan) x =>
    if !x.2.generate || x.1.pending - 1 > 256 then acc
    else
      let dr := d.draftsFor b sheaf x.1 x.2
      let need := x.1.pending + dr
      if need ≤ acc.1 && acc.2.length < maxSeqs then (acc.1 - need, acc.2 ++ [(x.1, x.2, x.1.pending - 1, some dr)]) else acc) (budget, [])
  let rest := cs.filter fun x => !(plan.any fun p => p.1.serial == x.1.serial)
  (rest.foldl (fun (acc : Nat × Plan) x =>
    let n := x.1.chunk acc.1
    if n ≥ 1 && acc.2.length < maxSeqs then (acc.1 - n, acc.2 ++ [(x.1, x.2, n, none)]) else acc) (left, plan)).2

/-- The tokens of positions `[a, z)`: known, or read from the submitter's buffer. -/
def Dev.tokensAt (d : Dev) (b : Nat) (s : Seq) (a z : Nat) : Except MemErr (List Nat) :=
  ((s.toks.drop (a - s.base)).take (z - a)).foldl (fun acc t => match acc, t with
    | .error e, _ => .error e
    | .ok ts, .known v => .ok (ts ++ [v])
    | .ok ts, .at_ va => match d.readVaNat b va 4 with | .ok v => .ok (ts ++ [v]) | .error e => .error e) (.ok [])

/-- The request of an entry ends with a status, and the entry takes no further part. -/
def Dev.failStepEntry (d : Dev) (q : Nat) (e : StepEntry) (status : Nat) : Dev :=
  match d.step? q with
  | none => d
  | some r =>
    let d1 := d.modStepEntry q e.serial fun x => { x with mask := .ended }
    match d1.seqOf r.bay e.serial with
    | none => d1
    | some s =>
      let rs := s.own ++ (match s.onHandle.bind (d1.seqOf r.bay) with | some h => h.own | none => [])
      let d1 := match status == stUncorr, d1.running? q 0x21, rs.find? fun x => (match d1.readVa r.bay x.1 x.2 with | .error .uncorr => true | _ => false) with
        | true, some c, some x => d1.faultIn c x.1 x.2
        | _, _, _ => d1
      let d2 := if status = stUncorr && !s.handle then d1.modSeq r.bay s.serial fun x => { x with faulted := true } else d1
      -- a FAULTED sequence ends every request it has accepted (R332)
      let rs := if status = stUncorr then s.reqs else s.reqs.filter fun x => x.cmd.order == e.order
      let d3 := rs.foldl (fun d x => d.endReq r.bay s.serial x status x.emitted) d2
      if s.handle then d3.modSeq r.bay s.serial fun x => { x with closed := true } else d3

/-- Take an entry into the step: its tokens are read, and its caches are bound in its first step (R348). One whose rows would reach MAX_POS takes no
part (Table 8-8). -/
def Dev.enterStep (d : Dev) (q b sheaf : Nat) (m : Manifest) (p : Seq × SeqReq × Nat × Option Nat) : Dev :=
  let s := p.1
  let top := s.committed + p.2.2.1 + (if p.2.2.2.isSome then 1 else 0)
  let lo := s.caches.foldl (fun n k => min n k.committed) s.committed
  let e : StepEntry := { serial := s.serial, order := p.2.1.cmd.order, chunk := p.2.2.1, verify := p.2.2.2 }
  let d1 := d.modStep q fun r => { r with entries := r.entries ++ [e] }
  if top + p.2.2.2.getD 0 > s.maxPos then d1.failStepEntry q e stBadParam
  else match d1.tokensAt b s lo top with
  | .error x => d1.failStepEntry q e x.status
  | .ok ts =>
    let d2 := d1.modSeq b s.serial fun x =>
      let old := lo - x.base
      let x1 := { x with toks := x.toks.take old ++ ts.map Tok.known ++ x.toks.drop (old + ts.length) }
      let aux := ([m.draft, m.fallback].filter (· != 0)).eraseDups
      -- the first step binds the caches to the AUX sheaves it names, where they keep their shape
      if x.begun || x.handle || x.onHandle.isSome then x1
      else
        { x1 with caches := x1.main :: ((x1.caches.drop 1).zip aux).filterMap fun k => (d.manifest? b k.2).bind fun a =>
            if k.1.like (a.cache k.2 0) then some { k.1 with aux := k.2 } else none }
    let d3 := if s.pin && !s.begun && !s.handle then d2.pin b sheaf else d2
    d3.modSeq b s.serial fun x =>
      { x with begun := true, sheaf := if x.handle then x.sheaf else if x.pin then sheaf else 0 }

/-- STEP_BUILD: a step of the STEP on SQ `q` starts: the builder chooses its sheaf and rows, and it takes its pins. -/
def Dev.stepBuild (d0 : Dev) (q : Nat) : Dev :=
  match d0.step? q with
  | none => d0
  | some r0 =>
    let d := d0.dropStale r0.bay
    let b := r0.bay
    if r0.sheaf ≠ 0 || !d.onSlot q || !d.enginesRun || d.reloading then d
    else match d.candidates b with
      | [] => d.stepEnd q (if r0.ran = 0 && (d.currentSheaf b).isNone then stBadParam else stOk)
      | c0 :: r => match d.sheafFor b c0.1 with
        | none => d.stepEnd q stBadParam
        | some sheaf => match d.sheaf? b sheaf, d.manifest? b sheaf with
          | some sh, some m =>
            let mine := (c0 :: r).filter fun x => d.sheafFor b x.1 == some sheaf
            let bad := mine.filter fun x => !x.1.handle && !d.fits b sheaf x.1.addition x.1.maxPos (some x.1.main)
            let good := mine.filter fun x => !(bad.any fun y => y.1.serial == x.1.serial)
            let plan := d.buildPlan b sheaf r0.budget r0.maxSeqs good
            let newPins := 1 + (plan.filter fun p => p.1.pin && !p.1.begun && !p.1.handle).length
            let d1 := bad.foldl (fun d x => d.endReq b x.1.serial x.2 stBadParam x.2.emitted) d
            if sh.pins + newPins > 0xFFFFFFFF then d.stepEnd q stQuota
            else if plan.isEmpty then d1.stepEnd q stOk
            else
              let d2 := (d1.pin b sheaf).modStep q fun x => { x with sheaf := sheaf, layers := m.layers, check := 0, ran := x.ran + 1, left := x.left - 1 }
              (plan.foldl (fun d p => d.enterStep q b sheaf m p) d2).stepUnit q
          | _, _ => d.stepEnd q stBadParam

/-! ## Deadlines, drafting and layers (R346, R352, R353) -/

/-- The fallback cache that an entry could use (R353): FALLBACK is 1, a verify row set, and a bound cache of the step's fallback sheaf. -/
def Dev.fallbackCache (d : Dev) (b sheaf : Nat) (s : Seq) (r : SeqReq) (e : StepEntry) : Option (Nat × Nat) :=
  match d.manifest? b sheaf with
  | none => none
  | some m => if r.generate && bitAt r.cmd.pkt 385 && e.verify.isSome then (s.auxCache m.fallback).map fun i => (i, m.fallback) else none

/-- The rows that decode of an entry: from which position, and how many (R242). -/
def StepEntry.decodes (e : StepEntry) (s : Seq) : Nat × Nat := (s.committed + e.chunk, match e.verify with | some n => n + 1 | none => 0)

/-- Cancel the ATTEND items of an entry in the layer that its check precedes, none of which has started (R220, R353). -/
def Dev.cancelLayer (d : Dev) (b sheaf l : Nat) (e : StepEntry) (s : Seq) : Dev :=
  let (i, c) := e.decodes s
  match d.weights b sheaf, d.layer? b sheaf l, d.patternOf b sheaf s.main l with
  | .ok w, some le, some pat => if c = 0 then d else (upFrom 0 s.main.heads).foldl (fun d g =>
      d.cancelItems b (((d.attHead b { serial := s.serial, cache := 0, slot := 0, pre := 0, rows := [] } s.main le pat (Config.group w % 16 + 1) l g).items i c).map
        fun x => x.2)) d
  | _, _, _ => d

/-- Mask the entries whose keys have passed. -/
def Dev.maskEntries (d : Dev) (q : Nat) : Dev :=
  match d.step? q with
  | none => d
  | some r => r.entries.foldl (fun d e => match d.seqOf r.bay e.serial with
    | none => d
    | some s => match s.active with
      | none => d
      | some x =>
        if e.mask ≠ .in_ || x.cmd.order ≠ e.order || x.key = 0 || x.key ≥ d.now then d
        else
          let d1 := (if r.check = 0 then d else d.cancelLayer r.bay r.sheaf (r.check - 1) e s).addW .bayDlMasked r.bay 1
          if d.passed x.cmd || (d.fallbackCache r.bay r.sheaf s x e).isNone then d1.failStepEntry q e stDeadline
          else d1.modStepEntry q e.serial fun y => { y with mask := .fallback }) d

/-- The entries that take part. -/
def Dev.liveEntries (d : Dev) (q : Nat) : List (StepEntry × Seq) :=
  match d.step? q with
  | none => []
  | some r => r.entries.filterMap fun e => match d.seqOf r.bay e.serial with
    | some s => if e.mask = .in_ && !s.closed && !s.faulted then some (e, s) else none
    | none => none

/-- Tokens of the list at positions `[a, z)` that the step has read. -/
def Seq.known (s : Seq) (a z : Nat) : List Nat :=
  ((s.toks.drop (a - s.base)).take (z - a)).map fun t => match t with | .known v => v | .at_ _ => 0

/-- The filter of a request (R150). -/
def SeqReq.filter (r : SeqReq) : Filter :=
  { invTemp := r.cmd.at 28 4, topK := r.cmd.at 32 4, topP := r.cmd.at 36 4 }

/-- The jobs of a pass and what stopped any of them: those requests end. -/
def Dev.failJobs (d : Dev) (q : Nat) (jobs : List PassJob) : Dev :=
  jobs.foldl (fun d j => match j.bad, (d.step? q).bind fun r => r.entries.find? fun e => e.serial == j.serial with
    | some s, some e => d.failStepEntry q e s
    | _, _ => d) d

/-- The entries that take part, each with its place in the step. -/
def Dev.placed (d : Dev) (q : Nat) : List (Nat × StepEntry × Seq) := let xs := d.liveEntries q; (upFrom 0 xs.length).zip xs

/-- The part of an entry in the pass of AUX sheaf `id` that takes the chunks (R346, R348): an entry that drafts on it takes its last pending token
with the chunk, and that row decodes. -/
def Dev.auxJob (c : Cmd) (weights : List Byte) (id draft : Nat) (x : Nat × StepEntry × Seq) : Option PassJob :=
  let (slot, e, s) := x
  match s.auxCache id with
  | none => none
  | some i => match s.caches[i]? with
    | none => none
    | some k =>
      let drafting := e.verify.getD 0 != 0 && id == draft
      let stop := if drafting then s.len else s.committed + e.chunk
      if k.committed ≥ stop || (e.chunk = 0 && !drafting) then none
      else some { serial := e.serial, cache := i, slot := slot, pre := if drafting then s.len - 1 - k.committed else stop - k.committed
                  rows := rowsFrom weights 0 c.flush k.committed (s.known k.committed stop) [] }

/-- The draft that the logits of a row give, at position `pos`; whether its distribution holds a NaN (R346). -/
def proposal (fl : Bool) (r : SeqReq) (id pos : Nat) (x : List Nat) : Lane (Nat × Bool) :=
  if bitAt r.cmd.pkt 384 then pure (selFirst x, false)
  else do
    let p ← distOf fl r.filter x
    let t ← sampleFrom fl p x (draw32 (r.cmd.at 24 4) id pos 2)
    pure (t, p.any (isNan .fp32))

/-- The proposals of a draft pass: each job's last row decides its entry's next draft. -/
def Dev.proposeAll (d : Dev) (q : Nat) (c : Cmd) (layers : Nat) (jobs : List PassJob) : Dev :=
  jobs.foldl (fun d j => match j.bad, j.rows.getLast?, d.seqOf c.bay j.serial with
    | none, some row, some s => match s.active with
      | none => d
      | some r =>
        let x := Config.logits row
        let ((t, bad), fl) := (proposal c.flush r s.id (row.pos + 1) x).run false
        ((d.report c d.anyCore layers { nans := if bad then [(2, 0)] else [], flushed := fl }).tick).modStepEntry q j.serial fun y =>
          { y with drafts := y.drafts ++ [t], draftLogits := y.draftLogits ++ [x] }
    | _, _, _ => d) d

/-- The later draft passes: the entries that want more drafts take their last one as a row. -/
def Dev.draftPasses (q draft : Nat) (c : Cmd) (weights : List Byte) (layers : Nat) : Nat → Dev → Dev
  | 0, d => d
  | n + 1, d =>
    let jobs := (d.placed q).filterMap fun (x : Nat × StepEntry × Seq) => match x.2.2.auxCache draft with
      | none => none
      | some i => if x.2.1.drafts.isEmpty || x.2.1.verify.getD 0 ≤ x.2.1.drafts.length then none
        else some { serial := x.2.1.serial, cache := i, slot := x.1, pre := 0
                    rows := rowsFrom weights 0 c.flush (x.2.2.len - 1 + x.2.1.drafts.length) (x.2.1.drafts.drop (x.2.1.drafts.length - 1)) [] }
    if jobs.isEmpty then d
    else
      let (d1, js) := d.runPass c draft jobs
      Dev.draftPasses q draft c weights layers n ((d1.failJobs q js).proposeAll q c layers js)

/-- The chunks, and the first draft, on one AUX sheaf, and then its later draft passes. -/
def Dev.auxPass (d : Dev) (q : Nat) (c : Cmd) (draft id : Nat) : Dev :=
  match d.weights c.bay id, d.manifest? c.bay id with
  | .ok w, some man =>
    let jobs := (d.placed q).filterMap (Dev.auxJob c w id draft)
    if jobs.isEmpty then d
    else
      let (d1, js) := d.runPass c id jobs
      let d2 := d1.failJobs q js
      if id ≠ draft then d2
      else Dev.draftPasses q draft c w man.layers 8 (d2.proposeAll q c man.layers (js.filter fun j => decide (j.pre < j.rows.length)))
  | _, _ => d

/-- Phase 2: the AUX caches take the chunks, and the draft sheaf proposes the drafts. -/
def Dev.draftPhase (d : Dev) (q sheaf : Nat) (c : Cmd) : Dev :=
  let ids := (((d.liveEntries q).flatMap fun e => e.2.caches.map (·.aux)).filter fun id => id != 0 && (d.sheaf? c.bay id).isSome).eraseDups
  ids.foldl (fun d id => d.auxPass q c ((d.manifest? c.bay sheaf).map (·.draft) |>.getD 0) id) d

/-- The part of an entry in the main pass: chunk, last pending token and drafts, as far as its layers have run. -/
def Dev.mainJob (c : Cmd) (weights : List Byte) (x : Nat × StepEntry × Seq) : PassJob :=
  let (slot, e, s) := x
  let top := s.committed + e.chunk + (if e.verify.isSome then 1 else 0)
  { serial := e.serial, cache := 0, slot := slot, pre := e.chunk
    rows := rowsFrom weights s.addition c.flush s.committed (s.known s.committed top ++ e.drafts) e.outs }

/-- The jobs of the main pass. -/
def Dev.mainJobs (d : Dev) (q sheaf : Nat) (c : Cmd) : List PassJob :=
  match d.weights c.bay sheaf with
  | .ok w => (d.placed q).map (Dev.mainJob c w)
  | .error _ => []

/-- A main layer: the outputs of its attention stay with the entries. -/
def Dev.mainLayer (d : Dev) (q sheaf l : Nat) (c : Cmd) : Dev :=
  let (d1, js) := d.passLayer c sheaf l (d.mainJobs q sheaf c)
  (js.foldl (fun d j => d.modStepEntry q j.serial fun y => { y with outs := j.rows.map (·.outs) }) d1).failJobs q js

/-- The request limits (R347): where the tokens of an entry end: how many are kept, whether the last is a stop token, whether it is the
request's last. -/
def limitTokens (r : SeqReq) (lenAfter maxPos : Nat) (ts : List Nat) : Nat × Bool × Bool :=
  let stops := (upFrom 0 (r.cmd.bits 50 0 3)).map fun i => r.cmd.at (64 + 4 * i) 4
  match ((upFrom 0 ts.length).zip ts).find? fun e : Nat × Nat => stops.contains e.2 || decide (r.emitted + e.1 + 1 ≥ r.cmd.at 20 4) with
  | some (j, t) => (j + 1, stops.contains t, true)
  | none => (ts.length, false, decide (lenAfter ≥ maxPos))

/-- The decision of an entry, whose target logits are given: ACCEPT or SAMPLE, and the limits. -/
def Dev.decideEntry (d : Dev) (q layers : Nat) (c : Cmd) (e : StepEntry) (s : Seq) (r : SeqReq) (tx : List (List Nat)) : Dev :=
  let se : SeqEntry := { seqId := s.id, pos := s.len, drafts := e.drafts, xRow := 0, yRow := 0 }
  let ((a, t, bad), fl) := (acceptFrom c.flush (bitAt r.cmd.pkt 384) r.filter (r.cmd.at 24 4) se tx e.draftLogits 0 e.drafts).run false
  let ts := e.drafts.take a ++ [t]
  let (kept, stop, last) := limitTokens r (s.len + ts.length) s.maxPos ts
  ((d.report c d.anyCore layers { nans := if bad then [(2, 0)] else [], flushed := fl }).tick).modStepEntry q e.serial fun y =>
    { y with accepted := kept - 1, token := (ts[kept - 1]?).getD t, last := last, stop := stop }

/-- Phase 4: the logits, and the decisions of the entries that verify. -/
def Dev.decidePhase (d : Dev) (q sheaf layers : Nat) (c : Cmd) : Dev :=
  let (d1, js) := d.passLogits c layers (d.mainJobs q sheaf c)
  ((d1.failJobs q js).liveEntries q).foldl (fun d e => match e.1.verify, e.2.active, js.find? fun j => j.serial == e.1.serial with
    | some _, some r, some j => d.decideEntry q layers c e.1 e.2 r ((j.rows.drop j.pre).map Config.logits)
    | _, _, _ => d) (d1.failJobs q js)

/-- The status of the first sheaf of the step that cannot be read, with its record (Table 11-15): the STEP, its reader, ends with it. -/
def Dev.weightsErr (d : Dev) (r : StepRun) (c : Cmd) : Option (Dev × Nat) :=
  let aux := r.entries.flatMap fun e => match d.seqOf r.bay e.serial with | some s => s.caches.map (·.aux) | none => []
  (r.sheaf :: aux.filter (· != 0)).findSome? fun id => match d.sheaf? r.bay id, d.weights r.bay id with
    | some s, .error e => some (if e = stUncorr then d.faultIn c s.regionVa s.regionBytes else d, e)
    | _, _ => none

/-- DEADLINE_CHECK: the monitor's next check of the step on SQ `q`, and the phase or layer that follows it: drafting after the check at
phase 2, a main layer after each later one, and the decisions of phase 4 after the last layer. -/
def Dev.deadlineCheck (d : Dev) (q : Nat) : Dev :=
  match d.step? q, d.running? q 0x21 with
  | some r, some c =>
    if r.sheaf = 0 || r.check > r.layers || !d.onSlot q || !d.thatchAdmits then d
    else match d.weightsErr r c with
    | some (d1, e) => d1.stepEnd q e
    | none =>
      let d1 := (d.dropStale r.bay).maskEntries q
      let d2 := if r.check = 0 then d1.draftPhase q r.sheaf c else d1.mainLayer q r.sheaf (r.check - 1) c
      let d3 := if r.check = r.layers then d2.decidePhase q r.sheaf r.layers c else d2
      (d3.modStep q fun x => { x with check := x.check + 1 }).stepUnit q
  | _, _ => d

/-! ## Fallback and commit (R343, R347, R349, R351, R353, R354) -/

/-- The row set of a masked entry on its fallback sheaf (R353): from its cache's COMMITTED up to the last pending token, whose row decodes. -/
def Dev.fallbackJob (d : Dev) (c : Cmd) (sheaf slot : Nat) (e : StepEntry) (s : Seq) (r : SeqReq) : Except Nat (Nat × PassJob) :=
  match d.fallbackCache c.bay sheaf s r e with
  | none => .error stDeadline
  | some (i, fs) => match s.caches[i]?, d.weights c.bay fs with
    | none, _ => .error stDeadline
    | _, .error x => .error x
    | some k, .ok w => .ok (fs, { serial := e.serial, cache := i, slot := slot, pre := s.len - 1 - k.committed
                                  rows := rowsFrom w 0 c.flush k.committed (s.known k.committed s.len) [] })

/-- The fallback pass of a sheaf: its entries each take one token. -/
def Dev.fallbackPass (d : Dev) (q : Nat) (c : Cmd) (fs layers : Nat) (jobs : List PassJob) : Dev :=
  let (d1, js) := d.runPass c fs jobs
  js.foldl (fun d j => match j.bad, j.rows.getLast?, d.seqOf c.bay j.serial with
    | none, some row, some s => match s.active with
      | none => d
      | some x =>
        let se : SeqEntry := { seqId := s.id, pos := s.len, drafts := [], xRow := 0, yRow := 0 }
        let ((_, t, bad), fl) := (acceptFrom c.flush (bitAt x.cmd.pkt 384) x.filter (x.cmd.at 24 4) se [Config.logits row] [] 0 []).run false
        let (_, stop, last) := limitTokens x (s.len + 1) s.maxPos [t]
        ((d.report c d.anyCore layers { nans := if bad then [(2, 0)] else [], flushed := fl }).tick).modStepEntry q j.serial fun y =>
          { y with mask := .fell, accepted := 0, token := t, last := last, stop := stop }
    | _, _, _ => d) (d1.failJobs q js)

/-- FALLBACK_PHASE: every masked entry that may takes one token from the fallback sheaf. -/
def Dev.fallbackPhase (d : Dev) (q : Nat) : Dev :=
  match d.step? q, d.running? q 0x21 with
  | some r, some c =>
    if r.sheaf = 0 || r.check ≤ r.layers || !(r.entries.any fun e => e.mask == .fallback) || !d.onSlot q || !d.thatchAdmits then d
    else match d.weightsErr r c with
    | some (d1, e) => d1.stepEnd q e
    | none =>
      let cands := (upFrom 0 r.entries.length).zip r.entries |>.filterMap fun x => if x.2.mask ≠ .fallback then none
        else (d.seqOf r.bay x.2.serial).map fun s => (x.1, x.2, s, s.active)
      let (d1, jobs) := cands.foldl (fun (acc : Dev × List (Nat × PassJob)) x => match x.2.2.2 with
        | none => (acc.1.modStepEntry q x.2.1.serial fun y => { y with mask := .ended }, acc.2)
        | some a => match d.fallbackJob c r.sheaf x.1 x.2.1 x.2.2.1 a with
          | .error s => (acc.1.failStepEntry q x.2.1 s, acc.2)
          | .ok j => (acc.1, acc.2 ++ [j])) (d, [])
      ((jobs.map (·.1)).eraseDups.foldl (fun d fs => d.fallbackPass q c fs r.layers ((jobs.filter fun j => j.1 == fs).map (·.2))) d1).stepUnit q
  | _, _ => d

/-- An output record (Table 12-2). -/
def outRecord (id pos token sheaf addition fallback drafted last stop drafts step time : Nat) : Nat :=
  mkFields [(0, 32, id), (32, 32, pos), (64, 32, token), (96, 32, sheaf), (128, 7, addition), (136, 1, fallback), (137, 1, drafted), (138, 1, last),
    (139, 1, stop), (144, 4, drafts), (160, 32, step), (192, 64, time)]

/-- Write records and then PRODUCED: the error that stops it. -/
def Dev.writeRecords (d : Dev) (b : Nat) (s : Seq) (rs : List Nat) : Dev × Option MemErr :=
  let (d1, e) := ((upFrom 0 rs.length).zip rs).foldl (fun (acc : Dev × Option MemErr) r => match acc with
    | (d, some e) => (d, some e)
    | (d, none) => d.writeVa b (s.outVa + 64 + 32 * ((s.produced + r.1) % s.outRecords)) (toLe 32 r.2)) (d, none)
  match e with
  | some e => (d1, some e)
  | none => d1.writeVa b s.outVa (toLe 8 ((s.produced + rs.length) % 2 ^ 64))

/-- Every cache of a sequence commits up to its own place: the status that stops it. -/
def Dev.commitAll (d : Dev) (b : Nat) (s : Seq) (target : KvCache → Nat) : Dev × Option Nat :=
  ((upFrom 0 s.caches.length).zip s.caches).foldl (fun (x : Dev × Option Nat) k => match x with
    | (d, some st) => (d, some st)
    | (d, none) => d.commitCache b s.serial k.1 (target k.2)) (d, none)

/-- Commit the tokens of an entry that generates: caches, records, rate and, at its end, the request. -/
def Dev.commitTokens (d : Dev) (q : Nat) (r : StepRun) (e : StepEntry) (s : Seq) (x : SeqReq) : Dev :=
  let b := r.bay
  let fell := e.mask == .fell
  let man := d.manifest? b r.sheaf
  let ts := if fell then [e.token] else if e.verify.isSome then e.drafts.take e.accepted ++ [e.token] else []
  let sheaf := if fell then (man.map (·.fallback)).getD 0 else r.sheaf
  let dr := if fell then 0 else e.verify.getD 0
  let step := (d.rd .baySteps b + 1) % 2 ^ 32
  let recs := ((upFrom 0 ts.length).zip ts).map fun t =>
    let isLast := t.1 + 1 == ts.length
    outRecord s.id (s.len + t.1) t.2 sheaf s.addition (if fell then 1 else 0) (if !fell && decide (t.1 < e.accepted) then 1 else 0)
      (if isLast && e.last then 1 else 0) (if isLast && e.stop then 1 else 0) dr step d.now
  match (if ts.isEmpty then (d, none) else d.writeRecords b s recs) with
  | (d1, some err) => d1.failStepEntry q e err.status
  | (d1, none) =>
    let chunkEnd := s.committed + e.chunk
    let main := if fell then s.committed else if e.verify.isSome then s.len + e.accepted else chunkEnd
    -- AUX caches commit the chunk; the draft cache what its passes wrote of what was accepted; the fallback cache its rows
    let auxTo (k : KvCache) : Nat :=
      if fell then (if some k.aux == man.map (·.fallback) then s.len else k.committed)
      else if dr ≠ 0 && some k.aux == man.map (·.draft) then max chunkEnd (s.len - 1 + min dr (1 + e.accepted))
      else if e.chunk = 0 then k.committed else chunkEnd
    match d1.commitAll b s fun k => if k.aux = 0 then main else auxTo k with
    | (_, some st) => d.failStepEntry q e st
    | (d2, none) =>
    let built := if s.gapHi = 0 then 0 else min main s.gapHi - min (max s.committed s.gapLo) (min main s.gapHi)
    let d3 := (d2.modSeq b s.serial fun y =>
      { y with toks := y.toks ++ ts.map Tok.known, produced := (y.produced + recs.length) % 2 ^ 64
               gapLo := if fell && y.gapHi = 0 then s.len - 1 else if main ≥ y.gapHi && !fell then 0 else y.gapLo
               gapHi := if fell then s.len else if main ≥ y.gapHi then 0 else y.gapHi }).addW .bayRebuilt b built
    let x1 : SeqReq :=
      { x with
        emitted := x.emitted + ts.length
        lastEmit := if ts.isEmpty then x.lastEmit else some d.now
        fell := x.fell || fell
        rate := if dr = 0 then x.rate else (3 * x.rate + 256 * e.accepted / dr) / 4
        draft := if dr = 0 then x.draft else draftLen x.cmd ((3 * x.rate + 256 * e.accepted / dr) / 4) }
    let d4 := d3.modSeq b s.serial fun y => y.modReq x.cmd.order fun _ => x1
    let d5 := if fell then d4.addW .bayDlFallback b 1
      else if e.verify.isSome then ((d4.addW .baySpecProposed b dr).addW .baySpecAccepted b e.accepted).addW .baySpecRejected b (dr - e.accepted)
      else d4
    if e.last then d5.endReq b s.serial x1 (if x1.fell then stFallback else stOk) x1.emitted else d5

/-- Commit the chunk of a SEQ_SUBMIT or of a handle's build. -/
def Dev.commitChunk (d : Dev) (q : Nat) (r : StepRun) (e : StepEntry) (s : Seq) (x : SeqReq) : Dev :=
  let stop := s.committed + e.chunk
  match d.commitAll r.bay s fun _ => stop with
  | (_, some st) => d.failStepEntry q e st
  | (d1, none) => match d1.seqOf r.bay s.serial with
  | none => d1
  | some s1 =>
    if s.handle then
      if stop ≥ s.len then
        ((d1.modBay r.bay fun y => { y with ro := y.ro ++ s1.own.filter fun o => !(s1.caches.any fun k => k.dir == o.1) }).endReq r.bay s.serial x stOk s.len)
      else d1
    else if s1.submitDone x then d1.endReq r.bay s.serial x stOk (x.cmd.at 20 4) else d1

/-- STEP_COMMIT: phase 6, and the next step or the end of the STEP; a step that produced a NaN commits nothing (R355). -/
def Dev.stepCommit (d0 : Dev) (q : Nat) : Dev :=
  match d0.step? q, d0.running? q 0x21 with
  | some r, some c =>
    let d := d0.dropStale r.bay
    if r.sheaf = 0 || r.check ≤ r.layers || (r.entries.any fun e => e.mask == .fallback) || !d.onSlot q || !d.enginesRun then d
    else if c.nan then d.stepEnd q stOk
    else
      let d1 := r.entries.foldl (fun d e => match d.seqOf r.bay e.serial with
        | none => d
        | some s => match s.active with
          | none => d
          | some x =>
            if s.closed || s.faulted || x.cmd.order ≠ e.order || (e.mask ≠ .in_ && e.mask ≠ .fell) then d
            else if x.generate then d.commitTokens q r e s x
            else d.commitChunk q r e s x) d
      let d2 := d1.addW .baySteps r.bay 1
      if r.left = 0 then d2.stepEnd q stOk
      else
        let d3 := (d2.modStep q fun x => { x with sheaf := 0, check := 0, entries := [] }).unpin r.bay r.sheaf
        (d3.reapSeqs r.bay).stepUnit q
  | _, _ => d0

/-- SPEC_REJECT_SUMMARY: a summary interval of bay `b` ends. -/
def Dev.specRejectSummary (d : Dev) (b : Nat) : Dev :=
  let rej := d.rd .baySpecRejected b
  let pro := d.rd .baySpecProposed b
  let m := (d.bay b).specMark
  let n := (rej + 2 ^ 64 - m.1) % 2 ^ 64
  let k := (pro + 2 ^ 64 - m.2) % 2 ^ 64
  if b ≥ 16 then d
  else
    let d1 := d.modBay b fun x => { x with specMark := (rej, pro) }
    if n = 0 || !d.rbit .bayServeEven b 0 then d1 else d1.event b 0x0012 (min n 0xFFFFFFFF) (min k 0xFFFFFFFF)

end Sys2Proof.Machine
end

