-- ==== Sys2Proof/Machine/Uses.lean ====
section
/-!
DEFINITION. Machine/Uses.lean: the ranges of bay virtual memory that a command accesses (14 R402 TOUCHED, R412, R418).
Where the spec is silent or is read by inference: DEDUCED log 59 (notes/assumptions).
-/
namespace Sys2Proof.Machine

/-- The VA ranges of a copy. -/
def CopyDesc.vaRanges (k : CopyDesc) : List (Nat × Nat) :=
  (k.srcRanges ++ k.dstRanges).filterMap fun r => if r.sp == .va && r.n != 0 then some (r.a, r.n) else none

/-- The ranges of a formatted array of bay memory. -/
def fmtVa (f : FmtDesc) (a rows : Nat) : List (Nat × Nat) :=
  [(a, elemBytes f.elem (rows * f.rowLen)), (f.scaleVa, f.scaleBytes rows), (f.coarseVa, f.sliceBytes rows)]

/-- The VA ranges of an Eave operation. -/
def Dev.eaveVa (d : Dev) (b : Nat) (o : EaveOp) : List (Nat × Nat) :=
  (match o.kind, o.f0, o.f1, o.f2 with
    | 3, some fw, some fx, some f2 => fmtVa fw o.src o.count ++ fmtVa fx o.idx o.rows ++ (if o.loft then [] else fmtVa f2 o.dst o.rows)
    | 4, _, _, _ =>
      let items := match d.readVa b o.idx (64 * o.count) with
        | .ok bs => (chunksOf 64 o.count bs).filterMap fun x => attItem (ofLe x)
        | .error _ => []
      (o.idx, 64 * o.count) :: items.flatMap fun i =>
        let js := if i.start = i.stop then [] else upFrom (i.start / 64) ((i.stop - 1) / 64 + 1 - i.start / 64)
        [(i.pt + 8 * (i.start / 64), 8 * js.length), (o.src + i.qRow * 2 * o.dim, i.cands * o.group * 2 * o.dim)]
        ++ (if o.loft then [] else [(o.dst + i.oRow * (4 * o.dim + 64), i.cands * o.group * (4 * o.dim + 64))])
        ++ js.filterMap fun j => match d.kvPage b i.pt (64 * j) with
          | .ok (some p) => some (p, 68 * o.dim + 64 * o.dim)
          | _ => none
    | 2, some f0, _, some f2 => fmtVa f0 o.src o.count ++ fmtVa f2 o.dst o.rows ++ [(o.idx, 4 * o.count)]
    | _, some f0, _, some f2 => fmtVa f0 o.src o.rows ++ [(o.idx, 4 * o.count)] ++ (if o.loft then [] else fmtVa f2 o.dst o.outRows)
    | _, _, _, _ => [])
  ++ (if o.weighted then [(o.w, 4 * o.count)] else []) ++ (if o.sum then [(o.aux, 4 * (o.bags + 1))] else [])

/-- The VA ranges of an entry of a KERNEL. -/
def Dev.entryVa (d : Dev) (b : Nat) (e : Entry) : List (Nat × Nat) :=
  match e.cls with
  | 1 => match parseThatch e.desc with
    | some o => (match o.reduce, smFind (d.bay b).handles o.dLoft with | true, some h => [(h.accVa, 4 * h.elements)] | _, _ => [])
    | none => []
  | 2 => match parseLath e.desc with
    | some o => if o.kind = 11 then [224, 232, 240, 248].map fun x => (o.par x 8, 4 * o.par 216 8) else []
    | none => []
  | 3 => match parseCopy (e.desc % 2 ^ 1536) with
    | some k => if k.kind = 3 then [(k.src, k.len)] else k.vaRanges
    | none => []
  | 4 => match parseEave e.desc with | some o => d.eaveVa b o | none => []
  | _ => []

/-- The chains of a part that this module heads without storing, or stores: their ranges. -/
def chainVa (runs : List ChainRun) : List (Nat × Nat) :=
  runs.flatMap fun r => (if r.stores then [(r.dst, r.bytes)] else [])
    ++ (if r.pos = 0 && r.conn.isNone then [(r.src, r.bytes)] else []) ++ (match r.crcVa with | some a => [(a, 8)] | none => [])

/-- The group object of a part and this module's rank in it. -/
def Dev.groupAt (d : Dev) (b va : Nat) : Option (List Member × Nat) :=
  match d.readGroup b va with
  | .ok (some g) => (d.rankIn b g).map fun r => (g, r)
  | _ => none

/-- The VA ranges of a REDUCE RUN: the group, the plan and the buffers. -/
def Dev.reduceVa (d : Dev) (c : Cmd) : List (Nat × Nat) :=
  let gv := c.at 56 8
  let pv := c.at 48 8
  (gv, d.groupLen c.bay gv) :: d.planParts c.bay pv ++ (match d.groupAt c.bay gv with
    | some (g, rank) => match d.readPlan c.bay pv g with
      | .ok (some plan) => ({ c.reducePart g rank with plan := plan }.reduceRanges).map fun (r : Nat × Nat × Bool) => (r.1, r.2.1)
      | _ => []
    | none => [])

/-- The VA ranges of an ALLGATHER or ALLTOALL. -/
def Dev.blocksVa (d : Dev) (c : Cmd) : List (Nat × Nat) :=
  let gv := c.at 24 8
  (gv, d.groupLen c.bay gv) :: (match d.groupAt c.bay gv with
    | some (g, _) => (c.blockRanges g.length).map fun r => (r.1, r.2.1)
    | none => [])

/-- The VA ranges of a CHAIN_BROADCAST. -/
def Dev.broadcastVa (d : Dev) (c : Cmd) : List (Nat × Nat) :=
  let gv := c.at 32 8
  let n := c.at 24 4
  let roce := bitAt c.pkt 128
  [(gv, d.groupLen c.bay gv), (c.at 40 8, 48 * n)] ++ (if roce then [(c.at 72 8, 32 * n)] else [])
  ++ (match d.groupAt c.bay gv with
    | some (g, rank) => match d.readChains c.bay (c.at 40 8) (c.at 48 8) n g.length with
      | .ok (some cs) =>
        (cs.map fun e => (c.at 48 8 + 2 * e.1.memberOff, 2 * e.1.members))
        ++ chainVa (((upFrom 0 n).zip cs).filterMap fun e => (chainRun c e.1 rank (c.at 56 8) (c.at 64 8) e.2).map fun r =>
          { r with conn := if roce then some 0 else none
                   crcVa := if r.stores && c.at 80 8 != 0 then some (c.at 80 8 + 8 * r.piece) else none })
      | _ => []
    | none => [])

/-- The VA ranges of a TURN: the group; TO_GENERATE the plan, the region, the master values and scales of the rank's jobs and the staged
chains. -/
def Dev.turnVa (d : Dev) (c : Cmd) : List (Nat × Nat) :=
  let gv := c.at 40 8
  let pv := c.at 48 8
  let va := c.at 56 8
  (gv, d.groupLen c.bay gv) :: (if bitAt c.pkt 128 then [] else (pv, 64) :: (va, match d.readVaNat c.bay (va + 16) 8 with | .ok n => n | .error _ => 64)
    :: (match d.groupAt c.bay gv with
      | some (g, rank) => match d.readTurnPlan c.bay pv g.length with
        | .ok (some pl) =>
          ((pl.jobs.filter fun j => j.rank == rank).flatMap fun j =>
            [(c.at 72 8 + 4 * j.src, 4 * j.elements), (c.at 80 8 + 4 * j.lscale, 4 * (j.elements / j.fmt.rowLen * j.fmt.blocksPerRow))])
          ++ chainVa (((upFrom 0 pl.chains.length).zip pl.chains).filterMap fun e =>
            chainRun c e.1 rank (if e.2.1.headStores then va else c.at 64 8) va e.2)
        | _ => []
      | none => []))

/-- The VA ranges that a STEP may access: the serving pool, the regions of the bay's sheaves, and the token buffers and output rings of its
sequences. -/
def Dev.stepVa (d : Dev) (b : Nat) : List (Nat × Nat) :=
  (d.rd .bayServePoolVa b, d.rd .bayServePoolBytes b) :: ((d.bay b).sheaves.filter fun s => decide (2 ≤ s.st)).map (fun s => (s.regionVa, s.regionBytes))
  ++ ((d.bay b).seqs.filter fun s => !s.handle).flatMap fun s =>
    (s.outVa, 64 + 32 * s.outRecords) :: s.toks.filterMap fun t => match t with | .at_ a => some (a, 4) | .known _ => none

/-- The ranges that a command reads or writes. -/
def Dev.commandUses (d : Dev) (c : Cmd) : List (Nat × Nat) :=
  match c.opcode with
  | 0x10 => match parseCopy (c.at 16 192) with | some k => k.vaRanges | none => []
  | 0x11 => if bitAt c.pkt (8 * 40) then [(c.at 16 8, c.at 24 8)] else []
  | 0x12 => match parseConvert c with
    | some (v, rows) => fmtVa v.sf v.src rows ++ fmtVa v.df v.dst rows
    | none => []
  | 0x21 => d.stepVa c.bay
  | 0x30 => if c.bits 16 0 2 < 2 then [] else d.reduceVa c
  | 0x31 | 0x32 => d.blocksVa c
  | 0x33 => d.broadcastVa c
  | 0x40 => d.turnVa c
  | 0x41 => match d.sheaf? c.bay (c.at 20 4) with
    | some s => if c.bits 16 0 3 = 1 then [(s.regionVa, s.regionBytes)] else []
    | none => if c.bits 16 0 3 = 0 then [(c.at 24 8, 64)] else []
  | 0x42 => [(c.at 40 8, d.groupLen c.bay (c.at 40 8))]
  | 0x60 => if c.bits 16 0 2 = 2 then [(c.at 48 8, 64)] else []
  | 0x80 => [(c.at 32 8, c.at 24 4 * (if c.bits 16 0 2 = 0 then 512 else 64))]
  | 0x50 => [(c.at 32 8, 64 + 32 * c.at 40 4)]
  | 0x51 => [(c.at 24 8, 4 * c.at 20 4)]
  | 0x54 => [(c.at 24 8, 4 * c.at 32 4)]
  | 0x13 | 0x14 => match parseEave (c.at 16 256) with | some o => d.eaveVa c.bay o | none => []
  | 0x20 =>
    let va := c.at 16 8
    let n := c.at 24 4
    match d.readVa c.bay va n with
    | .error _ => [(va, n)]
    | .ok bs =>
      let count := ofLe ((bs.drop 4).take 2)
      (va, n) :: (((bs.drop 64).take count).zip (chunksOf 256 count (bs.drop (imageHead count)))).flatMap fun e =>
        d.entryVa c.bay { cls := e.1.toNat, desc := ofLe e.2 }
  | _ => []

end Sys2Proof.Machine
end

