-- ==== Sys2Proof/Machine/Queues.lean ====
section
/-!
DEFINITION. Machine/Queues.lean: submission and completion queues, doorbells, event queues and the order of commands
(13 R361 to R379, R388, R397, R399); the rows of queues and the commands NOP, FENCE, WAIT_EVENT, SIGNAL_EVENT, QUEUE_CREATE
and QUEUE_DELETE.
Where the spec is silent or is read by inference: DESIGN CHOICE log 5; DEDUCED logs 7, 8, 22 (notes/assumptions).
-/
namespace Sys2Proof.Machine

/-! ## Opcodes (Table 13-11) -/

/-- The LENGTH of an opcode; `none` for an opcode that the table does not list. -/
def opLength (op : Nat) : Option Nat :=
  if op ∈ [0x01, 0x02, 0x03, 0x04, 0x11, 0x20, 0x21, 0x31, 0x32, 0x41, 0x42, 0x43, 0x50, 0x51, 0x53, 0x54, 0x55, 0x60, 0x61,
      0x62, 0x63, 0x64, 0x70, 0x71, 0x72, 0x80, 0x81, 0x82, 0x90, 0x91, 0xA1, 0xA2, 0xB0] then some 1
  else if op ∈ [0x12, 0x30, 0x33, 0x40, 0x52, 0xA0, 0xB1] then some 2
  else if op = 0x10 then some 4
  else if op ∈ [0x13, 0x14] then some 5
  else none

/-- May a packet of this opcode come from an SQ of bay `b`, admin or not (R387)? -/
def opAllowed (op b : Nat) (admin : Bool) : Bool :=
  if op = 0xA0 then admin && b == 0
  else if op = 0xA1 ∨ op = 0xA2 then admin
  else if op ∈ [0x82, 0x90, 0x91, 0xB0, 0xB1] then b == 0
  else true

/-- The header checks of steps 2 to 4 of R362, in order. -/
def Dev.headerCheck (d : Dev) (s : Sq) (pkt len : Nat) : Option Nat :=
  match opLength (bytesAt pkt 0 1) with
  | none => some stBadOpcode
  | some l =>
    if !opAllowed (bytesAt pkt 0 1) s.bay s.admin then some stNoPerm
    else if len ≠ l || fld pkt 13 3 != 0 || (bitAt pkt 12 && !d.rbit .bayId s.bay 5) then some stBadParam
    else none

/-! ## Rings -/

/-- The units (or slots) of a ring. -/
def Sq.size (s : Sq) : Nat := 2 ^ s.log2
def Cq.size (k : Cq) : Nat := 2 ^ k.log2

/-- Units announced and not read. -/
def Sq.avail (s : Sq) : Nat := (s.tail + s.size - s.head) % s.size

/-- The slots of a CQ that software has not read (R370). -/
def Cq.unread (k : Cq) : Nat := k.pos - k.rd

/-- A CQ has room when at least two of its slots are read (R370). -/
def Cq.room (k : Cq) : Bool := decide (k.unread + 2 ≤ k.size)

/-- Does the ring of an SQ lie in host memory: an admin ring, or a page in T3? -/
def Dev.hostRing (d : Dev) (s : Sq) : Bool := s.admin || !d.inTiers s.bay s.ring 64 [1]

/-- Read one unit of an SQ ring: `none` where its page is unmapped or an uncorrectable error is met. -/
def Dev.ringUnit (d : Dev) (s : Sq) (u : Nat) : Option (List Byte) :=
  let a := s.ring + 64 * (u % s.size)
  if s.admin then d.hostRead a 64
  else match d.readVa s.bay a 64 with
    | .ok bs => some bs
    | .error _ => none

/-- Read `n` units from `u`. -/
def Dev.ringUnits (d : Dev) (s : Sq) : Nat → Nat → Option (List Byte)
  | 0, _ => some []
  | n + 1, u => match d.ringUnit s u, d.ringUnits s n (u + 1) with
    | some a, some b => some (a ++ b)
    | _, _ => none

/-- The Gable die that serves SQ `q` answers: its own, or the survivor after a takeover (R394). -/
def Dev.served (d : Dev) (q : Nat) : Bool :=
  d.fd .queueGableSts 0 2 2 != 0 || (if q % 2 = 0 then d.misses0 == 0 else d.misses1 == 0)

/-- May the command processor read SQ `s` now (17 R496, R501; 18 R518; 19 R538)? -/
def Dev.mayRead (d : Dev) (q : Nat) (s : Sq) : Bool :=
  s.st == 1 && !d.reloading && (d.ready || (d.early && s.bay == 0)) && d.served q && !(d.bay s.bay).resetting
  && (!d.sarking || d.hostRing s)
  && (!d.rbit .hostifErr 0 3 || (!d.hostRing s && s.stopTail.isSome && s.stopTail != some s.head))

/-- Put a queue into ERROR (R371) and raise QUEUE_FAULT. -/
def Dev.sqFault (d : Dev) (q cause idx : Nat) : Dev :=
  match smFind d.sqs q with
  | none => d
  | some s =>
    if s.st ≠ 1 then d
    else
      let d1 := { d with sqs := smPut d.sqs q { s with st := 2, cause := cause } }
      let d2 := if s.admin then d1.sf .bayAdminSts s.bay 0 2 2 else d1
      d2.event s.bay 0x0060 (mkFields [(0, 18, q), (20, 4, cause)]) idx

/-- Put a CQ into ERROR (R371). -/
def Dev.cqFault (d : Dev) (c cause idx : Nat) : Dev :=
  match smFind d.cqs c with
  | none => d
  | some k =>
    if k.st ≠ 1 then d
    else
      let d1 := { d with cqs := smPut d.cqs c { k with st := 2, cause := cause } }
      let d2 := if k.admin then d1.sf .bayAdminSts k.bay 0 2 2 else d1
      d2.event k.bay 0x0060 (mkFields [(0, 18, c), (18, 1, 1), (20, 4, cause)]) idx

/-! ## Contexts (R373) -/

/-- Move an SQ to the front of a die's cache of 4,096 contexts; was it there? -/
def cacheUse (cache : List Nat) (q : Nat) : List Nat × Bool :=
  ((q :: cache.filter (· != q)).take 4096, cache.contains q)

/-- A doorbell or start on an SQ: its context is loaded where the serving die does not hold it. -/
def Dev.useContext (d : Dev) (q : Nat) : Dev :=
  let carrier := d.fd .queueGableSts 0 2 2
  let first := if carrier = 0 then q % 2 == 0 else carrier == 1
  if first then
    let (c, hit) := cacheUse d.cache0 q
    let d1 := { d with cache0 := c }
    if hit then d1 else d1.addW .queueCtxMisses 0 1
  else
    let (c, hit) := cacheUse d.cache1 q
    let d1 := { d with cache1 := c }
    if hit then d1 else d1.addW .queueCtxMisses 0 1

/-! ## Reading and starting -/

/-- PACKET_READ: one packet of SQ `q` is read, whole, and its header is checked (R361, R362, R367). -/
def Dev.packetRead (d : Dev) (q : Nat) : Dev :=
  match smFind d.sqs q with
  | none => d
  | some s =>
    if !d.mayRead q s || s.avail = 0 then d
    else match d.ringUnit s s.head with
      | none => d.sqFault q 3 s.head
      | some h =>
        let len := bytesAt (ofLe h) 2 2
        if !inRange 1 8 len then d.sqFault q 1 s.head
        else if s.avail < len then d
        else match d.ringUnits s len s.head with
          | none => d.sqFault q 3 s.head
          | some bs =>
            let pkt := ofLe bs
            { d with sqs := smPut d.sqs q { s with
                head := (s.head + len) % s.size, headDue := true
                ready := s.ready ++ [{ pkt := pkt, len := len, early := d.headerCheck s pkt len }] } }

/-- Opcodes that run in Sarking mode (R518); of BAY_CONFIG only OP RESET. -/
def sarkRuns (op pkt : Nat) : Bool :=
  [0x01, 0x02, 0x03, 0x04, 0x82].contains op || (op == 0xA0 && fld pkt 128 2 == 1)

/-- Opcodes of early service (Table 17-5). -/
def earlyRuns (op : Nat) : Bool :=
  [0x01, 0x02, 0x03, 0x04, 0x10, 0x11, 0x12, 0x20, 0x60, 0x61, 0x62, 0x63, 0x64, 0x80, 0x81, 0xA1, 0xA2].contains op

/-- Opcodes whose chapters treat the deadline themselves (R379): collectives, chains, turns, sheaf switches, serving
requests, underlay agreements and FW_RELAY. -/
def ownDeadline (op : Nat) : Bool :=
  [0x30, 0x31, 0x32, 0x33, 0x40, 0x42, 0x51, 0x52, 0x54, 0x70, 0x71, 0xB1].contains op

/-- The commands, by start order, that are running or accepted on SQs of a bay. -/
def Dev.startedOn (d : Dev) (qs : List Nat) : List Nat :=
  qs.flatMap fun q => match smFind d.sqs q with
    | none => []
    | some s => (match s.run with | some c => [c.order] | none => []) ++ s.deferred.map (·.order)

/-- The SQs of a bay. -/
def Dev.sqsOf (d : Dev) (b : Nat) : List Nat := (d.sqs.filter fun e => e.2.bay == b).map (·.1)

/-- The SQs that a FENCE names (R376). -/
def Dev.fenceSqs (d : Dev) (b pkt : Nat) : List Nat :=
  let n := bytesAt pkt 16 4
  if n = 0 then d.sqsOf b else (upFrom 0 (min n 8)).map fun i => bytesAt pkt (24 + 4 * i) 4

/-- May the SQ start its next command (R370, R371, R374, R375)? -/
def Dev.mayStart (d : Dev) (q : Nat) (s : Sq) (p : ReadPkt) : Bool :=
  s.st == 1 && s.run.isNone && !d.reloading && d.served q && !(d.bay s.bay).resetting
  && (!bitAt p.pkt 8 || s.deferred.isEmpty)
  && (match smFind d.cqs s.cq with | some k => k.st == 1 && k.room | none => false)

/-- COMMAND_START: the oldest packet read from SQ `q` starts, or a deferred one is taken for acceptance, or it completes
without running. -/
def Dev.commandStart (d : Dev) (q : Nat) : Dev :=
  match smFind d.sqs q with
  | none => d
  | some s => match s.ready with
    | [] => d
    | p :: rest =>
      if !d.mayStart q s p then d
      else
        let op := bytesAt p.pkt 0 1
        let c0 : Cmd :=
          { sq := q, bay := s.bay, pkt := p.pkt, flush := d.rbit .bayNumcfg s.bay 0, trapped := d.trapped s.bay
            started := d.now, order := d.startOrder
            waits := if op = 0x02 then (d.startedOn (d.fenceSqs s.bay p.pkt)).eraseDups else []
            fenceBad := op == 0x02 && !(d.fenceSqs s.bay p.pkt).all fun x => d.holdsSq s.bay x && (smFind d.sqs x).isSome }
        let c := { c0 with uses := if p.early.isSome then [] else d.commandUses c0 }
        let die := if d.fd .queueGableSts 0 2 2 = 0 then q % 2 else d.fd .queueGableSts 0 2 2 - 1
        let d1 := ((d.useContext q).addW .queueCmdsStarted 0 1).addW .gableCmds die 1
        let d2 := { d1 with sqs := smPut d1.sqs q { s with ready := rest, run := some c }, startOrder := d.startOrder + 1 }
        match p.early with
        | some st => d2.complete c st 0
        | none =>
          if d.sarking && !sarkRuns op p.pkt then d2.complete c stPowerHold 0
          else if !d.ready && !earlyRuns op then d2.complete c stBusy 0
          else if d.passed c && !ownDeadline op then d2.complete c stDeadline 0
          else c.uses.foldl (fun d r => d.touch c.bay r.1 r.2 d.now) d2

/-! ## Heads and completions -/

/-- SQ_HEAD_WRITE: the head of SQ `q` is written to its head address (R369). -/
def Dev.sqHeadWrite (d : Dev) (q : Nat) : Dev :=
  match smFind d.sqs q with
  | none => d
  | some s =>
    if !s.headDue then d
    else
      let d1 := { d with sqs := smPut d.sqs q { s with headDue := false } }
      if s.admin then d1.hostWrite s.headAddr (toLe 8 s.head)
      else match d1.writeVa s.bay s.headAddr (toLe 8 s.head) with
        | (d2, none) => d2
        | (_, some _) => d1.sqFault q 4 s.head

/-- The first slot of a completion entry (Table 13-2). -/
def Cpl.slot0 (e : Cpl) (phase : Nat) : Nat :=
  mkFields [(0, 32, e.tag), (32, 16, e.status), (48, 1, phase), (49, 1, if e.ext then 1 else 0), (64, 18, e.sq), (96, 32, e.result)]

/-- The second slot of an extended entry. -/
def Cpl.slot1 (e : Cpl) (phase : Nat) : Nat := mkFields [(0, 32, e.extra), (48, 1, phase), (64, 64, e.time)]

/-- Write one slot of a CQ. -/
def Dev.writeSlot (d : Dev) (k : Cq) (pos n : Nat) : Dev × Bool :=
  let a := k.ring + 16 * (pos % k.size)
  if k.admin then (d.hostWrite a (toLe 16 n), true)
  else match d.writeVa k.bay a (toLe 16 n) with
    | (d1, none) => (d1, true)
    | (_, some _) => (d, false)

/-- Signal a CQ's vector (R365, R372, R398). -/
def Dev.signalCq (d : Dev) (c : Nat) : Dev :=
  match smFind d.cqs c with
  | none => d
  | some k => { d.signal k.bay k.vector with cqs := smPut d.cqs c { k with unsignalled := 0 } }

/-- An entry of CQ `k` says that software disabled the admin pair: the queues end once nothing is left (R399, R372). -/
def Dev.reapAdmin (d : Dev) (b : Nat) : Dev :=
  let q := d.rd .baySqBase b
  let c := d.rd .bayCqBase b
  if d.rbit .bayAdminCtrl b 0 then d
  else match smFind d.sqs q, smFind d.cqs c with
    | some s, some k =>
      if s.admin && k.admin && s.st == 3 && s.run.isNone && (k.waiting.isEmpty || k.st != 1) then
        { d with sqs := smDel d.sqs q, cqs := smDel d.cqs c }.wr .bayAdminSts b 0
      else d
    | _, _ => d

/-- COMPLETION_WRITE: the next entry of CQ `c` is written once it has the slots for it (R363 to R365, R370). -/
def Dev.completionWrite (d : Dev) (c : Nat) : Dev :=
  match smFind d.cqs c with
  | none => d
  | some k => match k.waiting with
    | [] => d
    | e :: rest =>
      let n := if e.ext then 2 else 1
      if k.st ≠ 1 || k.unread + n > k.size - 1 || !d.served e.sq then d
      else
        -- the head that covers the packet is visible no later than the entry (R369)
        let d0 := d.sqHeadWrite e.sq
        let (d1, ok1) := if e.ext then d0.writeSlot k (k.pos + 1) (e.slot1 (phaseOf k.log2 (k.pos + 1))) else (d0, true)
        let (d2, ok2) := if ok1 then d1.writeSlot k k.pos (e.slot0 (phaseOf k.log2 k.pos)) else (d1, false)
        if !ok2 then d0.cqFault c 6 (k.pos % k.size)
        else
          let k1 := { k with waiting := rest, pos := k.pos + n, unsignalled := k.unsignalled + 1 }
          let d3 := { d2 with cqs := smPut d2.cqs c k1 }
          let d4 := if e.signal || decide (k1.unsignalled ≥ max 1 k.coalCount) then d3.signalCq c else d3
          if k.admin then d4.reapAdmin k.bay else d4

/-- CQ_COALESCE_TIMER: COAL_US has passed since the first unsignalled entry (R372). -/
def Dev.cqCoalesceTimer (d : Dev) (c : Nat) : Dev :=
  match smFind d.cqs c with
  | none => d
  | some k => if k.coalUs = 0 || k.unsignalled = 0 then d else d.signalCq c

/-- EVQ_COALESCE_TIMER: vector 0 fires for the entries written since it last did (R388). -/
def Dev.evqCoalesceTimer (d : Dev) (b : Nat) : Dev :=
  if (d.bay b).evq.unsignalled = 0 then d
  else (d.signal b 0).modBay b fun x => { x with evq := { x.evq with unsignalled := 0 } }

/-! ## Doorbells (R368, R370) -/

/-- Is a doorbell write through the function of bay `b` ignored? -/
def Dev.doorbellBad (d : Dev) (b q : Nat) : Bool :=
  !d.enabled b || (d.bay b).resetting || !d.holdsSq b q || (smFind d.sqs q).isNone

/-- The low half of a doorbell: SQ_TAIL under TAIL_VALID. -/
def Dev.tailHalf (d : Dev) (q v : Nat) : Dev :=
  match smFind d.sqs q with
  | none => d
  | some s =>
    if !bitAt v 31 || s.st ≠ 1 then d
    else if fld v 0 16 ≥ s.size then d.sqFault q 2 (fld v 0 16)
    else { d with sqs := smPut d.sqs q { s with tail := fld v 0 16 } }

/-- The high half of a doorbell, as a 32-bit value: CQ_HEAD under HEAD_VALID. -/
def Dev.headHalf (d : Dev) (q v : Nat) : Dev :=
  match smFind d.sqs q with
  | none => d
  | some s => match smFind d.cqs s.cq with
    | none => d
    | some k =>
      let h := fld v 0 16
      let step := (h + k.size - k.rd % k.size) % k.size
      if !bitAt v 31 || k.st ≠ 1 then d
      else if h ≥ k.size || step > k.unread then d.cqFault s.cq 5 h
      else { d with cqs := smPut d.cqs s.cq { k with rd := k.rd + step } }

/-- SQ_TAIL_WRITE: a write of the doorbell of SQ `q` through bay `b`'s function; of both halves where `wide`. -/
def Dev.sqTailWrite (d : Dev) (b q v : Nat) (wide : Bool) : Dev :=
  if d.doorbellBad b q then d.addW .bayDbRejects b 1
  else
    let d1 := (d.useContext q).tailHalf q (fld v 0 32)
    if wide then d1.headHalf q (fld v 32 32) else d1

/-- CQ_HEAD_WRITE: a 32-bit write of the upper half of a doorbell. -/
def Dev.cqHeadWrite (d : Dev) (b q v : Nat) : Dev :=
  if d.doorbellBad b q then d.addW .bayDbRejects b 1 else (d.useContext q).headHalf q v

/-- EVQ_HEAD_WRITE: a write of BAY_EVQ_HEAD (R388). -/
def Dev.evqHeadWrite (d : Dev) (b h : Nat) : Dev :=
  let e := (d.bay b).evq
  let size := 2 ^ d.fd .bayEvqCtrl b 8 5
  let step := (h + size - e.rd % size) % size
  if h ≥ size || step > e.pos - e.rd || b ≥ 16 then d
  else (d.wr .bayEvqHead b h).modBay b fun x => { x with evq := { e with rd := e.rd + step } }

/-! ## Admin pair and event queue (R399) -/

/-- Are the LOG2 fields of a write of BAY_ADMIN_CTRL in their range? -/
def adminRange (v : Nat) : Bool := inRange 4 16 (fld v 8 5) && inRange 4 16 (fld v 16 5)

/-- ADMIN_ENABLE: a write of BAY_ADMIN_CTRL that sets ENABLE. -/
def Dev.adminEnable (d : Dev) (b v : Nat) : Dev :=
  let q := d.rd .baySqBase b
  let c := d.rd .bayCqBase b
  if d.rbit .bayAdminCtrl b 0 || !bitAt v 0 || !adminRange v || b ≥ 16 then d
  else if !d.holdsSq b q || !d.holdsCq b c || (smFind d.sqs q).isSome then d
  else
    let d1 := (d.wr .bayAdminCtrl b (mkFields [(0, 1, 1), (8, 5, fld v 8 5), (16, 5, fld v 16 5)])).sf .bayAdminSts b 0 2 1
    { d1 with
      sqs := smPut d1.sqs q { bay := b, admin := true, ring := d.rd .bayAdminSqAddr b, log2 := fld v 8 5
                              headAddr := d.rd .bayAdminHeadAddr b, cq := c }
      cqs := smPut d1.cqs c { bay := b, admin := true, ring := d.rd .bayAdminCqAddr b, log2 := fld v 16 5, vector := 1 } }

/-- Stop reading an SQ: its commands not started and its accepted deferred requests complete ABORTED (R372), and the sequences lose
the requests and the reservations of the latter (12 R338). -/
def Dev.stopSq (d : Dev) (q : Nat) : Dev :=
  match smFind d.sqs q with
  | none => d
  | some s =>
    let unstarted : List Cmd := s.ready.map fun p =>
      { sq := q, bay := s.bay, pkt := p.pkt, flush := false, started := d.now, order := 0 }
    let d1 := { d with sqs := smPut d.sqs q { s with st := 3, ready := [], deferred := [] } }
    (((unstarted ++ s.deferred).foldl (fun d c => d.postCpl c stAborted 0 0) d1).dropStale s.bay).reapSeqs s.bay

/-- ADMIN_DISABLE: a write of BAY_ADMIN_CTRL that clears ENABLE; its LOG2 fields keep what they held, and one out of its
range has the whole write ignored (00 R546, last point of R399). -/
def Dev.adminDisable (d : Dev) (b v : Nat) : Dev :=
  if !d.rbit .bayAdminCtrl b 0 || bitAt v 0 || !adminRange v then d
  else ((d.sb .bayAdminCtrl b 0 false).stopSq (d.rd .baySqBase b)).reapAdmin b

/-- EVQ_ENABLE: a write of BAY_EVQ_CTRL that sets ENABLE. -/
def Dev.evqEnable (d : Dev) (b v : Nat) : Dev :=
  if d.rbit .bayEvqCtrl b 0 || !bitAt v 0 || !inRange 6 16 (fld v 8 5) || b ≥ 16 then d
  else ((d.wr .bayEvqCtrl b (mkFields [(0, 1, 1), (8, 5, fld v 8 5)])).wr .bayEvqHead b 0).modBay b fun x =>
    { x with evq := { x.evq with pos := 0, rd := 0, unsignalled := 0 } }

/-- EVQ_DISABLE: a write of BAY_EVQ_CTRL that clears ENABLE: later events are lost (R390). One with LOG2 out
of its range is ignored as a whole (00 R546). -/
def Dev.evqDisable (d : Dev) (b v : Nat) : Dev :=
  if !d.rbit .bayEvqCtrl b 0 || bitAt v 0 || !inRange 6 16 (fld v 8 5) then d else d.sb .bayEvqCtrl b 0 false

/-- QUEUE_INSPECT: a write of QUEUE_INSPECT_SEL loads the selected queue's state (R397). -/
def Dev.queueInspect (d : Dev) (v : Nat) : Dev :=
  let q := fld v 0 18
  let d1 := d.wr .queueInspectSel 0 (mkFields [(0, 18, q), (31, 1, fld v 31 1)])
  d1.wr .queueInspectSts 0 (if bitAt v 31 then
      (match smFind d.cqs q with
        | none => 0
        | some k => mkFields [(0, 2, k.st), (2, 4, k.bay), (6, 4, k.cause), (16, 16, k.pos % k.size)])
    else
      match smFind d.sqs q with
      | none => 0
      | some s => mkFields [(0, 2, s.st), (2, 4, s.bay), (6, 4, s.cause), (16, 16, s.head)])

/-! ## Commands -/

/-- NOP (R380). -/
def Dev.nopCmd (d : Dev) (q : Nat) : Dev :=
  match d.running? q 0x01 with
  | none => d
  | some c => d.complete c (if c.only 1 [] then stOk else stBadParam) 0

/-- FENCE (R376): it completes once every command it waits for has completed. -/
def Dev.fenceCmd (d : Dev) (q : Nat) : Dev :=
  match d.running? q 0x02 with
  | none => d
  | some c =>
    let n := c.at 16 4
    if n > 8 || !c.only 1 [(16, 0, 32), (24, 0, 32 * min n 8)] || c.fenceBad then d.complete c stBadParam 0
    else if (d.startedOn (d.sqsOf c.bay)).any fun o => c.waits.contains o then d
    else d.complete c stOk c.waits.length

/-- WAIT_EVENT (R377). -/
def Dev.waitEventCmd (d : Dev) (q : Nat) : Dev :=
  match d.running? q 0x03 with
  | none => d
  | some c =>
    if !c.only 1 [(16, 0, 12), (24, 0, 64)] then d.complete c stBadParam 0
    else if d.counter c.bay (c.bits 16 0 12) < c.at 24 8 then d
    else d.complete c stOk (d.counter c.bay (c.bits 16 0 12) % 2 ^ 32)

/-- The new value of a counter under SIGNAL_EVENT. -/
def signalValue (op old v : Nat) : Nat := if op = 0 then v else if op = 1 then (old + v) % 2 ^ 64 else max old v

/-- SIGNAL_EVENT (R377). -/
def Dev.signalEventCmd (d : Dev) (q : Nat) : Dev :=
  match d.running? q 0x04 with
  | none => d
  | some c =>
    if !c.only 1 [(16, 0, 12), (18, 0, 2), (24, 0, 64)] || c.bits 18 0 2 == 3 then d.complete c stBadParam 0
    else
      let k := c.bits 16 0 12
      let v := signalValue (c.bits 18 0 2) (d.counter c.bay k) (c.at 24 8)
      (d.setCounter c.bay k v).complete c stOk (v % 2 ^ 32)

/-- Queues that exist beside the admin pair, of one kind, in early service (Table 17-5). -/
def Dev.createdQueues (d : Dev) (cq : Bool) : Nat :=
  if cq then (d.cqs.filter fun e => !e.2.admin).length else (d.sqs.filter fun e => !e.2.admin).length

/-- Is a range of a bay mapped in T1 or T3 and, where needed, writable (R367)? -/
def Dev.ringOk (d : Dev) (b va n : Nat) (write : Bool) : Bool :=
  (d.checkVa b va n write).isNone && d.inTiers b va n [1, 3]

/-- QUEUE_CREATE (R372). -/
def Dev.queueCreateCmd (d : Dev) (q : Nat) : Dev :=
  match d.running? q 0xA1 with
  | none => d
  | some c =>
    let cq := bitAt c.pkt 128
    let log2 := c.bits 17 0 5
    let id := c.at 20 4
    let ring := c.at 24 8
    let head := c.at 32 8
    let bind := c.at 40 4
    let coal := c.at 44 2
    let coalUs := c.at 46 2
    let n := 2 ^ log2
    let ok := c.only 1 [(16, 0, 1), (17, 0, 5), (20, 0, 32), (24, 0, 48), (32, 0, 64), (40, 0, 32), (44, 0, 32)]
      && inRange 4 16 log2 && aligned ring 12
      && (if cq then head == 0 && inRange 1 127 bind && d.holdsCq c.bay id && id != d.rd .bayCqBase c.bay && (smFind d.cqs id).isNone
          else aligned head 3 && coal == 0 && coalUs == 0 && d.holdsSq c.bay id && id != d.rd .baySqBase c.bay
            && (smFind d.sqs id).isNone
            && (match smFind d.cqs bind with | some k => k.bay == c.bay && k.st == 1 | none => false))
    if !ok then d.complete c stBadParam 0
    else if !d.ready && decide (d.createdQueues cq ≥ 64) then d.complete c stQuota 0
    else if cq then
      if !d.ringOk c.bay ring (16 * n) true then d.complete c stNotMapped 0
      else { d with cqs := smPut d.cqs id { bay := c.bay, admin := false, ring := ring, log2 := log2, vector := bind
                                            coalCount := coal, coalUs := coalUs } }.complete c stOk 0
    else if !d.ringOk c.bay ring (64 * n) false || !d.ringOk c.bay head 8 true then d.complete c stNotMapped 0
    else { d with sqs := smPut d.sqs id { bay := c.bay, admin := false, ring := ring, log2 := log2, headAddr := head
                                          cq := bind } }.complete c stOk 0

/-- QUEUE_DELETE (R372): of an SQ, it completes once its running command has ended and every entry is written. -/
def Dev.queueDeleteCmd (d : Dev) (q : Nat) : Dev :=
  match d.running? q 0xA2 with
  | none => d
  | some c =>
    let cq := bitAt c.pkt 128
    let id := c.at 20 4
    let okShape := c.only 1 [(16, 0, 1), (20, 0, 32)]
    if cq then
      match smFind d.cqs id with
      | none => d.complete c stBadParam 0
      | some k =>
        if !okShape || k.bay ≠ c.bay || k.admin then d.complete c stBadParam 0
        else if d.sqs.any fun e => e.2.cq == id then d.complete c stBusy 0
        else { d with cqs := smDel d.cqs id }.complete c stOk 0
    else
      match smFind d.sqs id with
      | none => d.complete c stBadParam 0
      | some s =>
        if !okShape || s.bay ≠ c.bay || s.admin then d.complete c stBadParam 0
        else
          let d1 := if s.st = 3 then d else d.stopSq id
          let left := match smFind d1.cqs s.cq with
            | none => false
            | some k => k.st == 1 && k.waiting.any fun e => e.sq == id
          if s.run.isSome || left then d1
          else { d1 with sqs := smDel d1.sqs id }.complete c stOk 0

/-- The numeric trap's CLEAR (02 R62): the record stays. -/
def Dev.trapClear (d : Dev) (b : Nat) : Dev :=
  let d1 := ((d.sb .bayNumsts b 1 false).sb .bayNumsts b 2 false).wr .bayTrapCount b 0
  match (d.bay b).nanBeat with
  | some n => if n.time = d.now then d1.trapFrom b n else d1
  | none => d1

end Sys2Proof.Machine
end

