-- ==== Sys2Proof/Machine/Bays.lean ====
section
/-!
DEFINITION. Machine/Bays.lean: BAY_CONFIG (13 R384 to R386): the ranges, grants, weights, limits and quotas of a bay, its reset, and the
grants of bases.
Where the spec is silent or is read by inference: DESIGN CHOICE log 37 (notes/assumptions).
-/
namespace Sys2Proof.Machine

/-! ## SET (R384) -/

/-- What OP SET gives a bay (Table 13-8). -/
structure BaySet where
  bay : Nat
  enable : Bool
  high : Bool
  array : Bool
  weight : Nat
  sqBase : Nat
  sqCount : Nat
  cqBase : Nat
  cqCount : Nat
  tBase : Nat
  tSize : Nat
  lBase : Nat
  lSize : Nat
  maxSeqs : Nat
  maxHandles : Nat
  quotas : List Nat
  deriving DecidableEq, Repr

/-- Read the packet. -/
def Cmd.baySet (c : Cmd) : BaySet :=
  { bay := c.bits 17 0 4, enable := bitAt c.pkt 144, high := bitAt c.pkt 145, array := bitAt c.pkt 146, weight := c.at 19 1, sqBase := c.at 20 4
    sqCount := c.at 24 4, cqBase := c.at 28 4, cqCount := c.at 32 4, tBase := c.at 36 1, tSize := c.at 37 1, lBase := c.at 38 1, lSize := c.at 39 1
    maxSeqs := c.at 40 4, maxHandles := c.at 44 4, quotas := [c.at 48 8, c.at 56 8, c.at 64 8, c.at 72 8] }

/-- The guaranteed quotas of T1 to T4, in order. -/
def quotaRegs : List Reg := [.bayQuotaT1, .bayQuotaT2, .bayQuotaT3, .bayQuotaT4]

/-- The checks that the packet and the other bays decide. -/
def Dev.setOk (d : Dev) (s : BaySet) : Bool :=
  let others := (upFrom 0 16).filter (· != s.bay)
  let g (x : Nat) : Nat := d.rd .pfstatGrant x
  inRange 1 255 s.weight && decide (s.sqCount ≤ 262144) && decide (s.cqCount ≤ 65536) && decide (s.sqBase + s.sqCount ≤ 262144)
    && decide (s.cqBase + s.cqCount ≤ 65536) && decide (s.sqBase < 262144) && decide (s.cqBase < 65536)
    && decide (s.tBase + s.tSize ≤ 88) && decide (s.lBase + s.lSize ≤ 56)
    && decide (s.maxSeqs ≤ 262144) && decide (s.maxHandles ≤ 65536)
    && (!s.enable || (s.sqCount != 0 && s.cqCount != 0)) && (s.bay != 0 || (s.enable && s.high && s.array))
    && others.all (fun x => !overlap s.sqBase s.sqCount (d.rd .baySqBase x) (d.rd .baySqCount x)
      && !overlap s.cqBase s.cqCount (d.rd .bayCqBase x) (d.rd .bayCqCount x)
      && !overlap s.tBase s.tSize (fld (g x) 0 8) (fld (g x) 8 8) && !overlap s.lBase s.lSize (fld (g x) 16 8) (fld (g x) 24 8))
    && decide (s.maxSeqs + sumN (others.map fun x => d.fd .bayServeLimit x 0 19) ≤ 262144)
    && decide (s.maxHandles + sumN (others.map fun x => d.fd .bayPrefixLimit x 0 17) ≤ 65536)

/-- The checks against what the bay holds: queues, sequences, handles, bytes. -/
def Dev.setFits (d : Dev) (s : BaySet) : Bool :=
  let inside (base count x : Nat) : Bool := decide (base ≤ x) && decide (x < base + count)
  let admin := d.sqs.any fun e => e.2.bay == s.bay && e.2.admin
  d.sqs.all (fun e => e.2.bay != s.bay || inside s.sqBase s.sqCount e.1) && d.cqs.all (fun e => e.2.bay != s.bay || inside s.cqBase s.cqCount e.1)
    && (!admin || (s.sqBase == d.rd .baySqBase s.bay && s.cqBase == d.rd .bayCqBase s.bay))
    && decide (d.rd .bayServeSts s.bay ≤ s.maxSeqs) && decide (d.rd .bayPrefixSts s.bay ≤ s.maxHandles)
    && [1, 3, 4].all (fun t => decide (d.quotaUsed s.bay t ≤ (s.quotas[t - 1]?).getD 0)) && decide (d.t2Mapped s.bay ≤ (s.quotas[1]?).getD 0)

/-- A bay's pool-resident objects of a tier become quota-resident, in ascending OBJ_ID, as long as they fit (R411). -/
def Dev.promote (d : Dev) (b t : Nat) : Dev :=
  let os := sortBy (fun x y : Obj => decide (x.id ≤ y.id)) (d.objs.filter fun o => o.bay == b && o.home == t && o.pool)
  (os.foldl (fun (acc : Dev × Bool) o =>
    if acc.2 && decide (acc.1.quotaUsed b t + o.size ≤ acc.1.quota b t) then (acc.1.modObj b o.id fun x => { x with pool := false }, true)
    else (acc.1, false)) (d, true)).1

/-- The quotas of the bay as set: objects promoted where one rose, and pools that shrank below what they hold emptied by eviction;
none where that cannot make room. -/
def Dev.setQuotas (d : Dev) (order : Nat) (s : BaySet) : Option Dev :=
  let d1 := (quotaRegs.zip s.quotas).foldl (fun d r => d.wr r.1 s.bay r.2) d
  let d2 := [1, 3, 4].foldl (fun x t => if d.quota s.bay t < x.quota s.bay t then x.promote s.bay t else x) d1
  [1, 3, 4].foldl (fun (acc : Option Dev) t => match acc with
    | none => none
    | some x =>
      if sumN ((upFrom 0 16).map fun b => x.quota b t) > x.capacity t then none
      else
        let held := sumN ((upFrom 0 16).map fun b => x.poolUsed b t)
        if held ≤ x.poolSize t then some x
        else match x.victims t (held - x.poolSize t) order [] with
          | none => none
          | some vs => match evictAll x vs with
            | (y, true) => some y
            | (_, false) => none) (some d2)

/-- Loft ranges of a grant word: (first address, bytes) on every slice. -/
def grantRanges (g : Nat) : List (Nat × Nat) :=
  (upFrom 0 16).map fun s =>
    let (base, size) := if s < 12 then (fld g 0 8, fld g 8 8) else (fld g 16 8, fld g 24 8)
    (s * 2 ^ 27 + base * 0x100000, size * 0x100000)

/-- Zero the Loft bytes of ranges, except those that also lie in `keep`. -/
def Dev.zeroLoft (d : Dev) (rs keep : List (Nat × Nat)) : Dev :=
  let inAny (l : List (Nat × Nat)) (a : Nat) : Bool := l.any fun r => decide (r.1 ≤ a) && decide (a < r.1 + r.2)
  { d with loft := d.loft.filter fun c => !(inAny rs c.1 && !inAny keep c.1)
           loftBad := d.loftBad.filter fun c => !(inAny rs (8 * c.1) && !inAny keep (8 * c.1))
           loftSoft := d.loftSoft.filter fun c => !(inAny rs (8 * c.1) && !inAny keep (8 * c.1)) }

/-- The Loft grant of a bay changes (06 R165): bytes that leave it and bytes that enter it are zero. -/
def Dev.setGrant (d : Dev) (b g : Nat) : Dev :=
  let old := grantRanges (d.rd .pfstatGrant b)
  let new := grantRanges g
  ((d.zeroLoft old new).zeroLoft new old).wr .pfstatGrant b g

/-- The word of PFSTAT_GRANT. -/
def BaySet.grant (s : BaySet) : Nat := mkFields [(0, 8, s.tBase), (8, 8, s.tSize), (16, 8, s.lBase), (24, 8, s.lSize)]

/-- Everything but quotas and grant. -/
def Dev.setRanges (d : Dev) (s : BaySet) : Dev :=
  let d1 := d.wr .bayId s.bay (mkFields [(0, 4, s.bay), (4, 1, if s.enable then 1 else 0), (5, 1, if s.high then 1 else 0), (6, 1, if s.array then 1 else 0)])
  let d2 := (((d1.wr .bayWeight s.bay s.weight).wr .baySqBase s.bay s.sqBase).wr .baySqCount s.bay s.sqCount).wr .bayCqBase s.bay s.cqBase
  ((d2.wr .bayCqCount s.bay s.cqCount).wr .bayServeLimit s.bay s.maxSeqs).wr .bayPrefixLimit s.bay s.maxHandles

/-! ## RESET (R385) -/

/-- RESET begins: the bay's SQs are read no more, what has not started and what is deferred completes ABORTED, its sequences are closed
and its handles dropped. -/
def Dev.resetBegin (d : Dev) (b : Nat) : Dev :=
  if (d.bay b).resetting then d
  else
    let d1 := d.modBay b fun x => { x with resetting := true }
    let d2 := (d1.sqsOf b).foldl (fun d q => d.stopSq q) d1
    ((d2.dropStale b).closeSeqs b fun _ => true).reapSeqs b

/-- Has the bay nothing left that runs, and are the entries of its CQs that have room written? -/
def Dev.resetReady (d : Dev) (b order : Nat) : Bool :=
  !((d.runningIn b).any fun c => c.order != order)
  && d.cqs.all fun e => e.2.bay != b || e.2.st != 1 || (match e.2.waiting with
    | [] => true
    | w :: _ => decide (e.2.unread + (if w.ext then 2 else 1) > e.2.size - 1))

/-- The bay's sheaves are retired whatever still pins them. -/
def Dev.retireAll (d : Dev) (b : Nat) : Dev :=
  (d.bay b).sheaves.foldl (fun d s => match d.sheaf? b s.id with
    | none => d
    | some x => (x.others b).foldl (fun d o => if o.1 = b then d else d.unpin o.1 o.2) (d.retireSheaf b x)) d

/-- RESET ends: the bay holds nothing but its ranges, grants, weight, limits and quotas. -/
def Dev.resetEnd (d : Dev) (b : Nat) : Dev :=
  let d1 := ((d.discardSets b).reapSeqs b).retireAll b
  let d2 := ((d1.objs.filter fun o => o.bay == b).foldl (fun d o => d.removeObj o) d1)
  let granted (m : Mapping) : Bool := m.objBay != b && m.peer.isNone
  let d2 := (d2.bay b).maps.foldl (fun d m => d.unmapPeer m m.bytes) d2
  let d3 := (d2.dropStats b).sb .numstatCtrl b 0 false
  let d4 := (d3.trapClear b).zeroLoft (grantRanges (d3.rd .pfstatGrant b)) []
  let d5 := { d4 with
    sqs := d4.sqs.filter fun e => e.2.bay != b
    cqs := d4.cqs.filter fun e => e.2.bay != b }
  let d6 := ((d5.sb .bayAdminCtrl b 0 false).wr .bayAdminSts b 0).sb .bayEvqCtrl b 0 false
  (d6.modBay b fun x =>
    { x with resetting := false, counters := [], maps := x.maps.filter granted, handles := [], seqs := []
             ro := x.ro.filter fun r => x.maps.any fun m => granted m && overlap r.1 r.2 m.va m.bytes }).serveRegs b

/-! ## The commands -/

/-- BAY_CONFIG that runs with an OP. -/
def Dev.bayCmd (d : Dev) (q op : Nat) (f : Cmd → Dev) : Dev :=
  match d.running? q 0xA0 with
  | none => d
  | some c => if c.bits 16 0 2 = op then f c else d

/-- The fields that OP `op` uses. -/
def Cmd.bayOnly (c : Cmd) (op : Nat) : Bool :=
  c.only 2 ([(16, 0, 2), (17, 0, 4)] ++ (if op = 0 then [(18, 0, 3), (19, 0, 8), (20, 0, 480)] else if op = 1 then [] else [(80, 0, 32)]))

/-- BAY_CONFIG with OP SET. Disabling a bay resets it first; a change of its Loft grant waits until nothing of the bay runs. -/
def Dev.bayConfig (d : Dev) (q : Nat) : Dev :=
  d.bayCmd q 0 fun c =>
    let s := c.baySet
    let off := d.rbit .bayId s.bay 4 && !s.enable
    if !c.bayOnly 0 || !d.setOk s || (!off && !d.setFits s) then d.complete c stBadParam 0
    else if off && !(d.bay s.bay).resetting && (((d.resetBegin s.bay).resetEnd s.bay).setQuotas c.order s).isNone then d.complete c stBadParam 0
    else if off && !(d.bay s.bay).resetting then d.resetBegin s.bay
    else if off && !d.resetReady s.bay c.order then d
    else if s.grant ≠ d.rd .pfstatGrant s.bay && (d.runningIn s.bay).any (fun x => x.order != c.order) then d
    else
      let d1 := if off then d.resetEnd s.bay else d
      match d1.setQuotas c.order s with
      | none => d1.complete c stBadParam 0
      | some d2 => ((d2.setRanges s).setGrant s.bay s.grant).complete c stOk 0

/-- BAY_CONFIG with OP RESET. -/
def Dev.bayReset (d : Dev) (q : Nat) : Dev :=
  d.bayCmd q 1 fun c =>
    let b := c.bits 17 0 4
    if !c.bayOnly 1 || b = 0 then d.complete c stBadParam 0
    else
      let d1 := d.resetBegin b
      if d1.resetReady b c.order then (d1.resetEnd b).complete c stOk 0 else d1

/-- The part of a mapping that lies in a range, read-only. -/
def Mapping.cut (m : Mapping) (va n : Nat) : Option Mapping :=
  let a := max m.va va
  let z := min (m.va + m.bytes) (va + n)
  if a < z then some { m with va := a, bytes := z - a, off := m.off + (a - m.va), write := false } else none

/-- BAY_CONFIG with OP GRANT_BASE. -/
def Dev.grantBase (d : Dev) (q : Nat) : Dev :=
  d.bayCmd q 2 fun c =>
    let b := c.bits 17 0 4
    match d.sheaf? 0 (c.at 80 4) with
    | none => d.complete c stBadParam 0
    | some s =>
      if !c.bayOnly 2 || s.delta || !inRange 2 4 s.st || (d.bay b).maps.any (fun m => overlap m.va m.bytes s.regionVa s.regionBytes) then
        d.complete c stBadParam 0
      else if !s.pinRoom then d.complete c stQuota 0
      else
        let ms := (d.bay 0).maps.filterMap fun m => m.cut s.regionVa s.regionBytes
        let d1 := d.modBay b fun x => { x with maps := x.maps ++ ms, ro := x.ro ++ [(s.regionVa, s.regionBytes)] }
        ({ d1.pin 0 s.id with baseGrants := d.baseGrants ++ [(s.id, b)] }).complete c stOk 0

/-- BAY_CONFIG with OP REVOKE_BASE. -/
def Dev.revokeBase (d : Dev) (q : Nat) : Dev :=
  d.bayCmd q 3 fun c =>
    let b := c.bits 17 0 4
    let id := c.at 80 4
    match d.sheaf? 0 id with
    | none => d.complete c stBadParam 0
    | some s =>
      if !c.bayOnly 3 || !d.baseGrants.contains (id, b) then d.complete c stBadParam 0
      else if (d.bay b).sheaves.any fun t => t.delta && t.baseBay == 0 && t.base == id then d.complete c stBusy 0
      else
        let d1 := d.modBay b fun x =>
          { x with maps := x.maps.flatMap (fun m => if m.objBay = 0 && b ≠ 0 then m.without s.regionVa s.regionBytes else [m])
                   ro := x.ro.filter (· != (s.regionVa, s.regionBytes)) }
        ({ d1 with baseGrants := d1.baseGrants.filter (· != (id, b)) }.unpin 0 id).complete c stOk 0

end Sys2Proof.Machine
end

