-- ==== Sys2Proof/Machine/Collect.lean ====
section
/-!
DEFINITION. Machine/Collect.lean: the traffic of collectives, chains and agreements as it arrives, and the rows that start and end
their parts (10 R287 to R292, 11 R307 to R321).
Where the spec is silent or is read by inference: DEDUCED logs 30, 59 (notes/assumptions).
-/
namespace Sys2Proof.Machine

/-- A message of a running part is used: chunks and requests of chains, and the traffic of the other collectives. -/
def Dev.collUse (d : Dev) (p : CollPart) (m : CollMsg) : Dev :=
  match m.key.kind with
  | 4 => match d.chain? p m.key.range with
    | some x => d.chunkIn p x m.key.seg m.len m.data m.key.slice m.key.dom
    | none => d
  | 5 => match d.chain? p m.key.range with
    | some x => d.chunkAgain p x m.key.seg
    | none => d
  | _ => d.blockUse p m

/-- Use the messages whose part runs, in order, while the engines run; the others wait (R287, R446). -/
def collDrain : Dev → List CollMsg → Dev
  | d, [] => d
  | d, m :: r =>
    if !d.enginesRun then { d with collIn := d.collIn ++ m :: r }
    else match d.part? m.bay m.tag with
      | none => collDrain { d with collIn := d.collIn ++ [m] } r
      | some p => collDrain (d.collUse p m) r

/-- Use what has come. -/
def Dev.collRun (d : Dev) : Dev := if d.collIn.isEmpty || !d.enginesRun then d else collDrain { d with collIn := [] } d.collIn

/-- Take a message frame: `port` 31 and this module as its source for one that this module sent itself. -/
def Dev.acceptColl (d : Dev) (h : FrameHdr) (vc : Nat) : Dev × Bool := if h.port = 31 ∧ h.src = d.self then (d, true) else d.accept h vc

/-- A message of a collective arrives. -/
def Dev.collMsg (d : Dev) (h : FrameHdr) (m : CollMsg) : Dev :=
  match d.acceptColl h 3 with
  | (d, false) => d
  | (d, true) => { d with collIn := d.collIn ++ [m] }.collRun

/-- RING_PARTIAL_RX (R279, R280): a partial sum, or a slice sum on its second travel. -/
def Dev.ringPartialRx (d : Dev) (h : FrameHdr) (b tag r s t data : Nat) (final : Bool) : Dev :=
  d.collMsg h { bay := b, tag := tag, key := { kind := if final then 1 else 0, range := r, seg := s, slice := t }, len := 0, data := data }

/-- REDUCE_FORM_RX (R283): the form of the holder in entry `dom` of the domain list. -/
def Dev.reduceFormRx (d : Dev) (h : FrameHdr) (b tag r s t dom data : Nat) : Dev :=
  d.collMsg h { bay := b, tag := tag, key := { kind := 2, range := r, seg := s, slice := t, dom := dom }, len := 0, data := data }

/-- COLLECTIVE_BLOCK_RX (R292): rank `src`'s block of `len` bytes. -/
def Dev.collectiveBlockRx (d : Dev) (h : FrameHdr) (b tag src len data : Nat) : Dev :=
  d.collMsg h { bay := b, tag := tag, key := { kind := 3, range := src }, len := len, data := data }

/-- CHAIN_CHUNK_RX (11 R318): chunk `k` of a chain, with its CRC and, for the last, the piece's. -/
def Dev.chainChunkRx (d : Dev) (h : FrameHdr) (b tag chain k len data crc pieceCrc : Nat) : Dev :=
  d.collMsg h { bay := b, tag := tag, key := { kind := 4, range := chain, seg := k, slice := crc, dom := pieceCrc }, len := len, data := data }

/-- CHAIN_RESEND_REQUEST (11 R319). -/
def Dev.chainResendRequest (d : Dev) (h : FrameHdr) (b tag chain k : Nat) : Dev :=
  d.collMsg h { bay := b, tag := tag, key := { kind := 5, range := chain, seg := k }, len := 0, data := 0 }

/-- Take a report of a running part; one that holds a commit does not fail any more (11 R309). -/
def Dev.takeReport (d : Dev) (p : CollPart) (rank status : Nat) : Dev :=
  if status = stOk then (d.modPart p fun x => { x with ok := if x.ok.contains rank then x.ok else x.ok ++ [rank] }).partGo p.bay p.tag
  else if (d.turn? p).any fun t => t.decision.isSome then d
  else d.partFail p stAborted

/-- PART_REPORT_RX (R290); a report for a part not yet issued waits for it. -/
def Dev.partReportRx (d : Dev) (h : FrameHdr) (b tag rank status : Nat) : Dev :=
  match d.acceptColl h 0 with
  | (d, false) => d
  | (d, true) => match d.part? b tag with
    | none => { d with collReports := d.collReports ++ [(b, tag, rank, status)] }
    | some p => d.takeReport p rank status

/-- READY_REPORT_RX (11 R307): a rank reports to the coordinator; a report for a part not yet issued waits for it. -/
def Dev.readyReportRx (d : Dev) (h : FrameHdr) (m : ReadyMsg) : Dev :=
  match d.acceptColl h 0 with
  | (d, false) => d
  | (d, true) => match d.part? m.bay m.tag with
    | some p => if p.rank = 0 then d.takeReady p m else d
    | none => { d with readyIn := d.readyIn ++ [m] }

/-- DECISION_RX (11 R307). -/
def Dev.decisionRx (d : Dev) (h : FrameHdr) (b tag : Nat) (commit : Bool) (status : Nat) : Dev :=
  match d.acceptColl h 0 with
  | (d, false) => d
  | (d, true) => match d.part? b tag with
    | some p => d.takeDecision p commit status
    | none => { d with decisionIn := d.decisionIn ++ [(b, tag, commit, status)] }

/-- The buffers of a part, as the command of its queue uses them from its start (14 R402, R412, R418). -/
def Dev.partUses (d : Dev) (p : CollPart) : Dev :=
  let n := p.group.length
  let own := if p.opcode = 0x30 then p.reduceRanges.map fun r => (r.1, r.2.1)
    else if p.opcode = 0x31 then [(p.src, p.bytes), (p.dst, n * p.bytes)]
    else if p.opcode = 0x32 then [(p.src, n * p.bytes), (p.dst, n * p.bytes)]
    else []
  let runs := (d.chains.filter fun x => x.sq == p.sq && x.order == p.order).flatMap fun x =>
    (if x.stores then [(x.dst, x.bytes)] else []) ++ (if x.pos = 0 then [(x.src, x.bytes)] else [])
  let rs := (own ++ runs).filter fun r => r.2 != 0
  let at_ := match (smFind d.sqs p.sq).bind (·.run) with | some c => c.started | none => d.now
  rs.foldl (fun d r => d.touch p.bay r.1 r.2 at_) (d.modCmd p.sq fun c => if c.order = p.order then { c with uses := c.uses ++ rs } else c)

/-- A part starts: it joins, begins its own work, and takes what came before it. -/
def Dev.partStart (d : Dev) (p : CollPart) (first : Dev → Dev) : Dev :=
  let mine (b t : Nat) : Bool := b == p.bay && t == p.tag
  let on (d : Dev) (f : Dev → CollPart → Dev) : Dev := match d.part? p.bay p.tag with | some x => f d x | none => d
  let reps := d.collReports.filter fun r => mine r.1 r.2.1
  let rdy := d.readyIn.filter fun r => mine r.bay r.tag
  let decs := d.decisionIn.filter fun r => mine r.1 r.2.1
  let d0 := { d with parts := d.parts ++ [p], collReports := d.collReports.filter (fun r => !mine r.1 r.2.1)
                     readyIn := d.readyIn.filter (fun r => !mine r.bay r.tag), decisionIn := d.decisionIn.filter fun r => !mine r.1 r.2.1 }
  let d1 := first (d0.partUses p)
  let d2 := reps.foldl (fun d r => on d fun d x => d.takeReport x r.2.2.1 r.2.2.2) d1
  let d3 := rdy.foldl (fun d r => on d fun d x => if x.rank = 0 then d.takeReady x r else d) d2
  let d4 := decs.foldl (fun d r => on d fun d x => d.takeDecision x r.2.2.1 r.2.2.2) d3
  (d4.workDone p.bay p.tag).collRun

/-- The start of a part with chains. -/
def Dev.chainStart (p : CollPart) (d : Dev) : Dev := d.partStart p fun d => d.headsRun p

def Dev.turnLearnCmd (d : Dev) (q : Nat) : Dev := d.turnToLearn q Dev.chainStart
def Dev.turnGenerateCmd (d : Dev) (q : Nat) : Dev := d.turnToGenerate q Dev.chainStart
def Dev.sheafSwitchCmd (d : Dev) (q : Nat) : Dev := d.sheafSwitch q Dev.chainStart
def Dev.fwRelayCmd (d : Dev) (q : Nat) : Dev := d.fwRelay q Dev.chainStart
def Dev.chainBroadcastCmd (d : Dev) (q : Nat) : Dev := d.chainBroadcast q Dev.chainStart

/-- REDUCE with OP RUN (R288 to R290). -/
def Dev.reduceRun (d : Dev) (q : Nat) : Dev :=
  match d.running? q 0x30 with
  | none => d
  | some c =>
    let tag := c.at 24 4
    if c.bits 16 0 2 < 2 || (d.parts.any fun p => p.sq == q) then d
    else if !c.reduceOk then d.refusePart c tag (d.groupRank c.bay (c.at 56 8))
    else if !d.enginesRun || (d.part? c.bay tag).isSome then d
    else match d.readGroup c.bay (c.at 56 8) with
      | .error e => d.collReadErr c (c.at 56 8) (d.groupLen c.bay (c.at 56 8)) e
      | .ok none => d.complete c stBadParam 0
      | .ok (some g) => match d.rankIn c.bay g with
        | none => d.complete c stBadParam 0
        | some rank =>
          let p0 := c.reducePart g rank
          match d.readPlan c.bay (c.at 48 8) g with
          | .error e => d.planErr c p0 (c.at 48 8) e
          | .ok none => d.partFail p0 stBadParam
          | .ok (some plan) =>
            let p1 := { p0 with plan := plan }
            let p := { p1 with waits := p1.allWaits }
            let rs := p.reduceRanges
            let shard := 4 * p.shardOff plan.length 0
            if (p.method ≠ 0 && overlap p.efIn shard p.efOut shard) || rs.any (fun r => d.outsideT1 c.bay r.1 r.2.1) then d.partFail p stBadParam
            else if c.trapped then d.partFail p stAborted
            else match d.rangesErr c.bay rs with
              | some e => d.partFail p e.status
              | none =>
                if d.passed c then d.partFail p stDeadline
                else match d.memberBad g with
                  | some s => d.partFail p s
                  | none => d.partStart p fun d =>
                      p.begins.foldl (fun d k => match d.part? p.bay p.tag, plan[k.1]? with
                        | some x, some r => (match x.place r with
                          | some y => d.ringStep x r y k.1 k.2.1 k.2.2 none
                          | none => d)
                        | _, _ => d) d

/-- ALLGATHER and ALLTOALL share their checks (R291): the part, once its packet and group allow it. -/
def Dev.blockPart (d : Dev) (q op : Nat) (start : CollPart → List Nat → Dev → Dev) : Dev :=
  match d.running? q op with
  | none => d
  | some c =>
    let tag := c.at 16 4
    let bytes := c.at 48 8
    let counts := c.at 56 8
    if d.parts.any fun p => p.sq == q then d
    else if !c.only 1 [(16, 0, 32), (24, 0, 320)] || !inRange 1 (2 ^ 32) bytes || (op == 0x31 && counts != 0) then
      d.refusePart c tag (d.groupRank c.bay (c.at 24 8))
    else if !d.enginesRun || (d.part? c.bay tag).isSome then d
    else match d.readGroup c.bay (c.at 24 8) with
      | .error e => d.collReadErr c (c.at 24 8) (d.groupLen c.bay (c.at 24 8)) e
      | .ok none => d.complete c stBadParam 0
      | .ok (some g) => match d.rankIn c.bay g with
        | none => d.complete c stBadParam 0
        | some rank =>
          let n := g.length
          let p : CollPart :=
            { sq := q, bay := c.bay, order := c.order, opcode := op, tag := tag, group := g, rank := rank, src := c.at 32 8, dst := c.at 40 8
              bytes := bytes, counts := counts, waits := ((upFrom 0 n).filter (· != rank)).map fun r => { kind := 3, range := r } }
          let rs := c.blockRanges n
          let lens : Except MemErr (List Nat) := if counts = 0 then .ok (List.replicate n bytes)
            else match d.readVaNat c.bay counts (8 * n) with
              | .error e => .error e
              | .ok v => .ok (unpackCodes 64 n v)
          let bad := rs.any (fun r => d.outsideT1 c.bay r.1 r.2.1) || (match lens with | .ok ls => ls.any (fun l => decide (bytes < l)) | .error _ => false)
          if bad then d.partFail p stBadParam
          else if c.trapped then d.partFail p stAborted
          else match d.rangesErr c.bay rs, lens with
            | some e, _ => d.partFail p e.status
            | none, .error e => d.partErr p counts (8 * n) e
            | none, .ok ls =>
              if d.passed c then d.partFail p stDeadline
              else match d.memberBad g with
                | some s => d.partFail p s
                | none => d.partStart p (start p ls)

/-- Copy a block of this rank locally. -/
def Dev.ownBlock (d : Dev) (p : CollPart) (from_ len : Nat) : Dev :=
  match d.readVa p.bay from_ len with
  | .error e => d.partErr p from_ len e
  | .ok bs =>
    let dst := p.dst + p.rank * p.bytes
    let (d1, e) := d.writeVa p.bay dst bs
    match e with
    | some e => d1.partErr p dst len e
    | none => d1.modPart p fun z => { z with written := z.written + len }

/-- ALLGATHER (R292): the own block is written, and sent to the next rank. -/
def Dev.allgather (d : Dev) (q : Nat) : Dev :=
  d.blockPart q 0x31 fun p _ d => match d.readVa p.bay p.src p.bytes with
    | .error e => d.partErr p p.src p.bytes e
    | .ok bs =>
      let d1 := d.ownBlock p p.src p.bytes
      if (d1.part? p.bay p.tag).isSome then d1.tell p ((p.rank + 1) % p.group.length) 3 fkBlock [p.rank, p.bytes, ofLe bs] p.bytes else d1

/-- ALLTOALL (R292): a block to every other rank, its own copied. -/
def Dev.alltoall (d : Dev) (q : Nat) : Dev :=
  d.blockPart q 0x32 fun p ls d =>
    let d1 := d.ownBlock p (p.src + p.rank * p.bytes) (ls[p.rank]?.getD 0)
    let d2 := if p.counts = 0 || (d1.part? p.bay p.tag).isNone then d1
      else
        let a := p.counts + 8 * p.group.length + 8 * p.rank
        match d1.writeVa p.bay a (toLe 8 (ls[p.rank]?.getD 0)) with
        | (d2, some x) => d2.partErr p a 8 x
        | (d2, none) => d2
    ((upFrom 0 p.group.length).zip ls).foldl (fun d e =>
      if e.1 = p.rank || (d.part? p.bay p.tag).isNone then d
      else match d.readVa p.bay (p.src + e.1 * p.bytes) e.2 with
        | .error x => d.partErr p (p.src + e.1 * p.bytes) e.2 x
        | .ok bs => d.tell p e.1 3 fkBlock [p.rank, e.2, ofLe bs] e.2) d2

end Sys2Proof.Machine
end

