-- ==== Sys2Proof/Machine/Losses.lean ====
section
/-!
DEFINITION. Machine/Losses.lean: peers that come and go with the work that depends on them (15 R429 to R436, R439; 10 R290; 11 R309;
14 R415), frames that fail, connections that fail, and MAP REMOTE.
Where the spec is silent or is read by inference: DEDUCED logs 40, 41; DESIGN CHOICE log 44 (notes/assumptions).
-/
namespace Sys2Proof.Machine

/-- A participant is lost: its collectives end (10 R290); a part of an agreement that is still at work fails, and a coordinator that
waits for the lost rank decides abort (11 R309); a part that is ready waits for its decision. -/
def Dev.partsLose (d : Dev) (dev status : Nat) : Dev :=
  d.parts.foldl (fun d p =>
    if !p.group.any (fun m => m.dev == dev) || (d.part? p.bay p.tag).isNone then d
    else match d.turn? p with
      | none => d.partFail p status
      | some t =>
        if t.decision.isSome then d
        else if !t.ready then d.partFail p status
        else if p.rank = 0 && !t.decided
            && ((upFrom 0 p.group.length).zip p.group).any (fun m => m.2.dev == dev && !t.readyRanks.contains m.1) then d.agree p false status
        else d) d

/-- A LIVE peer is LOST, and the work that depends on it ends; a fabric hold of it may end. -/
def Dev.lose (d : Dev) (dev reason : Nat) : Dev :=
  ((d.declareLost dev reason).partsLose dev (if reason = 3 then stVersionFloor else stPeerLost)).holdUpdate

/-- A DISCOVER or HEARTBEAT passed R429 (R430 to R432): the old INCARNATION of a LOST peer is discarded; a LIVE peer with another
INCARNATION has been lost and joins anew; one that is not in the table enters it where its link is direct. -/
def Dev.hear (d : Dev) (f : Nat) (direct : Bool) : Dev :=
  let dev := fld f 48 15
  match d.peer? dev with
  | none => if direct && decide (d.fab.peers.length < 1024) then d.makeLive f true else d
  | some p =>
    if p.st = 2 && p.inc == fld f 96 32 then d
    else if p.st = 1 && p.inc != fld f 96 32 then (d.lose dev 1).makeLive f direct
    else d.makeLive f direct

/-- DISCOVER_RX (R429): the link is accepted or REFUSED. `viaSwitch`: a switch forwarded the frame. -/
def Dev.discoverRx (d : Dev) (p f : Nat) (viaSwitch : Bool) : Dev :=
  let st := d.portState p
  if p ≥ 18 || (st ≠ 2 && st ≠ 3) || fld f 0 8 ≠ 1 then d
  else
    let d := d.modPort p fun x => { x with lastFlit := d.now }
    let d := d.sf .reedlinePortSts p 8 1 (if viaSwitch then 1 else 0)
    let d := d.wr .reedlinePortPartner p (mkFields [(0, 15, fld f 48 15), (16, 10, fld f 64 10), (26, 5, fld f 8 5), (31, 1, 1)])
    match d.refusal f with
    | some r =>
      let d1 := ((d.sf .reedlinePortSts p 0 2 3).sf .reedlinePortSts p 6 2 r).modPort p fun x => { x with disc := none, queue := [] }
      d1.record { kind := 0x0030, unit := unitId (0x10 + p / 9) 10 p, detail0 := r, detail1 := fld f 128 64 }
    | none =>
      let d1 := ((d.sf .reedlinePortSts p 0 2 2).sf .reedlinePortSts p 6 2 0).modPort p fun x => { x with disc := some f, viaSwitch := viaSwitch }
      (d1.hear f (!viaSwitch)).pump

/-- HEARTBEAT_RX (R431): it keeps or makes a peer LIVE; a LIVE peer whose level or floor no longer meets R435 is lost, one that was not
LIVE is REFUSED. -/
def Dev.heartbeatRx (d : Dev) (port f : Nat) : Dev :=
  let dev := fld f 48 15
  if !d.portUp? port || fld f 0 8 ≠ 2 then d
  else match d.peer? dev with
    | none => d
    | some p => match d.refusal f with
      | some _ =>
        if p.st = 1 then (if p.serial = fld f 128 64 then d.lose dev 3 else d)
        else if p.st = 2 then d
        else d.modPeer dev fun x => { x with st := 3, level := fld f 16 16, floor := fld f 32 16 }
      | none => d.hear f false

/-- PEER_LOSS_TIMEOUT (R431): 30 µs with no frame from a LIVE peer. -/
def Dev.peerLossTimeout (d : Dev) (dev : Nat) : Dev :=
  match d.peer? dev with
  | none => d
  | some p => if p.st ≠ 1 || d.now < p.lastRx + 30000 then d else d.lose dev 1

/-- LOSS_NOTICE_RX (R431): a LIVE peer of that INCARNATION is LOST; the notice goes on once. One that names no peer of this module is
remembered, ends the work that depends on it, and goes on once. -/
def Dev.lossNoticeRx (d : Dev) (h : FrameHdr) (dev inc : Nat) : Dev :=
  match d.accept h 0 with
  | (d, false) => d
  | (d, true) => match d.peer? dev with
    | some p => if p.st = 1 && p.inc == inc then d.lose dev 2 else d
    | none =>
      if dev = d.self || d.fab.gone.contains (dev, inc) then d
      else
        -- a hold without END that it began ends with it (R448)
        let d1 := d.modFab fun x => { x with gone := x.gone ++ [(dev, inc)], holds := x.holds.filter fun h => !(h.origin == dev && h.stop == 0) }
        ((d1.livePeers.foldl (fun d n => d.sendFrame n 0 fkLoss [dev, inc] 16) d1).partsLose dev stPeerLost).holdUpdate

/-- A frame fails (R427): the command that it serves completes LINK_LOST. -/
def Dev.frameFails (d : Dev) (f : Frame) : Dev :=
  let d1 := d.modFab fun x => { x with frames := x.frames.filter fun g => !(g.dst == f.dst && g.vc == f.vc && g.seq == f.seq) }
  match f.cmd with
  | none => d1
  | some (q, o) => match d1.parts.find? fun p => p.sq == q && p.order == o with
    | none => d1
    | some p => if (d1.turn? p).any fun t => t.decision.isSome then d1 else d1.partFail p stLinkLost

/-- FRAME_RESEND_TIMEOUT (R427, R433): 50 µs without acknowledgement, or without a route. -/
def Dev.frameResendTimeout (d : Dev) (dst vc seq : Nat) : Dev :=
  match d.fab.frames.find? fun f => f.dst == dst && f.vc == vc && f.seq == seq with
  | none => d
  | some f =>
    let upd (g : Frame → Frame) : Dev := d.modFab fun x => { x with frames := x.frames.map fun y => if y == f then g y else y }
    if d.now < f.sentAt + 50000 then d
    else if !d.vcOpen vc then upd fun y => { y with sentAt := d.now }
    else if f.waiting then (if (d.routePort dst).isSome then d.pump else d.frameFails f)
    else if f.sends ≥ 4 then d.frameFails f
    else (upd fun y => { y with waiting := true, sentAt := d.now }).pump

/-- Chains that use a connection fail with LINK_LOST (R439). -/
def Dev.connLost (d : Dev) (h : Nat) : Dev :=
  d.chains.foldl (fun d x => if x.conn ≠ some h then d
    else match d.parts.find? fun p => p.sq == x.sq && p.order == x.order with
      | some p => if p.waits.contains { kind := 4, range := x.idx } then d.partFail p stLinkLost else d
      | none => d) d

/-- CONN_ERROR (R439): retries exhausted (0xFF) or a fatal NAK with its syndrome. -/
def Dev.connError (d : Dev) (h syndrome : Nat) : Dev :=
  let c := d.conn h
  if c.st ≠ 2 then d else (d.setConn h { c with st := 3, err := syndrome % 256 }).connLost h

/-- CONN_DESTROY: a chain that still reads over the connection fails. -/
def Dev.connDestroyCmd (d : Dev) (v : Nat) : Dev := if fld v 0 2 ≠ 3 then d else (d.connDestroy v).connLost d.connSel

/-- The module's FLOOR rises (R436): peers that no longer meet R435 are lost with reason FLOOR, their links REFUSED. -/
def Dev.raiseFloor (d : Dev) (floor : Nat) : Dev :=
  let d1 := d.sf .reedlineLevel 0 16 16 (max floor (d.fd .reedlineLevel 0 16 16))
  let bad (p : Peer) : Bool := p.inc != 0 && !levelsMeet (d1.fd .reedlineLevel 0 0 16) (d1.fd .reedlineLevel 0 16 16) p.level p.floor
  let out := d1.fab.peers.filter bad
  let d2 := (out.filter fun p => p.st == 1).foldl (fun d p => d.lose p.dev 3) d1
  (upFrom 0 18).foldl (fun d i =>
    if d.portState i = 2 && out.any (fun p => bitAt (d.rd .reedlinePortPartner i) 31 && fld (d.rd .reedlinePortPartner i) 0 15 == p.dev) then
      (d.sf .reedlinePortSts i 0 2 3).sf .reedlinePortSts i 6 2 1
    else d) d2

/-- MAP REMOTE: what the owner answers, or why it cannot. -/
def Dev.mapRemoteRow (d : Dev) (q : Nat) (ans : Option PeerObj) : Dev :=
  let owner := match d.running? q 0x63 with | some c => c.at 18 2 | none => 0
  let fail := match d.memberBad [{ dev := owner, domain := 0, bay := 0 }] with
    | some s => some s
    | none => if owner != d.self && (d.routePort owner).isNone then some stLinkLost else none
  d.mapRemoteCmd q fail ans

end Sys2Proof.Machine
end

