-- ==== Sys2Proof/Machine/Power.lean ====
section
/-!
DEFINITION. Machine/Power.lean: power hold, the governor, heat, SET_LIMITS and Sarking mode (18), and the end of an array configuration
switch with its path check (04 R110 to R112).
Where the spec is silent or is read by inference: DEDUCED logs 50, 52; DESIGN CHOICE logs 51, 60 (notes/assumptions).
-/
namespace Sys2Proof.Machine

/-- Change the governor's state. -/
def Dev.modPow (d : Dev) (f : PowerSt → PowerSt) : Dev := { d with pow := f d.pow }

/-- `s` with other limits and another module. -/
def State.with (s : State) (l : Limits) (d : Dev) : State := { s with lim := l, dev := d }

/-! ## Entry into Sarking mode (R518) -/

/-- The ranges of bay memory that an entry of a KERNEL may have written. -/
def Dev.entryDests (d : Dev) (b : Nat) (e : Entry) : List (Nat × Nat) :=
  if e.st = .waiting then []
  else match e.cls with
    | 3 => match parseCopy (e.desc % 2 ^ 1536) with
      | some k => k.dstRanges.filterMap fun r => if r.sp == .va then some (r.a, r.n) else none
      | none => []
    | 4 => match parseEave e.desc with
      | some o => if o.loft then []
        else match o.kind, o.f2 with
          | 4, _ => match d.readVa b o.idx (64 * o.count) with
            | .ok bs => ((chunksOf 64 o.count bs).filterMap fun x => attItem (ofLe x)).map fun i =>
                (o.dst + i.oRow * (4 * o.dim + 64), i.cands * o.group * (4 * o.dim + 64))
            | .error _ => []
          | 1, some f => fmtVa f o.dst o.outRows
          | _, some f => fmtVa f o.dst o.rows
          | _, none => []
      | none => []
    | _ => d.entryVa b e

/-- The ranges of bay memory that a running command may have written so far: what a command does in one row it has not begun. -/
def Dev.commandDests (d : Dev) (c : Cmd) : List (Nat × Nat) :=
  let part := (d.parts.filter fun p => p.sq == c.sq && p.order == c.order).flatMap fun p =>
    if p.opcode = 0x30 then (p.reduceRanges.filter fun r => r.2.2).map fun r => (r.1, r.2.1)
    else if p.opcode = 0x31 ∨ p.opcode = 0x32 then [(p.dst, p.group.length * p.bytes)] else []
  let chains := (d.chains.filter fun x => x.sq == c.sq && x.order == c.order && x.stores).map fun x => (x.dst, x.bytes)
  let entries := match d.kernel? c.sq with
    | some k => k.entries.flatMap (d.entryDests c.bay)
    | none => []
  let copy := if c.opcode = 0x10 ∧ (d.copies.any fun x => x.sq == c.sq) then
      (match parseCopy (c.at 16 192) with
        | some k => k.dstRanges.filterMap fun r => if r.sp == .va then some (r.a, r.n) else none
        | none => [])
    else []
  (part ++ chains ++ entries ++ copy).filter fun r => r.2 != 0

/-- The bytes that a command may have written become unspecified. -/
def Dev.sarkSpoil (d : Dev) (b : Nat) (rs : List (Nat × Nat)) : Dev := rs.foldl (fun d r => d.scramble b .va r.1 r.2) d

/-- A placement between T1 and the slow tiers that an OBJ_PLACE runs (14 R420): its command waits for the end of Sarking mode. -/
def Dev.slowPlace (d : Dev) (c : Cmd) : Bool :=
  c.opcode == 0x61 && d.objs.any fun o => match o.place with
    | some p => p.sq == c.sq && (p.tier != 1 || o.locs.any fun l => l.tier != 1)
    | none => false

/-- A placement stops where it is (14 R406). -/
def Dev.stopPlace (d : Dev) (q : Nat) : Dev :=
  { d with objs := d.objs.map fun o => match o.place with
      | some p => if p.sq = q then
          { o with place := none, split := decide (p.left.length < p.total) || o.split, dirty := if o.backing = 0 then [] else o.dirty } else o
      | none => o }

/-- A running command ends with a status, and what it has begun leaves the module. -/
def Dev.endCmd (d : Dev) (c : Cmd) (status : Nat) : Dev :=
  match d.parts.find? fun p => p.sq == c.sq && p.order == c.order with
  | some p => d.partFail p status
  | none =>
    if (d.step? c.sq).isSome then d.stepEnd c.sq status
    else
      let d1 := { d with kernels := d.kernels.filter (fun k => k.sq != c.sq), copies := d.copies.filter (fun k => k.sq != c.sq)
                         passes := d.passes.filter fun p => p.sq != c.sq }
      ((d1.freeSlots c.sq).stopPlace c.sq).finish c.sq status 0 (if c.opcode = 0x20 then noOp else 0)

/-- One running command ends with POWER_HOLD; its engines' work is gone. -/
def Dev.sarkCmd (d : Dev) (c : Cmd) : Dev :=
  (if (d.step? c.sq).isSome then d else d.sarkSpoil c.bay (d.commandDests c)).endCmd c stPowerHold

/-- The accepted deferred requests of a bay's sequences, and of its queues, end with POWER_HOLD. -/
def Dev.sarkDeferred (d : Dev) : Dev :=
  let d1 := (upFrom 0 16).foldl (fun d b => (d.bay b).seqs.foldl (fun d s => if s.handle then d
    else s.reqs.foldl (fun d r => d.endReq b s.serial r stPowerHold r.emitted) d) d) d
  let d2 := d1.sqs.foldl (fun d e => e.2.deferred.foldl (fun d c => d.completeDeferred c stPowerHold 0) d) d1
  (upFrom 0 16).foldl (fun d b => (d.dropStale b).reapSeqs b) d2

/-- Enter Sarking mode for a cause of Table 18-5 (R518), or add the cause (R519). `keep`: the start order of a SET_LIMITS that asks for
it. -/
def Dev.sarkEnter (d : Dev) (cause : Nat) (keep : Option Nat := none) : Dev :=
  if d.sarking then d.sb .powerSts 0 (8 + (cause - 1)) true
  else
    let held := d.powerHold
    let ends := d.runningAll.filter fun c => some c.order != keep && !d.slowPlace c
    let d1 := ends.foldl (fun d c => match (smFind d.sqs c.sq).bind (·.run) with
      | some x => if x.order = c.order then d.sarkCmd x else d
      | none => d) d
    let d2 := d1.sarkDeferred
    let d3 := { d2 with
      kernels := []
      copies := []
      passes := []
      steps := []
      eave := []
      loft := []
      loftBad := []
      loftSoft := []
      batten := []
      delivered := []
      bar4 := []
      arr := {} }
    let d4 := ((upFrom 0 32).foldl (fun d k => d.wr .eaveSts k 0) d3 |>.sb .thatchArraySts 0 2 false).sb .thatchArraySts 0 3 false
    let d5 := (d4.sf .powerSts 0 0 2 2).sb .powerSts 0 (8 + (cause - 1)) true
    let d6 := if held then d5.wr .powerHoldLastUs 0 (min ((d.now - d.pow.holdAt) / 1000) 0xFFFFFFFF) else d5
    let d7 := d.bar4.foldl (fun d x => if x.2.2.isSome then d.bar4Fault else d.bar4ReadNow x.1 x.2.1) d6
    d7.record { kind := 0x0060, detail0 := cause }

/-! ## Power hold (R509, R510) -/

/-- POWER_HOLD_ENTER: the input, in mV, lies below 46.0 V. -/
def Dev.powerHoldEnter (d : Dev) (mv : Nat) : Dev :=
  if d.powerState ≠ 0 || !d.pgood || mv ≥ 46000 then d
  else
    let d1 := ((d.sf .powerSts 0 0 2 1).addS .powerHolds 0 1).modPow fun x => { x with holdAt := d.now, resumeAt := none }
    d1.eventAll 0x0020 mv d.now

/-- SUPPLY_RELEASE: the input lies above 47.5 V; the resume count starts or starts again. -/
def Dev.supplyRelease (d : Dev) (mv : Nat) : Dev :=
  if !d.powerHold || mv ≤ 47500 then d else d.modPow fun x => { x with resumeAt := some d.now }

/-- The engines resume after power hold. -/
def Dev.holdEnds (d : Dev) : Dev :=
  let us := min ((d.now - d.pow.holdAt) / 1000) 0xFFFFFFFF
  let d1 := ((d.sf .powerSts 0 0 2 0).wr .powerHoldLastUs 0 us).modPow fun x => { x with resumeAt := none }
  ((d1.eventAll 0x0021 us 0).bar4Go).collRun

/-- Has the resume count of 2 ms ended? -/
def Dev.resumeDue (d : Dev) : Bool := match d.pow.resumeAt with
  | some t => decide (t + 2000000 ≤ d.now)
  | none => false

/-- POWER_HOLD_RESUME: the input has stayed above 47.5 V for 2 ms. -/
def Dev.powerHoldResume (d : Dev) : Dev := if d.powerHold && d.resumeDue then d.holdEnds else d

/-- POWER_HOLD_TIMEOUT: the hold has lasted 500 ms; a resume count that has ended resumes. -/
def Dev.powerHoldTimeout (d : Dev) : Dev :=
  if !d.powerHold || d.now < d.pow.holdAt + 500000000 then d
  else if d.resumeDue then d.holdEnds
  else d.sarkEnter 1

/-! ## The governor (R511, R512) -/

/-- The capacity of the thermal credit, in units of 1 µJ / (2 × SUSTAINED_W): (H − S) × 30 s. -/
def Limits.capacity (l : Limits) : Nat := 60000000 * (l.powerLimit * l.recTherm - l.powerLimit * l.recPower)

/-- APEX_EN (R515). -/
def Dev.apexEn (d : Dev) : Bool := d.rbit .powerLimit 0 16

/-- The apex ceiling, as W × SUSTAINED_W: S at zero credit, with the windows closed by the inlet, and with APEX_EN 0; H once the
electrical window is used; else E. -/
def State.apexNum (s : State) : Nat :=
  let l := s.lim
  let d := s.dev
  if d.rbit .powerSts 0 4 || !d.apexEn || d.pow.inletHot then l.powerLimit * l.recPower
  else if d.pow.elecUsed then l.powerLimit * l.recTherm
  else l.powerLimit * l.recElec

/-- H as W × SUSTAINED_W; S with APEX_EN 0. -/
def State.thermNum (s : State) : Nat := s.lim.powerLimit * (if s.dev.apexEn then s.lim.recTherm else s.lim.recPower)

/-- Power `w` at `mv` exceeds `pct` hundredths of the ceiling: the current limit of 120 A, or the apex ceiling. -/
def State.above (s : State) (mv w pct : Nat) : Bool :=
  decide (w * 1000 * 100 > 120 * mv * pct) || decide (w * s.lim.recPower * 100 > s.apexNum * pct)

/-- The governor runs (the CALIBRATE step, 17 Table 17-3). -/
def Dev.governs (d : Dev) : Bool := d.stepDone 7

/-- GOVERNOR_SAMPLE: input voltage in mV, current in 0.1 A, power in W. The windows are accounted, and the clock goes down one step
where power exceeds the ceiling or the clock its limit; at 500 MHz arithmetic issue is withheld instead. -/
def State.governorSample (s : State) (mv da w : Nat) : State :=
  let l := s.lim
  let d := s.dev
  if !d.governs then s
  else
    let d1 := ((d.wr .powerVin 0 (min mv 0xFFFF)).wr .powerIin 0 (min da 0xFFFF)).wr .powerPin 0 (min w 0xFFFF)
    let high := decide (w * l.recPower > s.thermNum)
    let elec := (d.pow.elec.filter fun t => decide (d.now < t + 100000000)) ++ (if high then [d.now] else [])
    let cap := l.capacity
    let credit := if w > l.powerLimit then d.pow.credit - 20 * l.recPower * (w - l.powerLimit)
      else min cap (d.pow.credit + 5 * (l.powerLimit * l.recTherm - l.powerLimit * l.recPower))
    let d2 := (d1.sb .powerSts 0 3 high).sb .powerSts 0 4 (d.rbit .powerSts 0 4 && decide (credit < cap))
    let d3 := d2.modPow fun x =>
      { x with credit := credit, elec := elec, elecUsed := x.elecUsed && decide (2000 ≤ elec.length), energy := x.energy + 10 * w
               resumeAt := if mv < 47500 then none else x.resumeAt }
    let s3 := s.with l d3
    let tooHigh := s3.above mv w 100 || decide (l.clock > l.clockLimit)
    let since := if s3.above mv w 98 then none else some (d.pow.belowSince.getD d.now)
    if d.sarking then s3
    else if tooHigh && decide (l.clock ≥ 550) then
      s.with { l with clock := l.clock - 50 } (d3.modPow fun x => { x with belowSince := since, withheld := false })
    else s.with l (d3.modPow fun x => { x with belowSince := since, withheld := s3.above mv w 100 })

/-- Has power been below 98 % of the ceiling for 100 µs, since the last raise at the earliest (R511)? -/
def Dev.raiseDue (d : Dev) : Bool := match d.pow.belowSince with
  | some t => decide (t + 100000 ≤ d.now)
  | none => false

/-- GOVERNOR_RAISE: power has been below 98 % of the ceiling for 100 µs, and the clock is below its limit; one step for each 100 µs. -/
def State.governorRaise (s : State) : State :=
  let l := s.lim
  if !s.dev.governs || s.dev.sarking || !s.dev.raiseDue || s.dev.pow.steps ≠ 0 || l.clock ≥ l.clockLimit then s
  else s.with { l with clock := min l.clockLimit (l.clock + 50) } (s.dev.modPow fun x => { x with belowSince := some s.dev.now })

/-- ELEC_WINDOW_USED: 20 ms above H in the trailing 100 ms are used. -/
def Dev.elecWindowUsed (d : Dev) : Dev :=
  let n := (d.pow.elec.filter fun t => decide (d.now < t + 100000000)).length
  if n < 2000 then d else d.modPow fun x => { x with elecUsed := true }

/-- APEX_EXHAUSTED: the thermal credit has reached zero. -/
def State.apexExhausted (s : State) : State :=
  let d := s.dev
  if d.pow.credit ≠ 0 || s.lim.capacity = 0 || d.rbit .powerSts 0 4 then s
  else s.with s.lim (((d.sb .powerSts 0 4 true).addS .powerExhausted 0 1).eventAll 0x0023 s.lim.clock 0)

/-! ## Heat (R513, R514; 16 R480) -/

/-- THERM_ALERT_N follows the last sample: low while a junction reads 95 °C or more or the inlet above 40 °C, and after a trip. -/
def Dev.thermAlert (d : Dev) : Dev :=
  let t := d.rd .powerTemp 0
  d.sb .hostifSideband 0 3 (!(decide (190 ≤ fld t 0 8) || decide (80 < fld t 16 8) || d.pow.tripped))

/-- A thermal trip (R514). -/
def Dev.trip (d : Dev) : Dev := ((d.modPow fun x => { x with tripped := true }).thermAlert).sarkEnter 2

/-- THERMAL_SAMPLE: the hottest junction and stack and the inlet in units of 0.5 °C, and the PLDM number of the hottest sensor. -/
def State.thermalSample (s : State) (junction stack inlet sensor : Nat) : State :=
  let l := s.lim
  let d := s.dev
  if !d.governs then s
  else
    let j := min junction 255
    let k := min stack 255
    let n := min inlet 255
    let d1 := (d.wr .powerTemp 0 (mkFields [(0, 8, j), (8, 8, k), (16, 8, n)])).modPow fun x =>
      { x with inletHot := decide (80 < n) || (x.inletHot && decide (80 ≤ n))
               inletSince := if 90 < n then some (x.inletSince.getD d.now) else none }
    let was := d.rbit .powerSts 0 2
    let hot := decide (190 ≤ j) || decide (180 ≤ k)
    let cool := decide (j < 186) && decide (k < 176)
    let on := hot || (was && !cool)
    let down := hot && decide (550 ≤ l.clock)
    let up := cool && d.pow.steps != 0
    let clock := if d.sarking then l.clock else if down then l.clock - 50 else if up then min (max l.clockLimit l.clock) (l.clock + 50) else l.clock
    let steps := if d.sarking then 0 else if down then d.pow.steps + 1 else if up then d.pow.steps - 1 else d.pow.steps
    let d2 := (d1.sb .powerSts 0 2 on).modPow fun x => { x with steps := steps }
    let d3 := if on = was then d2 else d2.eventAll 0x0022 (mkFields [(0, 1, if on then 1 else 0), (8, 8, sensor)]) clock
    let d4 := d3.thermAlert
    s.with { l with clock := clock } (if j ≥ 210 || k ≥ 200 then d4.trip else d4)

/-- INLET_TRIP_TIMER: the coolant inlet has stayed above 45 °C for 10 s. -/
def Dev.inletTripTimer (d : Dev) : Dev := match d.pow.inletSince with
  | some t => if d.governs && decide (t + 10000000000 ≤ d.now) then d.trip else d
  | none => d

/-- TRIP_CLEAR: POWER_TRIP_CTRL.CLEAR is written; ignored while a sensor is too hot. -/
def Dev.tripClear (d : Dev) (v : Nat) : Dev :=
  let t := d.rd .powerTemp 0
  if !bitAt v 0 || fld t 0 8 ≥ 170 || fld t 8 8 ≥ 160 || fld t 16 8 > 80 then d
  else (d.modPow fun x => { x with tripped := false }).thermAlert

/-! ## SET_LIMITS (R515, R519) -/

/-- SET_LIMITS that runs with an OP: `ok` says which. -/
def State.limitsCmd (s : State) (q : Nat) (ok : Nat → Bool) (f : Cmd → State) : State :=
  match s.dev.running? q 0x82 with
  | none => s
  | some c => if ok (c.bits 16 0 2) then f c else s

/-- SET_LIMITS completes: its result is the clock limit in force. -/
def State.limitsEnd (s : State) (q status : Nat) : State := s.with s.lim (s.dev.finish q status s.lim.clockLimit)

/-- Set the clock and power limits (R3, R515): the thermal credit stays the same fraction of its capacity. -/
def State.setPower (s : State) (clock power : Nat) : State :=
  let l := { s.lim with clockLimit := min clock s.lim.recClock, powerLimit := min power s.lim.recPower }
  let credit := if s.lim.capacity = 0 then l.capacity else s.dev.pow.credit * l.capacity / s.lim.capacity
  s.with l (s.dev.modPow fun x => { x with credit := credit })

/-- SET_LIMITS with OP SET; OP 3 is reserved. -/
def State.setLimits (s : State) (q : Nat) : State :=
  s.limitsCmd q (fun op => op == 0 || op == 3) fun c =>
    let clock := if c.at 20 2 = 0 then s.lim.recClock else c.at 20 2
    let power := if c.at 22 2 = 0 then s.lim.recPower else c.at 22 2
    let ok := c.bits 16 0 2 == 0 && c.only 1 [(16, 0, 3), (20, 0, 32)] && clock % 50 == 0 && inRange 500 s.lim.recClock clock
      && inRange 1600 s.lim.recPower power
    if !ok then s.limitsEnd q stBadParam
    else
      let s1 := s.setPower clock power
      (s1.with s1.lim (s1.dev.sb .powerLimit 0 16 (c.bits 16 2 1 == 1))).limitsEnd q stOk

/-- SET_LIMITS with OP SARKING_ENTER. -/
def State.sarkingEnter (s : State) (q : Nat) : State :=
  s.limitsCmd q (· == 1) fun c =>
    if !c.only 1 [(16, 0, 2)] then s.limitsEnd q stBadParam
    else (s.with s.lim (s.dev.sarkEnter 4 (some c.order))).limitsEnd q stOk

/-- Does every recorded cause allow the exit (Table 18-5)? -/
def Dev.exitAllowed (d : Dev) : Bool :=
  let cause (c : Nat) : Bool := d.rbit .powerSts 0 (8 + (c - 1))
  (!cause 1 || decide (47500 < d.rd .powerVin 0)) && (!cause 2 || !d.pow.tripped) && !cause 3 && !cause 5 && !cause 6

/-- Sarking mode is left (R519): the Loft is zeroed, the array is JOINED (SPLIT before OPEN, 04 R114), the clock is at its limit and the credit full. Placements that
waited end with POWER_HOLD (14 R420). -/
def State.sarkExit (s : State) : State :=
  let d := s.dev
  let cfg := if d.ready then 1 else 2
  let d1 := { d with loft := [], loftBad := [], loftSoft := [], arr := {} }
  let d2 := (((d1.sf .thatchArraySts 0 0 4 cfg).setEngines cfg).wr .powerSts 0 (setFld (d.rd .powerSts 0) 8 6 0)).sf .powerSts 0 0 2 0
  let d3 := (d2.sb .powerSts 0 4 false).modPow fun x => { x with credit := s.lim.capacity, steps := 0, withheld := false }
  let d4 := (d3.runningAll.filter d3.slowPlace).foldl (fun d c => (d.stopPlace c.sq).finish c.sq stPowerHold 0) d3
  s.with { s.lim with clock := s.lim.clockLimit } d4.collRun

/-- SET_LIMITS with OP SARKING_EXIT. -/
def State.sarkingExit (s : State) (q : Nat) : State :=
  s.limitsCmd q (· == 2) fun c =>
    if !c.only 1 [(16, 0, 2)] || !s.dev.sarking then s.limitsEnd q stBadParam
    else if !s.dev.exitAllowed then s.limitsEnd q stBusy
    else s.sarkExit.limitsEnd q stOk

/-! ## The end of an array configuration switch (04 R110 to R112) -/

/-- ARRAY_SWITCH_END: the path check passes, or fails on a die. The configuration is in force and operations are admitted; a target that
a TURN holds becomes a request; TURNs that waited complete (R111). -/
def Dev.arraySwitchEnd (d : Dev) (failed : Option Nat) : Dev :=
  if !d.rbit .thatchArraySts 0 3 || d.powerHold || d.held || d.sarking then d
  else
    let d1 := d.sb .thatchArraySts 0 3 false
    match failed with
    | some die =>
      let e := if d.arr.target = 1 then 0 else if die < 4 then 1 else 2
      ({ d1 with arr := {} }.record { kind := 0x0012, unit := unitId die 0 0, detail0 := e }).sarkEnter 6
    | none =>
      let t := d.arr.target
      let d2 := ((d1.sf .thatchArraySts 0 0 2 t).setEngines t).wr .thatchSwitchTime 0 d.now
      let d3 := (d2.addS .thatchSwitchCount 0 1).wr .thatchSwitchNs 0 (min (d.now - d.arr.since) 0xFFFFFFFF)
      let d4 := { d3 with arr := {} }
      let d5 := match d.arr.held with
        | some x => d4.arrayRequest x true
        | none => d4
      d5.turnsResume

end Sys2Proof.Machine
end

