-- ==== Sys2Proof/Machine/Bring.lean ====
section
/-!
DEFINITION. Machine/Bring.lean: bring-up step by step, its failures, the flashing map, early service and opening, live reload and FW_COMMIT
(17), with the identity that IDENTIFY checks (16 R473 to R475) and the stripe set (16 R467).
Where the spec is silent or is read by inference: DESIGN CHOICE logs 11, 62, 63, 64 (notes/assumptions).
-/
namespace Sys2Proof.Machine

/-- Change the bring-up state. -/
def Dev.modBring (d : Dev) (f : BringSt → BringSt) : Dev := { d with bring := f d.bring }

/-! ## Steps: start, end and failure (R488, R490) -/

/-- The steps that a step requires (Table 17-3); 1 requires the link. -/
def stepNeeds (c : Nat) : List Nat :=
  match c with
  | 2 => [1] | 3 => [2] | 4 => [3] | 5 => [4] | 6 => [5] | 7 => [4] | 8 => [5, 7] | 9 => [8] | 10 => [8] | 11 => [7]
  | 12 => [1, 2, 3, 4, 5, 6, 7, 8, 9, 10, 11]
  | _ => []

/-- Is step `c` running? 13 is RELOAD. -/
def Dev.stepRuns (d : Dev) (c : Nat) : Bool := d.rbit .bringStepRun 0 c

/-- Is a failure pending, and which step failed? -/
def Dev.failed (d : Dev) : Bool := d.rbit .bringSts 0 2
def Dev.failStep (d : Dev) : Nat := d.fd .bringSts 0 8 8

/-- May step `c` start now? -/
def Dev.stepMayStart (d : Dev) (c : Nat) : Bool :=
  inRange 1 12 c && !d.ready && (!d.failed || (d.rbit .bringSts 0 5 && d.failStep == c)) && (stepNeeds c).all d.stepDone
  && (c != 1 || d.rbit .hostifLinkSts 0 9) && (if c = 11 then !d.stepRuns 12 else !d.stepDone c && !d.stepRuns c)

/-- Is the code of a failure one that a retry may mend (Table 17-4)? -/
def retryable (code : Nat) : Bool := [0x01, 0x40, 0x60, 0x70, 0xB0].contains code

/-- The duration of a step that ends, in µs; Purlin time does not run during LOAD_GABLE, and the spec gives it no other clock. -/
def Dev.lastUs (d : Dev) (c : Nat) : Nat :=
  if c = 1 then Config.freeNat d.free % 2 ^ 32 else min ((d.now - smGet 0 d.bring.started c) / 1000) 0xFFFFFFFF

/-- A step starts. -/
def Dev.stepBegin (d : Dev) (c : Nat) : Dev := (d.sb .bringStepRun 0 c true).modBring fun x => { x with started := smPut x.started c d.now }

/-- A step ends FAILED. A failure that no retry mends stays pending whatever fails after it. -/
def Dev.stepFail (d : Dev) (c code : Nat) : Dev :=
  let d1 := ((d.wr .bringLastUs 0 (d.lastUs c)).sb .bringStepRun 0 c false).tick
  let d2 := if d.failed && !d.rbit .bringSts 0 5 then d1
    else ((((d1.sb .bringSts 0 2 true).sb .bringSts 0 5 (retryable code)).sf .bringSts 0 8 8 c).sf .bringSts 0 16 8 code)
  if d.stepDone 1 then d2.record { kind := 0x0061, detail0 := c + 256 * code } else d2

/-- A step becomes DONE; the retry of a failed one clears the failure. -/
def Dev.stepEnds (d : Dev) (c : Nat) : Dev :=
  let d1 := (((d.wr .bringLastUs 0 (d.lastUs c)).sb .bringStepRun 0 c false).sb .bringStepDone 0 c true).tick
  if d.failed && d.failStep == c then ((d1.sb .bringSts 0 2 false).sb .bringSts 0 5 false).sf .bringSts 0 8 16 0 else d1

/-- All ready flags are set. -/
def Dev.allReady (d : Dev) : Bool := d.rd .bringStacksReady 0 == 0xFFFFFFFF

/-- The last moment, in Purlin time, at which a running step is within its bound (Table 17-3); `none` where none has begun to run. -/
def Dev.stepBound (d : Dev) (c : Nat) : Option Nat :=
  let t := smGet 0 d.bring.started c
  match c with
  | 2 => some (t + 50000000) | 3 => some (t + 2000000000) | 4 => some (t + 100000000) | 5 => some (t + 500000000) | 6 => some (t + 60000000)
  | 7 => some (t + 200000000)
  | 8 => if d.allReady then some (max t (smGet 0 d.bring.started 14) + 20000000) else none
  | 9 => some (t + 1000000 * (d.fd .bringFabricWaitMs 0 0 16 + 10))
  | 10 => some (t + 12000000000) | 11 => some (t + 1000000) | 12 => some (t + 10000000)
  | _ => none

/-- Has a running step exceeded its bound? -/
def Dev.stepLate (d : Dev) (c : Nat) : Bool := match d.stepBound c with | some t => decide (t < d.now) | none => false

/-! ## LOAD_GABLE and reload: the image -/

/-- What is kept of an image in the window. -/
def Dev.taken (d : Dev) (m : Image) : TakenImage := ⟨m.level, m.floor, m.build, d.imageHash m, d.pegHash m⟩

/-- The eight bytes from byte `8 i` of a 32-byte big-endian number, as a register holds them. -/
def be8 (n i : Nat) : Nat := ofLe (((toLe 32 n).reverse.drop (8 * i)).take 8)

/-- The running image as the registers of GD0 show it (R507), with the module's LEVEL and FLOOR. -/
def Dev.showImage (d : Dev) (m : TakenImage) (floor : Nat) : Dev :=
  let d1 := (upFrom 0 4).foldl (fun d i => d.wr .gableImageHash i (be8 m.hash i)) d
  (d1.wr .gableImageBuild 0 m.build).wr .reedlineLevel 0 (mkFields [(0, 16, m.level), (16, 16, floor)])

/-- LOAD_GABLE starts: the staged image is validated. -/
def Dev.loadStart (d : Dev) : Dev :=
  match d.validate with
  | (d1, none) => d1.stepFail 1 0x01
  | (d1, some m) => d1.modBring fun x => { x with image := some (d1.taken m) }

/-- LOAD_GABLE is done: Purlin time starts at 0 in state FREE; a GD1 that does not start is out of service (R491). -/
def Dev.loadDone (d : Dev) (w : StepWork) : Dev :=
  match d.bring.image with
  | none => d
  | some m =>
    let d1 := ({ d with now := 0 }.showImage m m.floor).wr .bringPegDone 0 (if w.gd1 then 0xC0000 else 0x40000)
    let d2 := ((d1.wr .gableSts 0 3).wr .gableSpare 0 w.spare0).modBring fun x => { x with gd1Out := !w.gd1 }
    if w.gd1 then (d2.wr .gableSts 1 3).wr .gableSpare 1 w.spare1 else d2.wr .queueGableSts 0 (mkFields [(0, 1, 1), (2, 2, 1)])

/-! ## IDENTIFY (16 R473 to R475; R489) -/

/-- Bytes of the identity EEPROM. -/
def eepromBytes (off n : Nat) : List Byte := (upFrom off n).map Config.eeprom

/-- The certificate chain, the root hash and the variant record (Table 16-9). -/
def chainBytes : Nat := ofLe (eepromBytes 4 4)
def chain : List Byte := eepromBytes 0x140 (min chainBytes 48832)
def rootHash : Nat := beWord (eepromBytes 8 32)
def variantRecord : Nat := ofLe (eepromBytes 0x40 256)

/-- Does the variant record meet R474 and R489? -/
def recordOk : Bool :=
  let r := variantRecord
  bytesAt r 0 2 == 0x2032 && bytesAt r 3 1 == 0 && bytesAt r 12 4 == 0 && bytesAt r 24 168 == 0
  && [(1, 1500, 4800), (2, 1300, 4000), (3, 1100, 3200)].contains (bytesAt r 2 1, bytesAt r 4 2, bytesAt r 6 2)
  && Config.recordVerifies chain (sha256 (eepromBytes 0x40 192)) (eepromBytes 0x100 64)

/-- Why IDENTIFY fails: 0x10 KEY_MISMATCH, 0x11 CHAIN_BAD, 0x12 RECORD_BAD. -/
def identifyFails : Option Nat :=
  if Config.chainKey chain ≠ Config.pufKey then some 0x10
  else if chainBytes > 48832 || ofLe (eepromBytes 0 4) ≠ 1 || !Config.chainVerifies chain rootHash
    || Config.chainSerial chain ≠ bytesAt variantRecord 16 8 then some 0x11
  else if !recordOk then some 0x12
  else none

/-- IDENTIFY is done: the record's limits are applied and IDENT shows the record and the key. -/
def State.identified (s : State) : State :=
  let r := variantRecord
  let mhz := bytesAt r 4 2
  let w := bytesAt r 6 2
  let l : Limits :=
    { recClock := mhz, recPower := w, recElec := bytesAt r 8 2, recTherm := bytesAt r 10 2, clockLimit := mhz, powerLimit := w, clock := mhz }
  let d := s.dev
  let d1 := ((((d.sf .identPart 0 16 4 (bytesAt r 2 1)).wr .identSerial 0 (bytesAt r 16 8)).wr .identClock 0 mhz).wr .identPower 0 w).wr .identSts 0 7
  let d2 := (upFrom 0 4).foldl (fun d i => (d.wr .identPubkeyX i (be8 Config.pufKey.1 i)).wr .identPubkeyY i (be8 Config.pufKey.2 i)) d1
  s.with l ((d2.sb .fasciaSpdmSts 0 0 true).modBring fun x => { x with recHash := sha256 (eepromBytes 0x40 256) })

/-! ## DIE_TEST and FLASHING (R492, R493; 01 R23, R24) -/

/-- Put a number into an ascending list without repeats. -/
def insertNat (n : Nat) : List Nat → List Nat
  | [] => [n]
  | m :: r => if n < m then n :: m :: r else if n = m then m :: r else m :: insertNat n r

/-- DIE_TEST is done with the defects that it found: in ascending order, PHYSICAL 1; nothing of a GD1 out of service. -/
def Dev.dieTestDone (d : Dev) (found : List Nat) : Dev :=
  let us := (found.map fun u => setFld u 12 1 1).foldl (fun l u => insertNat u l) []
  let us := us.filter fun u => !(d.bring.gd1Out && fld u 0 8 == 0x13)
  if us.length > 4096 || us.any (fun u => fld u 8 4 == 0) then d.stepFail 3 0x20
  else ((d.modBring fun x => { x with defects := us.map fun u => (u, false) }).wr .bringDefects 0 us.length).stepEnds 3

/-- The factory defect record: `none` when its CRC does not match (Table 16-9, R493). -/
def factoryRecord : Option (List Nat) :=
  let n := ofLe (eepromBytes 0xC000 4)
  let bs := eepromBytes 0xC010 (4 * n)
  if n ≤ 4092 && crc64 bs == ofLe (eepromBytes 0xC008 8) then some ((upFrom 0 n).map fun i => ofLe (eepromBytes (0xC010 + 4 * i) 4)) else none

/-- The unit classes of a site that have spares or must have no defect, each with its logical and physical counts (Table 1-4). -/
def siteClasses (site : Nat) : List (Nat × Nat × Nat) :=
  if site < 12 then [(1, 256, 272), (8, 1, 1), (3, 64, 66)]
  else if site < 16 then [(2, 48, 50), (4, 16, 17), (3, 48, 50)]
  else if site < 18 then [(3, 32, 33)]
  else if site < 20 then [(3, 64, 66)]
  else if inRange 0x20 0x3F site then [(3, 16, 17)]
  else []

/-- Every site. -/
def sites : List Nat := upFrom 0 20 ++ upFrom 0x20 32

/-- The defective physical units of a class on a site, ascending. -/
def defectsOf (us : List Nat) (site cls : Nat) : List Nat :=
  (us.filter fun u => fld u 0 8 == site && fld u 8 4 == cls).map fun u => fld u 16 12

/-- The spares in use, each as (spare, logical unit it serves): each defective primary, ascending, by the lowest good spare left (R493). -/
def sparesOf (bad : List Nat) (l p : Nat) : List (Nat × Nat) :=
  (((upFrom l (p - l)).filter fun x => !bad.contains x).map (· - l)).zip (bad.filter (· < l))

/-- The spare map word of two spares: logical unit and valid bit of each. -/
def spareWord (m : List (Nat × Nat)) (i : Nat) : Nat :=
  let part (j sh : Nat) : Nat := match m.find? fun e => e.1 == j with
    | some e => (e.2 + 2 ^ 15) * 2 ^ sh
    | none => 0
  part (2 * i) 0 + part (2 * i + 1) 16

/-- The word of a single spare: logical unit, and a valid bit at `v`. -/
def oneSpare (m : List (Nat × Nat)) (v : Nat) : Nat := match m with | e :: _ => e.2 + 2 ^ v | [] => 0

/-- The registers that show the flashing map of a site. -/
def Dev.showSpares (d : Dev) (us : List Nat) (site : Nat) : Dev :=
  let use (cls l p : Nat) : List (Nat × Nat) := sparesOf (defectsOf us site cls) l p
  if site < 12 then
    let m := use 1 256 272
    (upFrom 0 8).foldl (fun d i => d.wr .thatchSpareMap (8 * site + i) (spareWord m i)) (d.wr .thatchDieSpare site m.length)
  else if site < 16 then (d.wr .lathDieSpare (site - 12) (use 2 48 50).length).wr .lathSpareMap (site - 12) (spareWord (use 2 48 50) 0)
  else if site < 18 then d.wr .fasciaSpare (site - 16) (oneSpare (use 3 32 33) 5)
  else if site < 20 then d
  else d.wr .eavePegSpare (site - 0x20) (oneSpare (use 3 16 17) 4)

/-- FLASHING: the map of what DIE_TEST and the factory record name. -/
def Dev.flashing (d : Dev) : Dev :=
  let rec? := factoryRecord
  let fac := (rec?.getD []).map fun u => setFld u 12 1 1
  let found := d.bring.defects.map (·.1)
  let us := (found ++ fac).foldl (fun l u => insertNat u l) []
  let us := us.filter fun u => !(d.bring.gd1Out && fld u 0 8 == 0x13)
  let new := if rec?.isSome then found.filter fun u => !fac.contains u else []
  let d1 := (d.modBring fun x => { x with defects := x.defects.map fun e => (e.1, new.contains e.1) }).wr .bringFactorySts 0
    (mkFields [(0, 1, if rec?.isSome then 1 else 0), (4, 12, fac.length)])
  let d2 := new.foldl (fun d u => d.record { kind := 0x0020, unit := u }) (d1.sf .bringDefects 0 16 16 new.length)
  let full := sites.any fun s => (siteClasses s).any fun c => decide (c.2.2 - c.2.1 < (defectsOf us s c.1).length)
  if full then d2.stepFail 4 0x30
  else
    let flash := sites.flatMap fun s => (siteClasses s).flatMap fun c => (sparesOf (defectsOf us s c.1) c.2.1 c.2.2).map fun e =>
      (unitId s c.1 e.2, setFld (unitId s c.1 (c.2.1 + e.1)) 12 1 1)
    sites.foldl (fun d s => d.showSpares us s) (d2.modBring fun x => { x with flash := flash.foldl (fun m e => smPut m e.1 e.2) [] })

/-! ## Memory, microcode and early service (R494 to R496) -/

/-- EARLY sets with four ready flags and a Lath die that has its microcode. -/
def Dev.earlyCheck (d : Dev) : Dev :=
  if !d.ready && decide (4 ≤ popCount 32 (d.rd .bringStacksReady 0)) && fld (d.rd .bringPegDone 0) 12 4 != 0 then d.sb .bringSts 0 1 true else d

/-- MEM_TRAIN is done: the spare lanes in use on each stack's channels, two bits each. -/
def Dev.trainDone (d : Dev) (lanes : List Nat) : Dev :=
  if lanes.any fun n => (upFrom 0 32).any fun c => fld n (2 * c) 2 == 3 then d.stepFail 5 0x40
  else ((upFrom 0 32).foldl (fun d k => d.wr .eaveLaneSpares k (lanes.getD k 0)) (d.wr .bringStacksTrained 0 0xFFFFFFFF)).stepEnds 5

/-- STACK_READY: the fill of stack `k` ends, and its ready flag sets. -/
def Dev.stackReady (d : Dev) (k : Nat) : Dev :=
  if k ≥ 32 || !d.stepRuns 6 || d.rbit .bringStacksReady 0 k then d
  else
    let d1 := { d with hbm := clearRange d.hbm (k * 2 ^ 36) (2 ^ 36), hbmBad := d.hbmBad.filter fun e => e.1 / 2 ^ 30 != k }.sb .bringStacksReady 0 k true
    (if d1.allReady then d1.modBring fun x => { x with started := smPut x.started 14 d.now } else d1).earlyCheck

/-- PEG_ACK: a site (or the base die of a stack, once its ready flag is set) has acknowledged its microcode. -/
def Dev.pegAck (d : Dev) (stack : Bool) (n : Nat) : Dev :=
  if !d.stepRuns 8 then d
  else if stack then (if n < 32 && d.rbit .bringStacksReady 0 n then d.sb .bringPegStacks 0 n true else d)
  else if n < 18 then (d.sb .bringPegDone 0 n true).earlyCheck
  else d

/-- Every site has its microcode; GD1 may be out of service (R491). -/
def Dev.pegsDone (d : Dev) : Bool := fld (d.rd .bringPegDone 0) 0 18 == 2 ^ 18 - 1 && d.rd .bringPegStacks 0 == 0xFFFFFFFF

/-! ## Ports (R488; 15 R424, R432; 16 R465, R467) -/

/-- A new INCARNATION, which the spec asks only to be new. -/
def Dev.newIncarnation (d : Dev) : Dev := (d.wr .reedlineIncarnation 0 (Config.freeNat d.free % (2 ^ 32 - 1) + 1)).tick

/-- The enabled Reedline ports train. -/
def Dev.trainPorts (d : Dev) : Dev :=
  (upFrom 0 18).foldl (fun d p => if d.rbit .reedlinePortCtrl p 0 && d.portState p == 0 then d.sf .reedlinePortSts p 0 2 1 else d) d

/-- Every enabled Reedline port is UP or REFUSED, or the wait has passed. -/
def Dev.fabricOver (d : Dev) : Bool :=
  ((upFrom 0 18).all fun p => !d.rbit .reedlinePortCtrl p 0 || decide (2 ≤ d.portState p))
  || decide (smGet 0 d.bring.started 9 + 1000000 * d.fd .bringFabricWaitMs 0 0 16 ≤ d.now)

/-- Every enabled Ethernet port has link, or they have tried for 2 s. -/
def Dev.ethOver (d : Dev) : Bool :=
  ((upFrom 0 4).all fun e => !d.rbit .ethPortCtrl e 0 || d.rbit .ethPortSts e 0) || decide (smGet 0 d.bring.started 10 + 2000000000 ≤ d.now)

/-- ETHERNET starts: the enabled NVMe root ports train. -/
def Dev.nvmeTrain (d : Dev) : Dev :=
  (upFrom 0 4).foldl (fun d p => if d.rbit .nvmePortCtrl p 0 then d.sf .nvmePortSts p 0 2 1 else d) d

/-- Does an SSD join the stripe set (R467)? -/
def ssdJoins (x : SsdInfo) : Bool :=
  x.state == 2 && x.inTime && x.lba && (x.mdts == 0 || decide (65536 ≤ x.mdts)) && decide (16 ≤ x.pairs) && decide (256 ≤ x.entries)

/-- What bring-up found on a root port. -/
def Dev.nvmeFound (d : Dev) (p : Nat) (x : SsdInfo) : Dev :=
  if !d.rbit .nvmePortCtrl p 0 then d
  else
    let st := if x.state = 2 ∨ x.state = 3 then x.state else 0
    let d1 := d.wr .nvmePortSts p (mkFields [(0, 2, st), (2, 3, x.speed), (5, 4, x.width), (9, 1, if ssdJoins x then 1 else 0)])
    if st = 0 then d1
    else
      let d2 := ((d1.wr .nvmeSsdId p (x.vid % 65536 + 65536 * (x.did % 65536))).wr .nvmeNsBytes p x.bytes).wr .nvmeMdtsBytes p x.mdts
      if ssdJoins x then d2.wr .nvmeQueues p (mkFields [(0, 7, min 64 x.pairs), (7, 11, min 1024 x.entries)]) else d2

/-- The stripe set forms (R467). -/
def Dev.stripeSet (d : Dev) (ssds : List SsdInfo) : Dev :=
  let all := (upFrom 0 4).zip ssds
  let d1 := all.foldl (fun d e => d.nvmeFound e.1 e.2) d
  let ms := all.filter fun e => d.rbit .nvmePortCtrl e.1 0 && ssdJoins e.2
  let n := ms.length
  let mib := 2 ^ 20
  let least := ms.foldl (fun m e => min m e.2.bytes) (if n = 0 then 0 else 2 ^ 64)
  (d1.wr .tierT4Ssds 0 (mkFields ((ms.map fun e => (e.1, 1, 1)) ++ [(4, 3, n)]))).wr .tierT4Limit 0 (n * (least / mib) * mib)

/-! ## LIMITS and OPEN (R489, R497) -/

/-- LIMITS: the host's caps. -/
def State.limitsStep (s : State) : State :=
  let d := s.dev
  let mhz := d.fd .bringLimitMhz 0 0 16
  let w := d.fd .bringLimitW 0 0 16
  if (mhz ≠ 0 && decide (mhz < 500)) || (w ≠ 0 && decide (w < 1600)) then s.with s.lim (d.stepFail 11 0xB0)
  else
    let s1 := s.setPower (min s.lim.recClock (if mhz = 0 then s.lim.recClock else mhz) / 50 * 50) (if w = 0 then s.lim.recPower else w)
    s1.with { s1.lim with clock := s1.lim.clockLimit } s1.dev

/-- READY sets: bay 0 has every resource, the clock is at its limit, and RWL fields are locked by READY itself. -/
def State.opened (s : State) : State :=
  let d := s.dev
  let q := [(Reg.bayQuotaT1, d.capacity 1), (.bayQuotaT2, 2 ^ 64 - 1), (.bayQuotaT3, d.capacity 3), (.bayQuotaT4, d.capacity 4), (.baySqBase, 0)
    , (.baySqCount, 262144), (.bayCqBase, 0), (.bayCqCount, 65536), (.bayServeLimit, 262144), (.bayPrefixLimit, 65536), (.pfstatGrant, wholeGrant), (.bayId, 0x70)]
  let d1 := q.foldl (fun d e => d.wr e.1 0 e.2) (d.stepEnds 12)
  s.with { s.lim with clock := s.lim.clockLimit } (((d1.sb .bringSts 0 0 true).sb .bringSts 0 1 false).sb .fasciaJtagSts 0 0 true)

/-- ARRAY_SWITCH_END: with the switch that OPEN asked for, OPEN goes on. -/
def State.arraySwitchEnd (s : State) (failed : Option Nat) : State :=
  let s1 := s.with s.lim (s.dev.arraySwitchEnd failed)
  let d := s1.dev
  if !d.stepRuns 12 || d.rbit .thatchArraySts 0 2 || d.rbit .thatchArraySts 0 3 || d.fd .thatchArraySts 0 0 2 ≠ 1 || d.sarking then s1
  else if d.stepLate 12 then s1.with s.lim (d.stepFail 12 0xF0)
  else s1.opened

/-! ## Live reload (R500 to R503) -/

/-- Commands that wait on others and end when a reload is taken (Table 17-8). -/
def reloadEnds (op : Nat) : Bool := [0x02, 0x03, 0x30, 0x31, 0x32, 0x33, 0x40, 0x42, 0x70, 0x71, 0xB1].contains op

/-- Nothing runs, and the completion entries that have room are written. -/
def Dev.quiet (d : Dev) : Bool :=
  d.runningAll.isEmpty && d.cqs.all fun e => e.2.st != 1 || (match e.2.waiting with
    | [] => true
    | w :: _ => decide (e.2.unread + (if w.ext then 2 else 1) > e.2.size - 1))

/-- The stacks enter self-refresh once nothing runs; Loft contents are lost. -/
def Dev.reloadSleep (d : Dev) : Dev :=
  if d.reloading && d.stepRuns 13 && !d.refreshing && d.quiet then
    { d with loft := [], loftBad := [], loftSoft := [], lath := [] }.modBring fun x => { x with selfRefresh := some d.now }
  else d

/-- A running STEP ends after its current step. -/
def Dev.stepStops (d : Dev) (c : Cmd) : Dev :=
  if c.opcode ≠ 0x21 then d
  else if (d.step? c.sq).any fun r => r.sheaf != 0 then d.modStep c.sq fun x => { x with left := 0 }
  else if (d.step? c.sq).isSome then d.stepEnd c.sq stOk
  else d.finish c.sq stOk 0

/-- A running command meets a reload. -/
def Dev.reloadCmd (d : Dev) (c : Cmd) : Dev := if reloadEnds c.opcode then d.endCmd c stAborted else d.stepStops c

/-- The running commands, one by one: each that still runs when its turn comes. -/
def Dev.eachRunning (d : Dev) (f : Dev → Cmd → Dev) : Dev :=
  d.runningAll.foldl (fun d c => match (smFind d.sqs c.sq).bind (·.run) with
    | some x => if x.order = c.order then f d x else d
    | none => d) d

/-- RELOAD, or `none` where it is refused: the staged image is validated as it is used. -/
def Dev.reload (d : Dev) : Dev × Bool :=
  if !d.ready || d.stepRuns 13 then (d, false)
  else match d.validate with
    | (d1, none) => (d1, false)
    | (d1, some m) =>
      if m.level < d.fd .reedlineLevel 0 16 16 || m.level > d.fd .reedlineLevel 0 0 16 + 1 then (d1, false)
      else
        let d2 := ((d1.sb .bringSts 0 4 true).stepBegin 13).modBring fun x => { x with image := some (d1.taken m) }
        ((d2.eachRunning Dev.reloadCmd).reloadSleep, true)

/-- A reload leaves the fabric as a new boot of this module does: links train again, peers are heard anew, connections fail. -/
def Dev.reloadFabric (d : Dev) : Dev :=
  let d1 := (upFrom 0 18).foldl (fun d p => if d.portState p = 0 then d else d.takeDown p) d
  let d2 := d1.modFab fun x =>
    { x with peers := x.peers.map fun p => { p with st := 0, direct := false }, frames := [], txSeq := [], rxSeq := [], gone := [] }
  let hs := (d2.fab.conns.filter fun e => e.2.st == 1 || e.2.st == 2).map (·.1)
  let d3 := hs.foldl (fun d h => (d.setConn h { d.conn h with st := 3 }).connLost h) d2
  let st := d3.fd .purlinSts 0 0 2
  let d4 := if !d3.rbit .purlinCtrl 0 0 && (st == 1 || st == 2) then d3.sf .purlinSts 0 0 2 3 else d3
  d4.newIncarnation

/-- RELOAD_END: the stacks have trained again within 8 s, and the queues resume; FABRIC runs, then ETHERNET. -/
def Dev.reloadEnd (d : Dev) : Dev :=
  match d.bring.selfRefresh, d.bring.image with
  | some t, some m =>
    if !d.stepRuns 13 || t + 8000000000 < d.now then d
    else
      let d1 := ((d.showImage m (max m.floor (d.fd .reedlineLevel 0 16 16))).sb .bringSts 0 4 false).sb .bringStepRun 0 13 false
      let d2 := ((d1.wr .bringLastUs 0 (d.lastUs 13)).addS .bringReloads 0 1).wr .bringReloadSrUs 0 (min ((d.now - t) / 1000) 0xFFFFFFFF)
      let d3 := (d2.modBring fun x => { x with selfRefresh := none, pegHash := m.pegHash }).reloadFabric
      (((((d3.sb .bringStepDone 0 9 false).sb .bringStepDone 0 10 false).stepBegin 9).trainPorts).collRun)
  | _, _ => d

/-- RELOAD_TIMEOUT: an order of the reload fails, or the self-refresh has lasted over 8 s; the HBM contents are lost. -/
def Dev.reloadTimeout (d : Dev) (bad : Bool) : Dev :=
  match d.bring.selfRefresh with
  | some t =>
    if !d.stepRuns 13 || (!bad && decide (d.now ≤ t + 8000000000)) then d
    else
      let d1 := { d with hbm := [], hbmBad := [] }.modBring fun x => { x with selfRefresh := none }
      let d2 := ((d1.sb .bringSts 0 0 false).sb .bringSts 0 4 false).sb .fasciaJtagSts 0 0 false
      ((d2.sb .bringSts 0 2 false).sb .bringSts 0 5 false).stepFail 13 0xF0
  | none => d

/-! ## The rows -/

/-- A write of step code `c` to BRING_CMD.STEP (R488, R498): the step starts, or the write is rejected. -/
def State.bringCmd (s : State) (c : Nat) : State :=
  let d := s.dev
  let rejected (d : Dev) : State := s.with s.lim (d.sb .bringSts 0 3 true)
  if c = 13 then (match d.reload with
    | (d1, true) => s.with s.lim d1
    | (d1, false) => rejected d1)
  else if !d.stepMayStart c then rejected d
  else
    let d1 := d.stepBegin c
    let onDev (d : Dev) : State := s.with s.lim d
    match c with
    | 1 => onDev d1.loadStart
    | 2 => onDev (match identifyFails with | some e => d1.stepFail 2 e | none => d1)
    | 4 => onDev d1.flashing
    | 6 => onDev { d1 with loft := [], loftBad := [], loftSoft := [] }
    | 9 => onDev d1.newIncarnation.trainPorts
    | 10 => onDev d1.nvmeTrain
    | 11 => (onDev d1).limitsStep
    | 12 => onDev (d1.arrayRequest 1 true)
    | _ => onDev d1

/-- BRING_STEP_DONE: the work of a running step is over, with what it found; one that is late fails instead. OPEN ends with its switch. -/
def State.bringStepDone (s : State) (c : Nat) (w : StepWork) : State :=
  let d := s.dev
  let onDev (d : Dev) : State := s.with s.lim d
  if c > 11 || !d.stepRuns c then s
  else if d.stepLate c then onDev (d.stepFail c 0xF0)
  else match c with
    | 1 => onDev ((d.loadDone w).stepEnds 1)
    | 2 => let s1 := s.identified; s1.with s1.lim (s1.dev.stepEnds 2)
    | 3 => onDev (d.dieTestDone w.defects)
    | 5 => onDev (d.trainDone w.lanes)
    | 6 => if d.allReady then onDev (d.stepEnds 6) else s
    | 7 => onDev ((d.modPow fun x => { x with credit := s.lim.capacity }).stepEnds 7)
    | 8 => if d.pegsDone then onDev ((d.modBring fun x => { x with pegHash := match x.image with | some m => m.pegHash | none => 0 }).stepEnds 8) else s
    | 9 => if d.fabricOver then (let d1 := d.stepEnds 9; onDev (if d.ready then d1.stepBegin 10 else d1)) else s
    | 10 => if d.ethOver then onDev ((if d.ready then d else d.stripeSet w.ssds).stepEnds 10) else s
    | _ => onDev (d.stepEnds c)

/-- The failures of Table 17-4 that the work of a step itself reports. -/
def workFails (c : Nat) : Option Nat :=
  match c with | 1 => some 0x02 | 3 => some 0x20 | 5 => some 0x40 | 6 => some 0x50 | 7 => some 0x60 | 8 => some 0x70 | _ => none

/-- BRING_STEP_FAILED: a running step cannot finish, or has exceeded its bound; the bound of LOAD_GABLE runs before Purlin time does. -/
def Dev.bringStepFailed (d : Dev) (c code : Nat) : Dev :=
  if c > 12 || !d.stepRuns c then d
  else if workFails c = some code || (code = 0xF0 && (c = 1 || d.stepLate c)) then d.stepFail c code
  else d

/-! ## FW_COMMIT (R504, R505; 15 R436) -/

/-- The FLOOR rises, and the command completes with the number of peers lost. -/
def Dev.commit (d : Dev) (c : Cmd) : Dev :=
  let d1 := d.raiseFloor (c.at 16 2)
  (d1.modBring fun x => { x with commits := x.commits.filter (· != (c.sq, c.order)) }).complete c stOk (d.livePeers.length - d1.livePeers.length)

/-- FW_COMMIT. -/
def Dev.fwCommit (d : Dev) (q : Nat) : Dev :=
  match d.running? q 0xB0 with
  | none => d
  | some c =>
    let floor := c.at 16 2
    let cur := d.fd .reedlineLevel 0 16 16
    if d.bring.commits.contains (q, c.order) then d
    else if !c.only 1 [(16, 0, 16), (24, 0, 64)] || floor > d.fd .reedlineLevel 0 0 16 || floor < cur then d.complete c stBadParam 0
    else if d.reloading then d.complete c stBusy 0
    else if floor = cur then d.complete c stOk 0
    else if c.at 24 8 ≤ d.now then d.commit c
    else d.modBring fun x => { x with commits := x.commits ++ [(q, c.order)] }

/-- FLOOR_RISE: COMMIT_TIME has come. -/
def Dev.floorRise (d : Dev) (q : Nat) : Dev :=
  match d.running? q 0xB0 with
  | none => d
  | some c => if d.bring.commits.contains (q, c.order) && decide (c.at 24 8 ≤ d.now) then d.commit c else d

/-! ## The Gable dies and the Batten network (13 R394, R491; 01 R20, R21) -/

/-- The failed die of a takeover: none, GD1 or GD0 carries on alone otherwise. -/
def Dev.bothServe (d : Dev) : Bool := d.stepDone 1 && d.fd .queueGableSts 0 2 2 == 0

/-- GABLE_CHECK: die `die` answers the other's check, or misses it. -/
def Dev.gableCheck (d : Dev) (die : Nat) (ok : Bool) : Dev :=
  if die > 1 || !d.bothServe then d
  else
    let n := if ok then 0 else (if die = 0 then d.misses0 else d.misses1) + 1
    let d1 := if die = 0 then { d with misses0 := n } else { d with misses1 := n }
    if ok then d1 else d1.sb .gableErr (1 - die) 2 true

/-- What is left of a range of numbers, done one after the other. -/
def doAll (f : Dev → Nat → Dev) : Nat → Nat → Dev → Dev
  | 0, _, d => d
  | n + 1, i, d => doAll f n (i + 1) (f d i)

/-- The passes of a Thatch operation on an engine. -/
def ThatchOp.passCount (o : ThatchOp) (groups : List Nat) (units : Nat) : Nat :=
  (allPasses (o.subs units).1 (o.subs units).2.1 0 (o.groupsOf groups)).length

/-- The operations of a command that are on the engines run to their end (R394). -/
def Dev.engineWork (d : Dev) (c : Cmd) : Dev :=
  match d.kernel? c.sq with
  | none => d
  | some k => ((upFrom 0 k.entries.length).zip k.entries).foldl (fun d e => match e.2.st with
      | .thatch r => (match parseThatch e.2.desc with
        | some o => doAll (fun d n => if r.passes.contains n then d else d.thatchPassEnd c.sq e.1 n none) (o.passCount r.groups r.units) 0 d
        | none => d)
      | .copy us => (match parseCopy (e.2.desc % 2 ^ 1536) with
        | some cd => doAll (fun d n => if us.contains n then d else d.copyUnitDone c.sq e.1 n) cd.units 0 d
        | none => d)
      | _ => d) d

/-- GABLE_TAKEOVER: after five misses the survivor serves every queue. What the failed die had started or accepted completes ABORTED,
entries that it had not written among them. -/
def Dev.gableTakeover (d : Dev) : Dev :=
  let die? : Option Nat := if d.misses0 ≥ 5 then some 0 else if d.misses1 ≥ 5 then some 1 else none
  match die? with
  | none => d
  | some die =>
    if !d.bothServe then d
    else
      let mine (q : Nat) : Bool := q % 2 == die
      let abort (w : Cpl) : Cpl := if mine w.sq then { w with status := stAborted, result := 0, extra := 0 } else w
      let d0 : Dev := { d with cqs := d.cqs.map fun (e : Nat × Cq) => (e.1, { e.2 with waiting := e.2.waiting.map abort }) }
      let d1 := d0.eachRunning fun d c => if mine c.sq then (d.engineWork c).endCmd c stAborted else d
      let d2 := (upFrom 0 16).foldl (fun d b => (d.bay b).seqs.foldl (fun d s => if s.handle then d
        else s.reqs.foldl (fun d r => if mine r.cmd.sq then d.endReq b s.serial r stAborted r.emitted else d) d) d) d1
      let d3 := d2.sqs.foldl (fun d e => if mine e.1 then e.2.deferred.foldl (fun d c => d.completeDeferred c stAborted 0) d else d) d2
      let d4 := (upFrom 0 16).foldl (fun d b => (d.dropStale b).reapSeqs b) d3
      let d5 := ((d4.wr .queueGableSts 0 (if die = 1 then 5 else 10)).wr .queueTakeoverTime 0 d.now).wr .gableSts die 4
      (d5.record { kind := 0x0062, detail0 := die }).event 0 0x0061 die d.now

/-- GABLE_LOSS: the die that serves alone loses command processing too. -/
def Dev.gableLoss (d : Dev) : Dev :=
  if !d.stepDone 1 || d.fd .queueGableSts 0 2 2 = 0 || d.fd .queueGableSts 0 0 2 = 0 then d
  else (d.sf .queueGableSts 0 0 2 0).sarkEnter 3

/-- BATTEN_MODULE_FAULT: a link drops one more module and runs on `working` ones, or fails below 12 (a Gable die's below 1). -/
def Dev.battenModuleFault (d : Dev) (die link working : Nat) : Dev :=
  match (dieLinks die)[link]? with
  | none => d
  | some far =>
    if working + 1 ≠ d.linkWorking die far || !d.stepDone 1 then d
    else
      let key := linkKey die far
      let d1 := { d with linkDropped := smSet 0 d.linkDropped key (smGet 0 d.linkDropped key + 1) }
      let rec_ (kind : Nat) : Dev := d1.record { kind := kind, unit := unitId die 9 link, detail0 := working }
      if working ≥ linkFloor die far then rec_ 0x0010 else (rec_ 0x0011).sarkEnter 5

end Sys2Proof.Machine
end

