-- ==== Sys2Proof/Machine/Underlay.lean ====
section
/-!
DEFINITION. Machine/Underlay.lean: underlay sets from the cut to the flash and back (19 R521 to R535), the wear that paces them (18 R516,
R517), NVMe completions and their failures (16 R465 to R468, R484), and self-test and calibration (19 R540 to R542).
Where the spec is silent or is read by inference: DESIGN CHOICE log 65; DEDUCED log 66; PRESUMED log 67 (notes/assumptions).
-/
namespace Sys2Proof.Machine

/-! ## Sets -/

/-- The own sets of a bay, in the order of their cuts. -/
def Dev.ownSets (d : Dev) (b : Nat) : List UlSet := d.ulSets.filter fun s => s.bay == b && !s.mirrored

/-- The own set of a bay that is WRITING. -/
def Dev.writingSet (d : Dev) (b : Nat) : Option UlSet := (d.ownSets b).find? fun s => s.st == 1

/-- The newest COMPLETE own set of a bay. -/
def Dev.newestComplete (d : Dev) (b : Nat) : Option UlSet := ((d.ownSets b).filter fun s => s.st == 2).getLast?

/-- Change a set. -/
def Dev.modSet (d : Dev) (serial : Nat) (f : UlSet → UlSet) : Dev :=
  { d with ulSets := d.ulSets.map fun s => if s.serial = serial then f s else s }

/-- The underlay area, and what of it the sets leave (R521). -/
def Dev.ulArea (d : Dev) : Nat := d.rd .tierT4Limit 0 - d.rd .tierT4Bytes 0
def Dev.ulAreaFree (d : Dev) : Nat := d.ulArea - sumN (d.ulSets.map (·.bytes))

/-- The UNDERLAY objects of a bay, in ascending OBJ_ID. -/
def Dev.ulObjs (d : Dev) (b : Nat) : List Obj :=
  (d.objs.filter fun o => o.bay == b && o.underlay).foldl (fun l o => let i := l.findIdx fun x => decide (o.id < x.id); l.take i ++ [o] ++ l.drop i) []

/-- The first 48 bytes of a set record and the rest (Table 19-1). -/
def UlSet.record (s : UlSet) : Nat :=
  mkFields [(0, 32, s.id), (32, 2, s.st), (34, 1, if s.mirrored then 1 else 0), (35, 1, if s.lossValid then 1 else 0), (48, 15, s.rank)
    , (64, 32, s.step), (96, 32, s.objs.length), (128, 64, s.cut), (192, 64, s.bytes), (256, 64, s.doneAt), (320, 64, s.loss), (384, 64, s.tokens)
    , (448, 16, s.status)]

/-! ## Wear pacing (18 R516, R517) -/

/-- Bytes of a set on each root port: stripe `k` of 1 MiB on member (UNDERLAY_ID + k) mod S. -/
def Dev.setBytes (d : Dev) (s : UlSet) : List Nat :=
  let ms := d.members
  let stripes := ceilDiv s.bytes mib
  (upFrom 0 4).map fun p => match ms.findIdx? (· == p) with
    | none => 0
    | some m =>
      let first := (m + ms.length - s.id % ms.length) % ms.length
      let n := if stripes ≤ first then 0 else (stripes - first - 1) / ms.length + 1
      let last := stripes - 1
      n * mib - (if n ≠ 0 && last % ms.length == first then stripes * mib - s.bytes else 0)

/-- The rate of underlay writes to a member against its allowed rate, as a fraction; `none` where its allowed rate is zero or negative. -/
def Dev.wearRatio (d : Dev) (p : Nat) : Option (Nat × Nat) :=
  let budget := d.rd .powerWearBudgetTb p * 10 ^ 12
  let written := d.rd .nvmeUnitsWritten p * 512000
  let fin := d.rd .powerWearLifeEnd p
  let n := min 8 d.wear.length
  let since := match (d.wear.drop (d.wear.length - n - 1)).head? with
    | some e => if d.wear.length > n then e.1 else 0
    | none => 0
  let bytes := sumN ((d.wear.drop (d.wear.length - n)).map fun e => e.2.getD p 0)
  if budget ≤ written || fin ≤ d.now then none else some (bytes * (fin - d.now), (d.now - since) * (budget - written))

/-- The wear is evaluated after an underlay of a set completes: the interval in force, POWER_WEAR_STS and WEAR_STRETCH. -/
def Dev.wearEvaluate (d : Dev) (s : UlSet) : Dev :=
  let cur := if (d.bay s.bay).ulInterval = 0 then s.interval else (d.bay s.bay).ulInterval
  let ns := d.members.filter fun p => d.rd .powerWearBudgetTb p != 0
  let worn := ns.filter fun p => (d.wearRatio p).isNone
  let fast := ns.filter fun p => match d.wearRatio p with | none => true | some (a, b) => decide (a > b)
  let need := ns.foldl (fun m p => match d.wearRatio p with | none => m | some (a, b) => max m (ceilDiv (cur * a) b)) 0
  let need := if worn.isEmpty then need else 2 ^ 32
  let i := min s.maxLost (max s.interval need)
  let atBound := decide (need > s.maxLost)
  let d1 := (d.modBay s.bay fun x => { x with ulInterval := i, ulNeed := need }).wr .powerWearSts 0 (mkFields [(0, 1, if atBound then 1 else 0), (1, 10, i)])
  if i ≤ s.interval then d1
  else
    let data := mkFields [(0, 10, i), (10, 10, s.maxLost), (20, 1, if atBound then 1 else 0)]
    let mask := mkFields (fast.map fun p => (p, 1, 1))
    (if s.bay = 0 then [0] else [0, s.bay]).foldl (fun d b => d.event b 0x0024 data mask) d1

/-! ## The end of takes and of sets -/

/-- A part of UNDERLAY_TAKE that holds a commit, with what it decided: its packet, and whether it cut and the cut is made. -/
def Dev.takes (d : Dev) : List (CollPart × Cmd × Bool × Bool) :=
  d.parts.filterMap fun p => if p.opcode ≠ 0x70 then none else match d.turn? p, d.partCmd p with
    | some t, some c => (match t.decision with
      | some (true, st, _) => some (p, c, st == 1, t.acted.isSome)
      | _ => none)
    | _, _ => none

/-- A take completes. -/
def Dev.takeEnds (d : Dev) (p : CollPart) (status result : Nat) : Dev := (d.dropPart p).finish p.sq status result

/-- Takes whose agreement has ended complete once the bound on steps lost holds and the module is out of hold (R524, R529). -/
def Dev.takesGo (d : Dev) : Dev :=
  d.takes.foldl (fun d x =>
    let (p, c, cut, made) := x
    let shielded := (d.writingSet p.bay).all (·.shielded)
    let ok := match d.newestComplete p.bay with
      | some s => decide (c.at 24 4 + 1 ≤ s.step + c.bits 28 0 10)
      | none => false
    if (cut && !made) || !shielded || d.held || !ok then d else d.takeEnds p stOk (if cut then 1 else 0)) d

/-- A set fails: UNDERLAY_DONE, an error record, and it is discarded; takes that wait for it end with its status (R522, R529). -/
def Dev.setFails (d : Dev) (s : UlSet) (status : Nat) : Dev :=
  if s.mirrored then d.modSet s.serial fun x => { x with st := 3, status := status, doneAt := d.now }
  else
    let d1 := ((d.record { kind := 0x0050, bay := some s.bay, detail0 := s.id, status := status }).ulDone s status).discardSet s
    let d2 := d1.takesGo
    (d2.takes.filter fun x => x.1.bay == s.bay && (!x.2.2.1 || x.2.2.2)).foldl (fun d x => d.takeEnds x.1 status 0) d2

/-- The frame kind of the mirror traffic. -/
def fkMirror : Nat := 18

/-- Mirror frames of a set that the mirror rank has not acknowledged. -/
def Dev.mirrorPending (d : Dev) (s : UlSet) : Bool := d.fab.frames.any fun f => f.kind == fkMirror && f.words.take 3 == [s.bay, s.rank, s.id]

/-- Send to the mirror rank over BULK. -/
def Dev.toMirror (d : Dev) (s : UlSet) (words : List Nat) (bytes : Nat) : Dev := match s.mirror with
  | some (dev, _) => d.sendFrame dev 3 fkMirror ([s.bay, s.rank, s.id] ++ words) (bytes + 32)
  | none => d

/-- The record of a set goes to its mirror copy. -/
def Dev.mirrorUpdate (d : Dev) (s : UlSet) : Dev :=
  d.toMirror s ([1, s.doneAt, if s.lossValid then 1 else 0, s.loss, s.tokens] ++ s.objs.map (·.crc)) (64 + 64 * s.objs.length)

/-- A set is COMPLETE once every page of it, and of its mirror copy, is stored (R522); a mirrored one with its record. -/
def Dev.setCheck (d : Dev) (serial : Nat) : Dev :=
  match d.ulSets.find? fun s => s.serial == serial with
  | none => d
  | some s =>
    if s.st ≠ 1 || !s.shielded || (d.ulPages.any fun u => u.set == serial && u.st != 3) || d.mirrorPending s then d
    else
      let s1 := { s with st := 2, doneAt := if s.mirrored then s.doneAt else d.now }
      let d1 := d.modSet serial fun _ => s1
      if s.mirrored then d1
      else
        let d2 := ((d1.wr .errlogUlLastDone 0 d.now).mirrorUpdate s1).ulDone s1 stOk
        let d3 := { d2 with wear := (d2.wear ++ [(d.now, d.setBytes s)]).drop (d2.wear.length + 1 - 9) }
        (d3.wearEvaluate s1).takesGo

/-- Every set is looked at again. -/
def Dev.setsCheck (d : Dev) : Dev := (d.ulSets.map (·.serial)).foldl (fun d n => d.setCheck n) d

/-! ## UNDERLAY_TAKE (R523 to R530) -/

/-- UNDERLAY_TAKE that runs with an OP. -/
def Dev.takeCmd (d : Dev) (q : Nat) (ok : Nat → Bool) (f : Cmd → Dev) : Dev :=
  match d.running? q 0x70 with
  | none => d
  | some c => if ok (c.bits 16 0 2) then f c else d

/-- No reserved field of Table 19-2 is used, and none that its description gives to another OP (00 R545): FORCE, STEP, MAX_LOST and INTERVAL
are TAKE's, UNDERLAY_ID is TAKE's and DISCARD's, DST_VA is QUERY's. -/
def Cmd.takeOnly (c : Cmd) (op : Nat) : Bool :=
  c.only 2 ([(16, 0, 2), (32, 0, 64), (40, 0, 128), (56, 0, 16)] ++ (if op = 0 then [(16, 2, 1), (24, 0, 32), (28, 0, 10), (30, 0, 10)] else [])
    ++ (if op = 1 then [(64, 0, 64)] else [(20, 0, 32)]))

/-- The module acting alone. -/
def Dev.alone (d : Dev) (b : Nat) : List Member := [{ dev := d.self, domain := d.domain, bay := b }]

/-- The group of an underlay command and this module's rank in it; GROUP_VA 0: the module alone. -/
def Dev.ulGroup (d : Dev) (c : Cmd) (va : Nat) : Except Nat (List Member × Nat) := if va = 0 then .ok (d.alone c.bay, 0) else d.turnGroup c va

/-- Would the set of a cut now fit the area and the four sets of the bay beside those it keeps (R522, R523)? -/
def Dev.cutFits (d : Dev) (b : Nat) : Bool :=
  let keep := d.ulSets.filter fun s => s.bay != b || s.mirrored || (d.newestComplete b).any fun x => x.serial == s.serial
  decide (sumN ((d.ulObjs b).map (·.size)) + sumN (keep.map (·.bytes)) ≤ d.ulArea) && decide ((keep.filter fun s => s.bay == b).length < 4)

/-- Is the cut due on this module (R528)? -/
def Dev.cutDue (d : Dev) (c : Cmd) : Bool :=
  let i := min (c.bits 28 0 10) (max (c.bits 30 0 10) (d.bay c.bay).ulNeed)
  match (d.ownSets c.bay).getLast? with
  | none => true
  | some s => decide (s.step + i ≤ c.at 24 4)

/-- UNDERLAY_TAKE with OP TAKE: the part joins its agreement. -/
def Dev.underlayTake (d : Dev) (q : Nat) : Dev :=
  d.takeCmd q (fun op => op == 0 || op == 3) fun c =>
    let id := c.at 20 4
    let maxLost := c.bits 28 0 10
    if d.parts.any fun p => p.sq == q then d
    else if c.bits 16 0 2 ≠ 0 || !c.takeOnly 0 || id = 0 || (d.ulSets.any fun s => s.bay == c.bay && s.id == id) || !inRange 1 1000 maxLost
      || !inRange 1 maxLost (c.bits 30 0 10) || !inRange 1000 100000 (c.at 36 4) then d.refusePart c (c.at 32 4) (if c.at 48 8 = 0 then none else d.groupRank c.bay (c.at 48 8))
    else if !d.enginesRun || (d.part? c.bay (c.at 32 4)).isSome then d
    else match d.ulGroup c (c.at 48 8) with
      | .error s => d.complete c s 0
      | .ok (g, rank) =>
        let mirror := bitAt c.pkt (8 * 56 + 15)
        let mrank := c.bits 56 0 15
        let t : TurnSt :=
          { sq := q, order := c.order, learn := false, switch := false, sheaf := id, time := c.at 40 8, guard := c.at 36 4, crc := c.at 24 4
            force := bitAt c.pkt (8 * 16 + 2), blocked := (d.writingSet c.bay).isSome, due := d.cutDue c }
        let p : CollPart := { sq := q, bay := c.bay, order := c.order, opcode := 0x70, tag := c.at 32 4, group := g, rank := rank }
        if mirror && (mrank ≥ g.length || mrank = rank) then d.partFail p stBadParam
        else if !d.cutFits c.bay then d.partFail p stQuota
        else if d.rbit .hostifErr 0 3 then d.partFail p stAborted
        else match d.turnLate c g t with
          | some s => d.partFail p s
          | none => (Dev.chainStart p { d with turns := d.turns ++ [t] }).takesGo

/-- UNDERLAY_CUT: the cut beat of a commit with cut. The module is held; older sets go, and the new one is WRITING. -/
def Dev.underlayCut (d : Dev) (q : Nat) : Dev :=
  match d.takes.find? fun x => x.1.sq == q with
  | none => d
  | some (p, c, cut, made) => match d.turn? p with
    | none => d
    | some t =>
      if !cut || made || d.now < alignUp t.time 4 then d
      else if d.rbit .hostifErr 0 3 then d.takeEnds p stAborted 0
      else
        let keep := d.newestComplete p.bay
        let old := (d.ownSets p.bay).filter fun s => !(keep.any fun x => x.serial == s.serial)
        let d1 := old.foldl (fun d s => (if s.st = 1 then d.ulDone s stAborted else d).discardSet s) d
        let n := d1.ulSerial
        let s : UlSet :=
          { serial := n, bay := p.bay, id := t.sheaf, rank := p.rank, step := t.crc, cut := t.time, interval := c.bits 30 0 10, maxLost := c.bits 28 0 10
            mirror := if bitAt c.pkt (8 * 56 + 15) then (p.group[c.bits 56 0 15]?).map fun m => (m.dev, c.bits 56 0 15) else none }
        let d2 := { d1 with ulSets := d1.ulSets ++ [s], ulSerial := n + 1 }.modTurn p fun t => { t with acted := some 0 }
        (d2.modFab fun x => { x with holds := x.holds ++ [{ id := 2 ^ 32 + n, origin := d.self, start := d.now, stop := 0, active := true }] }).holdUpdate

/-- The attributes of an object as a set holds them, with the CRC-64 of its bytes (R521). -/
def Dev.ulAttr (d : Dev) (blanks : List (Nat × Nat × Nat)) (o : Obj) : UlAttr :=
  let l : Loc := o.locs.headD { tier := 1 }
  let ms := (d.bay o.bay).maps.filter fun m => m.peer.isNone && m.objBay == o.bay && m.objId == o.id
  let bytes := (upFrom 0 o.pages).flatMap fun k => readBytes (d.pageWithout o k blanks) 0 o.pageSize
  { id := o.id, size := o.size, small := o.small, pin := o.pin, exportMode := o.exportMode, key := o.key, firstStack := l.firstStack, runLog2 := l.runLog2
    maps := ms.map fun m => { va := m.va, bytes := m.bytes, off := m.off, write := m.write, prefetch := m.prefetch }
    crc := crc64 bytes }

/-- UNDERLAY_PROTECT: earlier writes have landed, and every page of every UNDERLAY object is protected in this beat. The module leaves
hold at the end of the cut window, or now where that has passed. -/
def Dev.underlayProtect (d : Dev) (q : Nat) : Dev :=
  match d.takes.find? fun x => x.1.sq == q with
  | none => d
  | some (p, _, _, _) => match d.writingSet p.bay with
    | none => d
    | some s =>
      if s.shielded then d
      else
        let os := d.ulObjs p.bay
        let pages := os.flatMap fun o => (upFrom 0 o.pages).map fun k => ({ set := s.serial, objBay := o.bay, objId := o.id, page := k, st := 0 } : UlPage)
        let blanks := d.provisional p.bay
        let d1 := { d with ulPages := d.ulPages ++ pages }.modSet s.serial fun x =>
          { x with shielded := true, blanks := blanks, objs := os.map (d.ulAttr blanks), bytes := sumN (os.map fun o : Obj => o.size) }
        let stop := max (s.cut + 1000 * d.rd .errlogUlCutWindowUs 0) d.now
        ((d1.endHold (2 ^ 32 + s.serial) stop).setCheck s.serial).takesGo

/-- UNDERLAY_TAKE with OP QUERY. -/
def Dev.underlayQuery (d : Dev) (q : Nat) : Dev :=
  d.takeCmd q (· == 1) fun c =>
    let ss := (d.ulSets.filter fun s => s.bay == c.bay).foldl
      (fun l s => let i := l.findIdx fun (x : UlSet) => decide (s.id < x.id); l.take i ++ [s] ++ l.drop i) []
    if !c.takeOnly 1 then d.complete c stBadParam 0
    else if c.trapped then d.complete c stAborted 0
    else match d.writeVa c.bay (c.at 64 8) (ss.flatMap fun s => toLe 64 s.record) with
      | (d1, some e) => (if e = .uncorr then d1.faultIn c (c.at 64 8) (64 * ss.length) else d1).complete c e.status 0
      | (d1, none) => d1.complete c stOk ss.length

/-- UNDERLAY_TAKE with OP DISCARD. -/
def Dev.underlayDiscard (d : Dev) (q : Nat) : Dev :=
  d.takeCmd q (· == 2) fun c =>
    match d.ulSets.find? fun s => s.bay == c.bay && s.id == c.at 20 4 with
    | none => d.complete c stBadParam 0
    | some s =>
      if !c.takeOnly 2 then d.complete c stBadParam 0
      else if s.st = 1 then d.complete c stBusy 0
      else if c.trapped then d.complete c stAborted 0
      else (d.discardSet s).complete c stOk 0

/-! ## The writer (R526, R527) -/

/-- May the writer work: out of hold, its engines and the stripe set there? -/
def Dev.writerRuns (d : Dev) : Bool := d.enginesRun && !d.reloading && d.stepDone 10

/-- The next page that the writer takes: staged ones as they were staged, then the others by OBJ_ID and offset. -/
def Dev.nextPage (d : Dev) (s : UlSet) : Option UlPage :=
  let ps := d.ulPages.filter fun u => u.set == s.serial && decide (u.st < 2)
  let staged := ps.filter fun u => u.staged.isSome
  match leastBy (fun (a b : UlPage) => decide (a.staged.getD 0 < b.staged.getD 0)) staged with
  | some u => some u
  | none => leastBy (fun (a b : UlPage) => decide (a.objId < b.objId) || (a.objId == b.objId && decide (a.page < b.page))) ps

/-- Where a page lies in its set. -/
def UlSet.pageOff (s : UlSet) (u : UlPage) : Nat :=
  sumN ((s.objs.filter fun a => decide (a.id < u.objId)).map (·.size)) + u.page * s.pageSize u.objId

/-- Change a page of a set. -/
def Dev.modPage (d : Dev) (u : UlPage) (f : UlPage → UlPage) : Dev :=
  { d with ulPages := d.ulPages.map fun x => if x.set = u.set ∧ x.objId = u.objId ∧ x.page = u.page then f x else x }

/-- A page goes to the flash: one NVMe command for each stripe of it, or the set fails where a member is FAILED. -/
def Dev.pageWrite (d : Dev) (s : UlSet) (u : UlPage) : Dev :=
  let off := s.pageOff u
  let n := s.pageSize u.objId
  if (upFrom (off / mib) ((off + n - 1) / mib - off / mib + 1)).any fun k => d.stripeBad s.id k then d.setFails s stUncorr
  else (d.modPage u fun x => { x with st := 2 }).nvmeRange true s.id off n (.page s.serial u.objId u.page)

/-- UNDERLAY_SEAL: the writer of bay `b` seals its next page. -/
def Dev.underlaySeal (d : Dev) (b : Nat) : Dev :=
  match d.writingSet b with
  | none => d
  | some s => match d.nextPage s with
    | none => d
    | some u =>
      if !d.writerRuns || !s.shielded then d
      else
        let n := s.pageSize u.objId
        let (bad, data) := if u.st = 1 then (false, u.data) else match d.obj? u.objBay u.objId with
          | some o => ((d.objErr o (u.page * n) n).isSome, d.cutBytes o u.page u.set)
          | none => (false, u.data)
        if bad then d.setFails s stUncorr
        else
          let d1 := d.modPage u fun x => { x with data := data }
          let d2 := if s.mirror.isSome then
              d1.toMirror s ([0, s.step, s.cut, u.objId, u.page, ofLe (readBytes data 0 n)] ++ s.objs.map (·.id)) n
            else d1
          d2.pageWrite s u

/-- FIRST_TOUCH_COPY: a write reaches the page of an object that holds offset `off`. -/
def Dev.firstTouchCopy (d : Dev) (b obj off : Nat) : Dev := match d.obj? b obj with
  | some o => if off < o.size then d.firstTouch o off 1 else d
  | none => d

/-- UNDERLAY_PAGE_STORED: the flash write of a sealed page completes, or fails. -/
def Dev.underlayPageStored (d : Dev) (b obj page : Nat) (ok : Bool) : Dev :=
  let hit (s : UlSet) (u : UlPage) : Bool := u.set == s.serial && u.st == 2 && u.objId == obj && u.page == page
  match (d.ulSets.filter fun s => s.bay == b && s.st == 1).findSome? fun s => (d.ulPages.find? (hit s)).map fun u => (s, u) with
  | none => d
  | some (s, u) =>
    if !ok then d.setFails s stUncorr
    else if d.nvmeBusy (.page s.serial obj page) then d
    else
      let n := s.pageSize obj
      let d1 := (d.modPage u fun x => { x with st := 3 }).addW .errlogUlWritten 0 n
      (if u.staged.isSome then d1.subR .errlogUlStaged 0 n else d1).setCheck s.serial

/-- Put bytes given as a number into a page. -/
def cellsOf (n data : Nat) : List Host.Cell :=
  (((upFrom 0 n).map fun i => (i, BitVec.ofNat 8 (bytesAt data i 1))).filter fun c => c.2 != 0)

/-- MIRROR_PAGE_RX: the mirror rank stores a page or the record of a peer's set, or serves all of it (R527, R531, R534). Older mirrored sets
of that rank leave as own ones do; a page for which the bay has no room is not acknowledged. -/
def Dev.mirrorPageRx (d : Dev) (h : FrameHdr) (b rank id : Nat) (m : MirrorMsg) : Dev :=
  let mine (s : UlSet) : Bool := s.bay == b && s.mirrored && s.rank == rank
  let known := d.ulSets.find? fun s => mine s && s.id == id
  match m with
  | .read => match d.accept h 3 with
    | (d, false) => d
    | (d, true) => match known with
      | none => d.sendFrame h.src 3 fkMirror [b, rank, id, 2] 32
      | some s =>
        let bytes (a : UlAttr) : Nat := ofLe ((upFrom 0 (a.size / s.pageSize a.id)).flatMap fun k =>
          match d.ulPages.find? fun u => u.set == s.serial && u.objId == a.id && u.page == k with
          | some u => readBytes u.data 0 (s.pageSize a.id)
          | none => List.replicate (s.pageSize a.id) 0)
        d.sendFrame h.src 3 fkMirror ([b, rank, id, 3, s.step, s.cut] ++ s.objs.flatMap fun a => [a.id, a.size, bytes a]) (64 + s.bytes)
  | .update done objs lv loss tokens => match d.accept h 3, known with
    | (d, true), some s => (d.modSet s.serial fun x => { x with doneAt := done, objs := objs, lossValid := lv, loss := loss, tokens := tokens, shielded := true }).setCheck
        s.serial
    | (d, _), _ => d
  | .page step cut objs obj page data =>
    let others := d.ulSets.filter fun s => mine s && s.id != id
    let drop := others.filter fun s => !(((others.filter fun x => x.st == 2).getLast?).any fun x => x.serial == s.serial)
    let d0 := if known.isSome then d else drop.foldl (fun d s => d.discardSet s) d
    let bytes := sumN (objs.map (·.size))
    if known.isNone && ((d0.ulSets.filter fun s => s.bay == b).length ≥ 4 || d0.ulAreaFree < bytes) then d
    else match d0.accept h 3 with
      | (d, false) => d
      | (d, true) =>
        let s : UlSet := known.getD
          { serial := d.ulSerial, bay := b, id := id, mirrored := true, rank := rank, step := step, cut := cut, objs := objs, bytes := bytes }
        let d1 := if known.isSome then d else { d with ulSets := d.ulSets ++ [s], ulSerial := d.ulSerial + 1 }
        let u : UlPage := { set := s.serial, objBay := b, objId := obj, page := page, st := 1, data := cellsOf (s.pageSize obj) data }
        if s.st ≠ 1 || d1.ulPages.any (fun x => x.set == s.serial && x.objId == obj && x.page == page) then d1
        else { d1 with ulPages := d1.ulPages ++ [u] }.pageWrite s u

/-! ## UNDERLAY_RESTORE (R531, R532) -/

/-- What a restore writes: the objects with their bytes by page offset, and the cut that newer sets lie after. -/
structure RestoreSet where
  cut : Nat
  objs : List (UlAttr × List Host.Cell)

/-- The bytes of an object of a set, by offset. -/
def Dev.setObjBytes (d : Dev) (s : UlSet) (a : UlAttr) : List Host.Cell :=
  (upFrom 0 (a.size / s.pageSize a.id)).flatMap fun k => match d.ulPages.find? fun u => u.set == s.serial && u.objId == a.id && u.page == k with
    | some u => u.data.map fun c => (k * s.pageSize a.id + c.1, c.2)
    | none => []

/-- Write the bytes of an object, given by offset, into its T1 frames whole: check bits are replaced, and faults cleared (R532). -/
def Dev.restoreBytes (d : Dev) (o : Obj) (bytes : List Host.Cell) : Dev :=
  let page (k : Nat) : List Host.Cell := sliceRange bytes (k * o.pageSize) o.pageSize
  let d1 := (upFrom 0 o.pages).foldl (fun d k => match o.phys (k * o.pageSize) with
    | some a => { d with hbm := putRange d.hbm a o.pageSize (page k)
                         hbmBad := d.hbmBad.filter fun e => !(decide (a ≤ 64 * e.1) && decide (64 * e.1 < a + o.pageSize)) }
    | none => d) d
  d1.modObj o.bay o.id fun x => { x.dirtied 0 o.size with fault := false, faults := 0, faultOff := none }

/-- Restore one object: the checks and the room of R532, then its bytes and mappings. -/
def Dev.restoreObj (d : Dev) (c : Cmd) (hint : Nat) (a : UlAttr) (bytes : List Host.Cell) : Except Nat Dev :=
  let page := if a.small then 0x10000 else 0x200000
  let n := a.size / page
  let maps := a.maps.filter fun m => !((d.bay c.bay).maps.any fun x =>
    x.peer.isNone && x.objBay == c.bay && x.objId == a.id && x.va == m.va && x.bytes == m.bytes && x.off == m.off)
  if maps.any fun m => (d.bay c.bay).maps.any fun x => overlap x.va x.bytes m.va m.bytes then .error stBadParam
  else
    let addMaps (d : Dev) : Dev := maps.foldl (fun d m => d.addMap c.bay
      { va := m.va, bytes := m.bytes, objBay := c.bay, objId := a.id, off := m.off, write := m.write, prefetch := m.prefetch, small := a.small }) d
    let finish (d : Dev) : Except Nat Dev := match d.obj? c.bay a.id with
      | some o => .ok (addMaps (d.restoreBytes o bytes))
      | none => .ok d
    let room (own ownP : Nat) : Except Nat (Bool × Dev) := match d.classify c.bay 1 a.size own ownP a.pin false with
      | none => .error stQuota
      | some (pool, need) => match (if need = 0 then some [] else d.victims 1 need c.order [(c.bay, a.id)]) with
        | none => .error stQuota
        | some vs => match evictAll d vs with
          | (_, false) => .error stUncorr
          | (d1, true) => .ok (pool, d1)
    match d.obj? c.bay a.id with
    | some o =>
      if o.size ≠ a.size || o.small ≠ a.small then .error stBadParam
      else if o.home = 1 && !o.split && o.tileAt.isEmpty && (o.locs.headD { tier := 0 }).is 1 a.firstStack a.runLog2 then finish d
      else match room (if o.home = 1 && !o.pool then o.size else 0) (if o.home = 1 && o.pool then o.size else 0) with
        | .error e => .error e
        | .ok (pool, d1) => match (d1.dropFrames o o.allFrames).frames page n a.firstStack a.runLog2 hint with
          | none => .error stQuota
          | some fr => finish ((d1.dropFrames o o.allFrames).modObj c.bay a.id fun x =>
              { x with home := 1, pool := pool, locs := [{ tier := 1, frames := fr, firstStack := a.firstStack, runLog2 := a.runLog2 }], tileAt := []
                       split := false, t3 := [], t4 := [] })
    | none => match room 0 0 with
      | .error e => .error e
      | .ok (pool, d1) => match d1.frames page n a.firstStack a.runLog2 hint with
        | none => .error stQuota
        | some fr =>
          let o : Obj :=
            { bay := c.bay, id := a.id, size := a.size, small := a.small, home := 1, backing := 0, pool := pool, pin := a.pin, underlay := true
              exportMode := a.exportMode, key := a.key, locs := [{ tier := 1, frames := fr, firstStack := a.firstStack, runLog2 := a.runLog2 }]
              touched := d.now }
          finish { d1 with objs := d1.objs ++ [o] }

/-- Restore every object in turn, or none. -/
def restoreAll (c : Cmd) (hint : Nat) : Dev → List (UlAttr × List Host.Cell) → Except Nat Dev
  | d, [] => .ok d
  | d, x :: r => match d.restoreObj c hint x.1 x.2 with
    | .error e => .error e
    | .ok d1 => restoreAll c hint d1 r

/-- UNDERLAY_RESTORE: `ans` is what the mirror rank answers, `hint` where the allocator looks for frames. -/
def Dev.underlayRestore (d : Dev) (q : Nat) (ans : Option MirrorSet) (hint : Nat) : Dev :=
  match d.running? q 0x71 with
  | none => d
  | some c =>
    let id := c.at 20 4
    let remote := bitAt c.pkt 128
    let mrank := c.bits 28 0 15
    if d.parts.any fun p => p.sq == q then d
    else if !c.only 1 ([(16, 0, 1), (20, 0, 64), (32, 0, 64)] ++ if remote then [(28, 0, 15)] else []) then d.refusePart c (c.at 24 4) (if c.at 32 8 = 0 then none else d.groupRank c.bay (c.at 32 8))
    else if !d.enginesRun || (d.part? c.bay (c.at 24 4)).isSome || (d.objs.any fun o => o.bay == c.bay && o.place.isSome) then d
    else match d.ulGroup c (c.at 32 8) with
      | .error s => d.complete c s 0
      | .ok (g, rank) =>
        let p : CollPart := { sq := q, bay := c.bay, order := c.order, opcode := 0x71, tag := c.at 24 4, group := g, rank := rank }
        let set? : Option RestoreSet :=
          if remote then (if mrank ≥ g.length then none else ans.map fun m =>
            { cut := m.cut, objs := m.objs.map fun x => (x.1, cellsOf x.1.size x.2) })
          else ((d.ownSets c.bay).find? fun s => s.id == id && s.st == 2).map fun s => { cut := s.cut, objs := s.objs.map fun a => (a, d.setObjBytes s a) }
        match set? with
        | none => d.partFail p stBadParam
        | some r =>
          match restoreAll c hint d r.objs with
          | .error s => if s = stBadParam then d.partFail p s else if (d.writingSet c.bay).isSome then d.partFail p stBusy else d.partFail p s
          | .ok d1 =>
            if (d.writingSet c.bay).isSome then d.partFail p stBusy
            else if c.trapped then d.partFail p stAborted
            else if d.passed c then d.partFail p stDeadline
            else match d.memberBad g with
              | some s => d.partFail p s
              | none =>
                let d2 := if remote then (match g[mrank]? with
                  | some m => d1.sendFrame m.dev 3 fkMirror [c.bay, rank, id, 4] 32
                  | none => d1) else d1
                let d3 := ((d2.ownSets c.bay).filter fun s => decide (r.cut < s.cut)).foldl (fun d s => d.discardSet s) d2
                if r.objs.any fun x => crc64 (readBytes x.2 0 x.1.size) != x.1.crc then d3.partFail p stUncorr
                else Dev.partStart d3 { p with written := r.objs.length } fun d => d

/-! ## REPLAY_CHECK (R534) -/

/-- REPLAY_CHECK that runs with an OP: its fields and its set. -/
def Dev.replayCmd (d : Dev) (q op : Nat) (f : Cmd → UlSet → Dev) : Dev :=
  match d.running? q 0x72 with
  | none => d
  | some c =>
    if c.bits 16 0 1 ≠ op then d
    else match (d.ownSets c.bay).find? fun s => s.id == c.at 20 4 with
      | none => d.complete c stBadParam 0
      | some s =>
        let tol := c.at 32 8
        let bad := !c.only 1 [(16, 0, 1), (20, 0, 32), (24, 0, 192)] || isNan .fp64 (c.at 24 8) || !isFinite .fp64 tol || decide (2 ^ 63 < tol)
          || (s.st != 1 && s.st != 2) || (op == 1 && !s.lossValid)
        if bad then d.complete c stBadParam 0 else if c.trapped then d.complete c stAborted 0 else f c s

/-- REPLAY_CHECK with OP RECORD. -/
def Dev.replayRecord (d : Dev) (q : Nat) : Dev :=
  d.replayCmd q 0 fun c s =>
    let s1 := { s with lossValid := true, loss := c.at 24 8, tokens := c.at 40 8 }
    ((d.modSet s.serial fun _ => s1).mirrorUpdate s1).complete c stOk 0

/-- REPLAY_CHECK with OP CHECK. -/
def Dev.replayCheck (d : Dev) (q : Nat) : Dev :=
  d.replayCmd q 1 fun c s =>
    let x := c.at 24 8
    let tol := c.at 32 8
    let near := !isZero .fp64 tol && (((decode .fp64 x).add (decode .fp64 s.loss).neg).abs).le (decode .fp64 tol)
    if c.at 40 8 = s.tokens && x == s.loss then d.complete c stOk 0
    else if c.at 40 8 = s.tokens && near then d.complete c stOk 1
    else
      (d.record { kind := 0x0051, bay := some c.bay, tag := c.tag, queue := c.sq, opcode := c.opcode, status := stReplayMismatch, detail0 := s.id
                  detail1 := s.loss }).complete c stReplayMismatch 0

/-! ## NVMe completions (16 R465 to R468, R484) -/

/-- What a failed command served ends with an uncorrectable error (R468). -/
def Dev.nvmeUseFails (d : Dev) (use : NvmeUse) : Dev := match use with
  | .page set _ _ => match d.ulSets.find? fun s => s.serial == set && s.st == 1 with
    | some s => d.setFails s stUncorr
    | none => d
  | .tile q o k => match d.running? q 0x61 with
    | some c => if c.order = o then d.tileLanded q k true else d
    | none => d

/-- An outstanding command. -/
def Dev.nvmeCmd? (d : Dev) (port id : Nat) : Option NvmeCmd := d.nvme.find? fun c => c.port == port && c.id == id

/-- A command leaves. -/
def Dev.nvmeDrop (d : Dev) (c : NvmeCmd) : Dev := { d with nvme := d.nvme.filter fun x => !(x.port == c.port && x.id == c.id) }

/-- A command fails, with the status that NVME_LAST_STATUS shows. -/
def Dev.nvmeFails (d : Dev) (c : NvmeCmd) (status : Nat) : Dev :=
  (((d.nvmeDrop c).addS .nvmeErrors c.port 1).wr .nvmeLastStatus c.port (status % 65536)).nvmeUseFails c.use

/-- NVME_COMPLETION: the completion of a command is polled; the Abort of a command makes its completion a failure. -/
def Dev.nvmeCompletion (d : Dev) (port id status : Nat) : Dev :=
  match d.nvmeCmd? port id with
  | none => d
  | some c =>
    if c.aborted.isSome then (d.nvmeDrop c).nvmeUseFails c.use
    else if status % 65536 = 0 then (d.nvmeDrop c).nvmeCount c.write port c.bytes
    else d.nvmeFails c status

/-- NVME_TIMEOUT: a command has not completed within NVME_TIMEOUT_MS, and is aborted. -/
def Dev.nvmeTimeout (d : Dev) (port id : Nat) : Dev :=
  match d.nvmeCmd? port id with
  | none => d
  | some c =>
    if c.aborted.isSome || d.now < c.at_ + 1000000 * d.fd .nvmeTimeoutMs port 0 16 then d
    else
      ({ d with nvme := d.nvme.map fun x => if x = c then { x with aborted := some d.now } else x }.addS .nvmeErrors port 1).wr .nvmeLastStatus port 0xFFFF

/-- NVME_RESET_TIMEOUT: 1 s after its abort a command is still outstanding: the controller is reset, and every command of it fails. Three
resets in 60 s set the port FAILED. -/
def Dev.nvmeResetTimeout (d : Dev) (port id : Nat) : Dev :=
  match d.nvmeCmd? port id with
  | none => d
  | some c => match c.aborted with
    | none => d
    | some t =>
      if d.now < t + 1000000000 then d
      else
        let rs := (d.nvmeResets ++ [(port, d.now)]).filter fun r => decide (d.now < r.2 + 60000000000)
        let failed := decide (3 ≤ (rs.filter fun r => r.1 == port).length)
        let d1 := { d with nvmeResets := rs }
        let d2 := if failed then (d1.sf .nvmePortSts port 0 2 3).record
            { kind := 0x0064, unit := unitId (0x10 + port / 2) 10 (64 + port), detail0 := port, detail1 := d1.rd .nvmeLastStatus port } else d1
        let gone := d.nvme.filter fun x => x.port == port
        gone.foldl (fun d x => (d.nvmeDrop x).nvmeUseFails x.use) d2

/-- NVME_SMART_REFRESH (R484): the SMART log of a READY port. -/
def Dev.nvmeSmartRefresh (d : Dev) (port pct units : Nat) : Dev :=
  if port ≥ 4 || d.fd .nvmePortSts port 0 2 ≠ 2 then d else (d.wr .nvmePctUsed port (min pct 255)).wr .nvmeUnitsWritten port units

/-- SSD_DMA_REQUEST (R465): a request into the buffer of an outstanding command is served; any other is answered as an Unsupported Request. -/
def Dev.ssdDmaRequest (d : Dev) (port : Nat) (inBuffer : Bool) : Dev :=
  if port ≥ 4 || (inBuffer && d.nvme.any fun c => c.port == port) then d
  else (d.addS .nvmeErrors port 1).send .nvme 1 [port]

/-! ## Self-test and calibration (R540 to R542) -/

/-- Is a number a logical unit identifier (Tables 1-5 to 1-7)? -/
def unitOk (u : Nat) : Bool :=
  let site := fld u 0 8
  let cls := fld u 8 4
  let i := fld u 16 12
  let thatch := site < 12
  let lath := inRange 12 15 site
  let base := inRange 0x20 0x3F site
  onlyFields u 32 [(0, 12), (16, 12)] && (site < 20 || base || site == 0xFF) && (match cls with
    | 0 => i == 0
    | 1 => thatch && i < 256
    | 2 => lath && i < 48
    | 3 => i < (if lath then 48 else if base then 16 else if inRange 16 17 site then 32 else if site < 20 then 64 else 0)
    | 4 => lath && i < 16
    | 5 => site != 0xFF && (i < (dieLinks site).length || (if thatch then inRange 8 25 i else if lath then inRange 8 16 i else if site == 16 then inRange 8 12 i
        else if site == 17 then inRange 9 11 i else i == 8))
    | 6 => base && i < 5
    | 7 => base && i < 32
    | 8 => thatch && i == 0
    | 9 => site < 20 && i < (dieLinks site).length
    | 10 => inRange 16 17 site && (if site == 16 then i < 9 || inRange 32 33 i || inRange 64 65 i || i == 96 else inRange 9 17 i || inRange 34 35 i || inRange 66 67 i)
    | _ => false)

/-- The classes that a test may name (Table 19-7). -/
def testAllows (test u : Nat) : Bool :=
  let cls := fld u 8 4
  match test with
  | 1 => [1, 2, 3, 4, 6, 8].contains cls
  | 2 => cls == 7
  | 3 => cls == 9 || (cls == 10 && decide (fld u 16 12 < 18))
  | 4 => [1, 2, 4, 6, 8].contains cls
  | _ => false

/-- Entries of running KERNELs of a class that have not ended. -/
def Dev.entriesOf (d : Dev) (cls : Nat) (on : Entry → Bool) : Bool :=
  d.kernels.any fun k => k.entries.any fun e => e.cls == cls && !e.st.isOver && on e

/-- Does an operation run on the target of a FULL test, or wait to start on it (R541)? -/
def Dev.targetBusy (d : Dev) (u : Nat) : Bool :=
  let site := fld u 0 8
  let die := site - 12
  let dies (m : Nat) : Bool := m == 0 || bitAt m die
  match fld u 8 4 with
  | 2 => d.entriesOf 2 fun e => match parseLath e.desc with | some o => dies o.dies | none => false
  | 4 => (d.entriesOf 3 fun e => match parseCopy (e.desc % 2 ^ 1536) with | some k => dies k.dies | none => false)
    || d.runningAll.any fun c => [0x10, 0x11, 0x12].contains c.opcode
  | 6 => (d.entriesOf 4 fun _ => true) || d.runningAll.any (fun c => [0x13, 0x14].contains c.opcode) || !(d.eunit (site - 0x20)).all.isEmpty
  | _ =>
    let slot := if d.split && site ≥ 4 then 1 else 0
    d.engineBusy slot || d.entriesOf 1 fun e => match parseThatch e.desc with | some o => (d.engineOf o.bwd).2.2 == slot | none => false

/-- The defects that a test found, each an error record. -/
def Dev.defectRecords (d : Dev) (c : Option Cmd) (bay test : Nat) (us : List Nat) : Dev :=
  us.foldl (fun d u => d.record
    { kind := 0x0021, bay := some bay, unit := u, tag := (c.map (·.tag)).getD 0, queue := (c.map (·.sq)).getD 0, opcode := (c.map (·.opcode)).getD 0
      detail0 := test }) d

/-- SELFTEST: a test of one unit, with the defects that it finds. -/
def Dev.selftest (d : Dev) (q : Nat) (found : List Nat) : Dev :=
  match d.running? q 0x90 with
  | none => d
  | some c =>
    let test := c.bits 16 0 3
    let u := c.at 20 4
    if !c.only 1 [(16, 0, 4), (20, 0, 40)] || !unitOk u || !testAllows test u then d.complete c stBadParam 0
    else if c.trapped then d.complete c stAborted 0
    else if !d.enginesRun then d
    else if test = 4 && d.targetBusy u then
      (if c.bits 16 3 1 = 0 then d.complete c stBusy 0
      else { d with deferredTests := d.deferredTests ++ [(q, c.bay, c.tag, u)] }.complete c stDeferred 0)
    else (d.defectRecords (some c) c.bay test found).complete c stOk found.length

/-- DEFERRED_SELFTEST: a TURN has completed, and the oldest deferred test of SQ `q` runs; its outcome is in error records only. -/
def Dev.deferredSelftest (d : Dev) (q : Nat) (found : List Nat) : Dev :=
  match d.deferredTests.find? fun t => t.1 == q with
  | none => d
  | some t =>
    if !d.turnEnded || !d.enginesRun then d
    else
      let rest := d.deferredTests.erase t
      { d with deferredTests := rest, turnEnded := !rest.isEmpty }.defectRecords none t.2.1 4 found

/-- CALIBRATE: the monitors, or one stack's PHY, with the spare lanes that its retrain finds: two bits a channel, and the most that any
channel needs. EAVE_LANE_SPARES keeps what bring-up found while BRING READY is set (07 R225). -/
def Dev.calibrate (d : Dev) (q lanes worst : Nat) : Dev :=
  match d.running? q 0x91 with
  | none => d
  | some c =>
    let target := c.bits 16 0 2
    let u := c.at 20 4
    let phy := target == 3
    if !c.only 1 ([(16, 0, 2)] ++ (if phy then [(20, 0, 32)] else [])) || target = 0
      || (phy && !(unitOk u && inRange 0x20 0x3F (fld u 0 8) && fld u 8 4 == 0)) then d.complete c stBadParam 0
    else if c.trapped then d.complete c stAborted 0
    else if !phy then d.complete c stOk 0
    else if !d.enginesRun then d
    else
      let used := (upFrom 0 32).map fun i => fld lanes (2 * i) 2
      if worst > 2 || used.any (fun n => n == 3) then
        (d.record { kind := 0x0021, bay := some c.bay, unit := u, tag := c.tag, queue := c.sq, opcode := c.opcode, status := stUncorr, detail0 := target }).complete
          c stUncorr 0
      else (if d.ready then d else d.wr .eaveLaneSpares (fld u 0 8 - 0x20) lanes).complete c stOk (sumN used)

/-! ## Rows of other chapters after which an underlay may go on -/

/-- A frame that was resent too often fails; a set whose mirror copy it carried fails with it. -/
def Dev.frameResendRow (d : Dev) (dst vc seq : Nat) : Dev :=
  let f? := d.fab.frames.find? fun f => f.dst == dst && f.vc == vc && f.seq == seq
  let d1 := d.frameResendTimeout dst vc seq
  match f? with
  | none => d1
  | some f =>
    if f.kind ≠ fkMirror || d1.fab.frames.any (fun g => g.dst == dst && g.vc == vc && g.seq == seq) then d1
    else match d1.ulSets.find? fun s => !s.mirrored && s.st == 1 && f.words.take 3 == [s.bay, s.rank, s.id] with
      | some s => d1.setFails s stLinkLost
      | none => d1

end Sys2Proof.Machine
end

