-- ==== Sys2Proof/Machine/HostRegs.lean ====
section
/-!
DEFINITION. Machine/HostRegs.lean: what the host reads and writes through the BARs (00 R6 to R9, R546; 16 R458 to R464): which
function answers, what a register shows, what a write of one does.
Where the spec is silent or is read by inference: DESIGN CHOICE logs 9, 43, 44; PRESUMED log 12; DEDUCED log 13 (notes/assumptions).
-/
namespace Sys2Proof.Machine

/-! ## Who answers (R454, R456) -/

/-- The host's data link is up. -/
def Dev.linkUp (d : Dev) : Bool := d.rbit .hostifLinkSts 0 9

/-- An Unsupported Request is returned and counted. -/
def Dev.unsupported (d : Dev) : Dev := (d.sb .hostifErr 0 2 true).send .host 3 []

/-- Does function `fn` answer: not in D3hot, and there? -/
def Dev.answers (d : Dev) (fn : Nat) : Bool := !d.host.d3.contains fn && d.functionThere fn

/-- A host request that one of the functions `fns` takes: without a link none comes, and a function that is in D3hot
or absent does not answer. -/
def Dev.hostTakes (d : Dev) (fns : List Nat) (f : Dev → Dev) : Dev :=
  if !d.linkUp then d else if fns.any d.answers then f d else d.unsupported

/-- A host write of `bytes` bytes to a block that answers from LOAD_GABLE on; before it, it is ignored (R460). -/
def Dev.hostWrites (d : Dev) (fns : List Nat) (bytes : Nat) (f : Dev → Dev) : Dev :=
  d.hostTakes fns fun d => let d1 := d.rx bytes; if d1.stepDone 1 then f d1 else d1

/-- A host write of a register of bay `b`'s windows, through the PF or the bay's function (R461). -/
def Dev.bayWrites (d : Dev) (b bytes : Nat) (f : Dev → Dev) : Dev := if b ≥ 16 then d else d.hostWrites [0, b] bytes f

/-- A doorbell write through BAR2 of the function of bay `b` (R459). -/
def Dev.bellWrites (d : Dev) (b bytes : Nat) (f : Dev → Dev) : Dev := if b ≥ 16 then d else d.hostWrites [b] bytes f

/-- A host write to BRING, HOSTIF or the staging window, which answer at once. -/
def Dev.hostWritesEarly (d : Dev) (bytes : Nat) (f : Dev → Dev) : Dev := d.hostTakes [0] fun d => f (d.rx bytes)

/-- The same for a row that acts on the limits too. -/
def State.hostWritesEarly (s : State) (bytes : Nat) (f : State → State) : State :=
  if !s.dev.linkUp then s
  else if s.dev.answers 0 then f { s with dev := s.dev.rx bytes }
  else { s with dev := s.dev.unsupported }

/-- The offset in PF BAR0 of an offset in BAR0 of function `fn`: a VF shows its bay's windows (Table 16-4); `none` where nothing lies. -/
def pfOffset (fn off : Nat) : Option Nat :=
  if fn = 0 then some off
  else if off < 0x1000 then some (0x10000 + fn * 0x1000 + off)
  else if 0x1000 ≤ off ∧ off < 0x1400 then some (0x28000 + fn * 0x400 + (off - 0x1000))
  else if 0x2000 ≤ off ∧ off < 0x3000 then some (0x60000 + fn * 0x1000 + (off - 0x2000))
  else if 0x3000 ≤ off ∧ off < 0x4000 then some (0x70000 + fn * 0x1000 + (off - 0x3000))
  else none

/-- BAR0 of a function: 64 MiB, or 16 KiB of a VF (Table 16-2). -/
def barSize (fn : Nat) : Nat := if fn = 0 then 0x4000000 else if fn < 16 then 0x4000 else 0

/-- Does an offset answer before LOAD_GABLE (R460)? -/
def early0 (off : Nat) : Bool := decide (off < 0x3000) || decide (0x1000000 ≤ off)

/-- Does an access of `size` bytes break R6 at an offset of PF BAR0? -/
def breaksR6 (off size : Nat) : Bool :=
  (size != 4 && size != 8) || off % size != 0 || (size == 8 && match findReg off with
    | some (r, _, _) => r.place.bits == 32
    | none => false)

/-! ## What registers show -/

/-- The arithmetic clock now in MHz: half in early service, 0 while it is gated (17 R496; 18 R509, R518). -/
def State.clockNow (s : State) : Nat :=
  if s.dev.sarking || s.dev.powerHold then 0 else if s.dev.ready then s.lim.clock else s.lim.clock / 2

/-- The peer that REEDLINE_PEER_SEL names. -/
def Dev.peerSel (d : Dev) : Option Peer := d.fab.peers[d.fd .reedlinePeerSel 0 0 10]?

/-- FASCIA_PORTS of die `f`. -/
def Dev.fasciaView (d : Dev) (f : Nat) : Nat :=
  let bits (n base : Nat) (p : Nat → Bool) : Nat := sumN ((upFrom 0 n).map fun i => if p (base + i) then 2 ^ i else 0)
  mkFields [(0, 9, bits 9 (9 * f) d.portUp?), (9, 2, bits 2 (2 * f) fun e => d.rbit .ethPortSts e 0)
    , (11, 2, bits 2 (2 * f) fun p => d.fd .nvmePortSts p 0 2 == 2), (13, 1, if f == 0 && d.linkUp then 1 else 0)]

/-- The connection that the ETH_CONN registers show. -/
def Dev.connView (d : Dev) : Conn := d.conn d.connSel

/-- The value that a register instance shows: what it holds, or what it is made of. -/
def State.regView (s : State) (r : Reg) (i : Nat) : Nat :=
  let d := s.dev
  match r with
  | .purlinNow => d.now
  | .thatchArraySts => if i ≠ 0 then 0
    else setFld (setFld (d.rd .thatchArraySts 0) 4 1 (bit (d.engineBusy 0))) 5 1 (bit (d.engineBusy 1))
  | .identPart => setFld (d.rd .identPart 0) 20 4 Config.stepping
  | .powerClock => mkFields [(0, 16, s.clockNow), (16, 16, s.lim.clockLimit)]
  | .powerLimit => setFld (d.rd .powerLimit 0) 0 16 s.lim.powerLimit
  | .powerCreditJ => min (d.pow.credit / (2000000 * max 1 s.lim.recPower)) (2 ^ 32 - 1)
  | .powerElecUs => 10 * d.pow.elec.length
  | .powerEnergyJ => d.pow.energy / 1000000
  | .reedlineRouteData => d.routeEntry (d.fd .reedlineRouteSel 0 0 15)
  | .reedlinePeerInfo => match d.peerSel with
    | some p => mkFields [(0, 15, p.dev), (16, 10, p.domain), (26, 2, p.st), (28, 1, if p.direct then 1 else 0), (32, 16, p.level)]
    | none => 0
  | .reedlinePeerSerial => match d.peerSel with
    | some p => p.serial
    | none => 0
  | .reedlinePeers => d.fab.peers.length
  | .ethConnCfg => setFld d.connView.cfg 8 3 d.connView.st
  | .ethConnLocalQpn => d.connView.lqpn
  | .ethConnRemoteQpn => d.connView.rqpn
  | .ethConnPsn => d.connView.psn
  | .ethConnErr => d.connView.err
  | .ethConnGidLo => d.connView.gidLo
  | .ethConnGidHi => d.connView.gidHi
  | .fasciaPorts => d.fasciaView i
  | .bringDefectData => match d.bring.defects[d.fd .bringDefectSel 0 0 12]? with
    | some e => e.1 + (if e.2 then 2 ^ 32 else 0)
    | none => 0
  | .baySqsOpen => (d.sqs.filter fun e => e.2.bay == i).length
  | .bayCqsOpen => (d.cqs.filter fun e => e.2.bay == i).length
  | .bayT1QuotaUsed => d.quotaUsed i 1
  | .bayT1PoolUsed => d.poolUsed i 1
  | .bayT2Mapped => d.t2Mapped i
  | .bayT3QuotaUsed => d.quotaUsed i 3
  | .bayT3PoolUsed => d.poolUsed i 3
  | .bayT4QuotaUsed => d.quotaUsed i 4
  | .bayT4PoolUsed => d.poolUsed i 4
  | .bayObjects => (d.objs.filter fun o => o.bay == i).length
  | .bayFaultedObjs => (d.objs.filter fun o => o.bay == i && o.fault).length
  | .bayQuotaT1 => d.quota i 1
  | .bayQuotaT2 => d.quota i 2
  | .bayQuotaT3 => d.quota i 3
  | .bayQuotaT4 => d.quota i 4
  | .tierT1Capacity => d.capacity 1
  | .tierT1PoolFree => d.poolFree 1
  | .tierT3PoolFree => d.poolFree 3
  | .tierT4PoolFree => d.poolFree 4
  | .errlogUlSts => (d.ulSets.filter fun x => x.st == 1).length
  | .errlogUlArea => d.ulArea
  | .errlogUlAreaFree => d.ulAreaFree
  | _ => d.rd r i

/-! ## MSI-X tables (13 R398) -/

/-- A 32-bit word of the MSI-X block of function `f`. -/
def Dev.msixRead (d : Dev) (f o : Nat) : Nat :=
  if o < 0x800 then d.msixWord f (o / 4 * 4)
  else if o < 0x810 then
    sumN ((upFrom 0 32).map fun i => if (smFind d.msixPending (f * 128 + 8 * (o / 4 * 4 - 0x800) + i)).isSome then 2 ^ i else 0)
  else 0

/-- Write a word of a table; a vector that is unmasked sends the message that was pending. -/
def Dev.msixPut (d : Dev) (f o v : Nat) : Dev :=
  if o ≥ 0x800 then d
  else
    let w := if o % 16 = 12 then v % 2 else if o % 16 = 0 then v / 4 * 4 % 2 ^ 32 else v % 2 ^ 32
    let d1 := { d with msix := smPut d.msix (f * 0x1000 + o) w }
    let key := f * 128 + o / 16
    if o % 16 = 12 && w == 0 && (smFind d1.msixPending key).isSome then
      { d1 with msixPending := smDel d1.msixPending key }.signal f (o / 16)
    else d1

/-! ## Writes -/

/-- A write of a register's fields by their types (Table 0-5); a value out of a field's range makes the write none at all (R546). -/
def Dev.regPut (d : Dev) (r : Reg) (i v : Nat) : Dev :=
  let written (f : RField) : Bool := f.ty == .rw || f.ty == .rwl
  let part (n : Nat) (f : RField) : Nat :=
    let x := fld v f.lo f.w
    match f.ty with
    | .rw => setFld n f.lo f.w x
    | .rwl => if d.ready then n else setFld n f.lo f.w x
    | .rw1c => if x = 0 then n else setFld n f.lo f.w 0
    | _ => n
  if r.fields.any fun f => written f && !f.allows (fld v f.lo f.w) then d else d.wr r i (r.fields.foldl part (d.rd r i))

/-- A register with an ENABLE bit whose change has a meaning of its own: `on`, `off`, or the other fields while it is off. -/
def Dev.enablePut (d : Dev) (r : Reg) (i v : Nat) (on off : Dev → Dev) : Dev :=
  if bitAt v 0 then (if d.rbit r i 0 then d else on d) else if d.rbit r i 0 then off d else d.regPut r i v

/-- REEDLINE_PORT_CTRL: RETRAIN, or ENABLE (15 R424). -/
def Dev.portCtrlPut (d : Dev) (p v : Nat) : Dev :=
  if bitAt v 1 then d.portRetrain p v
  else
    let d1 := d.sb .reedlinePortCtrl p 0 (bitAt v 0)
    if bitAt v 0 then (if d1.fabricStarted && d1.portState p == 0 then d1.sf .reedlinePortSts p 0 2 1 else d1)
    else (if d1.portState p ≥ 2 then d1.takeDown p else d1).sf .reedlinePortSts p 0 2 0

/-- A field of the selected connection, which takes writes in INIT only (15 R451). -/
def Dev.connPut (d : Dev) (f : Conn → Conn) : Dev := if d.connView.st ≠ 1 then d else d.setConn d.connSel (f d.connView)

/-- PURLIN_CTRL: the master is LOCKED; a module that stops being it is FREE until an exchange succeeds (15 R443). -/
def Dev.purlinCtrlPut (d : Dev) (v : Nat) : Dev :=
  let was := d.rbit .purlinCtrl 0 0
  let d1 := d.regPut .purlinCtrl 0 v
  if was = d1.rbit .purlinCtrl 0 0 then d1
  else if was then ((d1.sf .purlinSts 0 0 2 0).sf .purlinSts 0 4 8 0xFF).modFab fun x => { x with time := { x.time with t1 := none, close := 0 } }
  else d1.becomeMaster

/-- PURLIN_HOLD_CTRL: SCOPE, GO and RELEASE (15 R447). -/
def Dev.holdCtrlPut (d : Dev) (v : Nat) : Dev :=
  if !inRange 1 2 (fld v 2 2) then d
  else
    let d1 := d.sf .purlinHoldCtrl 0 2 2 (fld v 2 2)
    let d2 := if bitAt v 0 then d1.holdGo v else d1
    if bitAt v 1 then (d2.holdRelease v).takesGo else d2

/-- HOSTIF_LINK_CTRL (R482): TARGET_SPEED, and RETRAIN, which trains at the highest common speed up to it. -/
def Dev.hostLinkRetrain (d : Dev) (v : Nat) : Dev :=
  if !inRange 1 6 (fld v 1 3) then d
  else
    let d1 := d.sf .hostifLinkCtrl 0 1 3 (fld v 1 3)
    if !bitAt v 0 || !d.linkUp then d1
    else
      let sp := min d.host.common (fld v 1 3)
      (d1.sf .hostifLinkSts 0 0 3 sp).sb .hostifLinkSts 0 8 (sp == 6)

/-- HOSTIF_ERR: bits cleared by ones; with HOST_LOSS gone SQs are read again (19 R538). -/
def Dev.hostErrPut (d : Dev) (v : Nat) : Dev :=
  let d1 := d.regPut .hostifErr 0 v
  if d.rbit .hostifErr 0 3 && !d1.rbit .hostifErr 0 3 then { d1 with sqs := d1.sqs.map fun e => (e.1, { e.2 with stopTail := none }) } else d1

/-- A whole value reaches a register. -/
def State.regSet (s : State) (r : Reg) (i v : Nat) : State :=
  let onDev (f : Dev → Dev) : State := { s with dev := f s.dev }
  let d := s.dev
  match r with
  | .bringCmd => s.bringCmd (fld v 0 8)
  | .bayTrapCtrl => onDev fun d => if bitAt v 0 then d.trapClear i else d
  | .numstatCtrl => onDev fun d => d.enablePut .numstatCtrl i v (·.numstatEnable i v) (·.numstatDisable i v)
  | .pfstatCtrl => onDev fun d => (if bitAt v 0 then d.pfstatReset i else d).regPut .pfstatCtrl i v
  | .thatchArrayCtrl => onDev fun d => if inRange 1 2 (fld v 0 2) then d.arrayReq (fld v 0 2) else d
  | .bayAdminCtrl => onDev fun d => d.enablePut .bayAdminCtrl i v (·.adminEnable i v) (·.adminDisable i v)
  | .bayAdminSqAddr | .bayAdminCqAddr | .bayAdminHeadAddr => if d.rbit .bayAdminCtrl i 0 then s else onDev fun d => d.regPut r i v
  | .bayEvqCtrl => onDev fun d => d.enablePut .bayEvqCtrl i v (·.evqEnable i v) (·.evqDisable i v)
  | .eaveHotThresh => onDev fun d => (d.regPut r i v).eaveRethresh i
  | .bayEvqHead => onDev fun d => d.evqHeadWrite i (fld v 0 16)
  | .queueInspectSel => onDev fun d => d.queueInspect v
  | .tierT4Bytes => if v > d.rd .tierT4Limit 0 then s else onDev fun d => d.regPut r i v
  | .reedlineRouteData => onDev fun d => d.routeWrite v
  | .reedlinePeerOp => onDev fun d => if fld v 16 2 = 1 then d.peerAdd v else d.peerRemove v
  | .reedlinePortCtrl => onDev fun d => d.portCtrlPut i v
  | .ethConnCtrl => onDev fun d => if fld v 0 2 = 1 then d.connAlloc v else if fld v 0 2 = 2 then d.connConnect v else d.connDestroyCmd v
  | .ethConnCfg => if fld v 6 2 = 3 then s else onDev fun d => d.connPut fun c => { c with cfg := fld v 0 8 }
  | .ethConnRemoteQpn => onDev fun d => d.connPut fun c => { c with rqpn := fld v 0 24 }
  | .ethConnPsn => onDev fun d => d.connPut fun c => { c with psn := fld v 0 24 }
  | .ethConnGidLo => onDev fun d => d.connPut fun c => { c with gidLo := v }
  | .ethConnGidHi => onDev fun d => d.connPut fun c => { c with gidHi := v }
  | .ethPortCtrl => onDev fun d => let d1 := d.regPut r i v; if d1.rbit .ethPortCtrl i 0 then d1 else d1.ethLinkChange i false
  | .purlinCtrl => onDev fun d => d.purlinCtrlPut v
  | .purlinSet => onDev fun d => d.purlinSet v
  | .purlinHoldCtrl => onDev fun d => d.holdCtrlPut v
  | .hostifLinkCtrl => onDev fun d => d.hostLinkRetrain v
  | .hostifBar4Base => if v % 2 ^ d.fd .hostifBar4Size 0 0 6 ≠ 0 ∨ v ≥ 2 ^ 48 then s else onDev fun d => d.regPut r i v
  | .hostifErr => onDev fun d => d.hostErrPut v
  | .powerTripCtrl => onDev fun d => d.tripClear v
  | _ => onDev fun d => d.regPut r i v

/-- A write of `size` bytes at an offset of PF BAR0 (R6, R7). -/
def State.busPut (s : State) (o size v : Nat) : State :=
  let d := s.dev
  if 0x1000000 ≤ o then { s with dev := d.stageWrite (o - 0x1000000) size v }
  else if 0x10000 ≤ o ∧ o < 0x20000 then
    let f := o / 0x1000 % 16
    let d1 := d.msixPut f (o % 0x1000) (v % 2 ^ 32)
    { s with dev := if size = 8 then d1.msixPut f (o % 0x1000 + 4) (v / 2 ^ 32) else d1 }
  else match findReg o with
    | none => s
    | some (r, i, hi) =>
      if r.place.bits = 64 ∧ size = 4 then
        let a := r.addr i
        if hi then
          let low := (smFind d.writeLatch a).getD (fld (d.rd r i) 0 32)
          { s with dev := { d with writeLatch := smDel d.writeLatch a } }.regSet r i (low + v % 2 ^ 32 * 2 ^ 32)
        else { s with dev := { d with writeLatch := smPut d.writeLatch a (v % 2 ^ 32) } }
      else s.regSet r i (v % 2 ^ (8 * size))

/-- REGISTER_WRITE: function `fn` writes `size` bytes at an offset of its BAR0. -/
def State.registerWrite (s : State) (fn off size v : Nat) : State :=
  let d := s.dev
  if !d.linkUp then s
  else if !d.answers fn || off ≥ barSize fn then { s with dev := d.unsupported }
  else match pfOffset fn off with
    | none => { s with dev := d.rx size }
    | some o =>
      if breaksR6 o size then { s with dev := d.unsupported }
      else
        let s1 := { s with dev := d.rx size }
        if d.stepDone 1 || early0 o then s1.busPut o size v else s1

/-! ## Reads -/

/-- The `size` bytes at an offset of PF BAR0. -/
def State.busGet (s : State) (o size : Nat) : Nat :=
  let d := s.dev
  if 0x1000000 ≤ o then ofLe (readBytes d.stage (o - 0x1000000) size)
  else if 0x10000 ≤ o ∧ o < 0x20000 then
    let f := o / 0x1000 % 16
    d.msixRead f (o % 0x1000) + (if size = 8 then 2 ^ 32 * d.msixRead f (o % 0x1000 + 4) else 0)
  else if 0x51000 ≤ o ∧ o < 0x52000 then bytesAt (smGet 0 d.errRing ((o - 0x51000) / 64)) (o % 64) size
  else match findReg o with
    | none => 0
    | some (r, i, hi) =>
      let v := s.regView r i
      if hi then (smFind d.readLatch (r.addr i)).getD (v / 2 ^ 32) else v % 2 ^ (8 * size)

/-- What a read does beside answering: RC fields clear; the low half latches the upper one, and the upper half's read takes it (R7, R9). -/
def State.readDone (s : State) (o size : Nat) : Dev :=
  let d := s.dev
  if 0x1000000 ≤ o then d
  else match findReg o with
    | none => d
    | some (r, i, hi) =>
      let d1 := if r.fields.any (fun f => f.ty == .rc) then
          d.wr r i (r.fields.foldl (fun n f => if f.ty == .rc then setFld n f.lo f.w 0 else n) (d.rd r i))
        else d
      if r.place.bits = 64 ∧ size = 4 then
        (if hi then { d1 with readLatch := smDel d1.readLatch (r.addr i) }
         else { d1 with readLatch := smPut d1.readLatch (r.addr i) (s.regView r i / 2 ^ 32) })
      else d1

/-- A read of `size` bytes at an offset of a function's BAR0; the answer goes to the host. -/
def State.registerRead (s : State) (fn off size : Nat) : State :=
  let d := s.dev
  let answer (d : Dev) (v : Nat) : State := { s with dev := { (d.tx size).send .host 2 [v] with reply := [v] } }
  if !d.linkUp then s
  else if !d.answers fn || off ≥ barSize fn then { s with dev := d.unsupported }
  else match pfOffset fn off with
    | none => answer d 0
    | some o =>
      if breaksR6 o size then { s with dev := d.unsupported }
      else if !d.stepDone 1 && !early0 o then answer d 0
      else answer (s.readDone o size) (s.busGet o size)

/-- REGISTER_READ_CLEAR: a read in the register's own width; its RC fields clear. -/
def State.registerReadClear (s : State) (fn off : Nat) : State :=
  let wide := match (pfOffset fn off).bind findReg with
    | some (r, _, false) => r.place.bits == 64
    | _ => false
  s.registerRead fn off (if wide then 8 else 4)

/-- REGISTER_LOW_HALF_READ: a 32-bit read. -/
def State.registerLowHalfRead (s : State) (fn off : Nat) : State := s.registerRead fn off 4

/-! ## BAR4 and stray requests -/

/-- A BAR4 access of `n` bytes at an offset of the window (R462). -/
def Dev.bar4Request (d : Dev) (off n : Nat) (v : Option Nat) : Dev :=
  d.hostTakes [0] fun d =>
    if n = 0 || off + n > 2 ^ d.fd .hostifBar4Size 0 0 6 then d.unsupported
    else (if v.isSome then d.rx n else d).bar4Access (d.rd .hostifBar4Base 0 + off) n v

/-- BAR4_READ and BAR4_WRITE. -/
def Dev.bar4Read (d : Dev) (off n : Nat) : Dev := d.bar4Request off n none
def Dev.bar4Write (d : Dev) (off n v : Nat) : Dev := d.bar4Request off n (some v)

/-- UNSUPPORTED_REQUEST: a request that matches no BAR or breaks R6. -/
def Dev.unsupportedRequest (d : Dev) : Dev := if d.linkUp then d.unsupported else d

end Sys2Proof.Machine
end

