-- ==== Sys2Proof/Machine/Host.lean ====
section
/-!
DEFINITION. Machine/Host.lean: power, resets and the sideband pins (16 R477 to R480, 18 R508), functions and their resets (R454,
R458), and the host link (R453, R456, R457; 19 R538).
Where the spec is silent or is read by inference: PRESUMED log 12; DEDUCED logs 13, 53, 68; DESIGN CHOICE log 61 (notes/assumptions).
-/
namespace Sys2Proof.Machine

/-! ## Resets (R479, R508) -/

/-- The module when every die and base die has been reset: what lies outside the dies stays (the host's memory, the pins and SLOT_ID,
the TAP, underlay sets that are COMPLETE on flash, messages sent), and HOLD is answered as before. -/
def Dev.coldReset (d : Dev) : Dev :=
  let kept := d.ulSets.filter fun s => s.st == 2
  let d1 : Dev :=
    { free := d.free, hostMem := d.hostMem, hostBad := d.hostBad, sent := d.sent, reply := d.reply
      ulSets := kept, ulSerial := d.ulSerial, ulPages := d.ulPages.filter fun u => kept.any fun s => s.serial == u.set
      host := { jtag := d.host.jtag, boundary := d.host.boundary } }
  let pin := !d.rbit .hostifSideband 0 4 && d.pgood
  let d2 := ((d1.wr .hostifSideband 0 (d.rd .hostifSideband 0)).sb .hostifSideband 0 3 true).wr .identSlot 0 (d.rd .identSlot 0)
  if pin then (d2.sb .purlinHoldSts 0 0 true).sb .purlinHoldSts 0 1 true else d2

/-- The same for a state: the limits are those before IDENTIFY. -/
def State.coldReset (s : State) (f : Dev → Dev) : State := { s with lim := {}, dev := f s.dev.coldReset }

/-- PGOOD goes low, and HOLD is not answered any more. -/
def Dev.pgoodLow (d : Dev) : Dev := ((d.sb .hostifSideband 0 1 false).sb .hostifSideband 0 5 true).wr .purlinHoldSts 0 0

/-- Power conversion stops: all contents are lost. -/
def State.powerOff (s : State) : State := s.coldReset fun d => { d with ulSets := [], ulPages := [] }.pgoodLow

/-- PWR_EN_HIGH: power conversion starts. -/
def Dev.pwrEnHigh (d : Dev) : Dev := d.sb .hostifSideband 0 0 true

/-- PWR_EN_LOW (R479). -/
def State.pwrEnLow (s : State) : State :=
  let t := s.powerOff
  { t with dev := t.dev.sb .hostifSideband 0 0 false }

/-- RAILS_GOOD (Table 16-12): PGOOD is released, SLOT_ID sampled, the boot ROM starts, and HOLD is answered. -/
def State.railsGood (s : State) (slot : Nat) : State :=
  if !s.dev.rbit .hostifSideband 0 0 || s.dev.pgood then s
  else s.coldReset fun d =>
    let d1 := (d.sb .hostifSideband 0 1 true).wr .identSlot 0 (slot % 64)
    if d.rbit .hostifSideband 0 4 then d1.sb .hostifSideband 0 5 true else d1.holdPinAssert

/-- RAIL_FAILURE (R477): PGOOD is driven low. -/
def Dev.railFailure (d : Dev) : Dev := if d.pgood then d.sb .hostifSideband 0 1 false else d

/-- PERST_ASSERT (R479): a fundamental reset, whatever the state. -/
def State.perstAssert (s : State) : State :=
  if !s.dev.pgood then { s with dev := s.dev.sb .hostifSideband 0 2 false } else s.coldReset fun d => d.sb .hostifSideband 0 2 false

/-- PERST_RELEASE (R453, Table 16-12): the link trains at the highest common speed and width. -/
def Dev.perstRelease (d : Dev) (speed width : Nat) : Dev :=
  let d1 := d.sb .hostifSideband 0 2 true
  if !d.pgood || d.rbit .hostifSideband 0 2 || !inRange 1 6 speed || !([4, 8, 16].contains width) then d1
  else
    { d1.wr .hostifLinkSts 0 (mkFields [(0, 3, speed), (3, 5, width), (8, 1, if speed = 6 then 1 else 0), (9, 1, 1)]) with
      host := { d1.host with common := speed } }

/-- SUPPLY_OVERVOLTAGE (18 R508): above 60 V, as PWR_EN low. -/
def State.supplyOvervoltage (s : State) (mv : Nat) : State := if mv ≤ 60000 then s else s.powerOff

/-- SUPPLY_RESET (18 R508): below 42 V, PGOOD falls and every die resets. -/
def State.supplyReset (s : State) (mv : Nat) : State := if mv ≥ 42000 || !s.dev.pgood then s else s.coldReset Dev.pgoodLow

/-! ## Functions (R454, R458) -/

/-- Does a BAY_CONFIG that runs reset bay `b`? -/
def Dev.configResets (d : Dev) (b : Nat) : Bool :=
  d.runningAll.any fun c => c.opcode == 0xA0 && (c.bits 16 0 2 == 0 || c.bits 16 0 2 == 1) && c.bits 17 0 4 == b

/-- RESETs that a function's reset began end when nothing of their bay runs; then the handshakes are answered. -/
def Dev.resetsGo (d : Dev) : Dev :=
  let d1 := (upFrom 1 15).foldl (fun d b =>
    if (d.bay b).resetting && !d.configResets b && d.resetReady b (2 ^ 64) then d.resetEnd b else d) d
  let done (x : Nat) : Bool := if x = 16 then (upFrom 1 15).all fun b => !(d1.bay b).resetting else !(d1.bay x).resetting
  if d1.host.flr.isEmpty then d1
  else
    let d2 := { d1 with host := { d1.host with flr := d1.host.flr.filter fun x => !done x } }
    (d1.host.flr.filter done).foldl (fun d x => d.send .host 4 [x]) d2

/-- VF_FLR: a Function Level Reset of VF `b`. -/
def Dev.vfFlr (d : Dev) (b : Nat) : Dev :=
  if !inRange 1 15 b || !d.linkUp || !d.functionThere b then d
  else ({ d with host := { d.host with flr := d.host.flr ++ [b] } }.resetBegin b).resetsGo

/-- VF_DISABLE: VF Enable is cleared; the VFs are absent from then on. -/
def Dev.vfDisable (d : Dev) : Dev :=
  if !d.linkUp then d
  else ((upFrom 1 15).foldl (fun (d : Dev) b => d.resetBegin b)
    { d with host := { d.host with flr := d.host.flr ++ [16], vfOff := true } }).resetsGo

/-- D3HOT_TRANSITION: a function enters D3hot or returns to D0 as it was. -/
def Dev.d3hotTransition (d : Dev) (fn : Nat) (d3 : Bool) : Dev :=
  if fn ≥ 16 then d
  else
    let l := d.host.d3.filter fun n => n != fn
    { d with host := { d.host with d3 := if d3 then l ++ [fn] else l } }

/-- RESIZABLE_BAR_WRITE: BAR4 of the PF, 1 GiB to 2 TiB. -/
def Dev.resizableBarWrite (d : Dev) (log2 : Nat) : Dev := if inRange 30 41 log2 then d.sf .hostifBar4Size 0 0 6 log2 else d

/-! ## The link (R456, R457, R538) -/

/-- HOST_LINK_DOWN: the data link goes down while PERST_N is high. -/
def Dev.hostLinkDown (d : Dev) : Dev :=
  if !d.linkUp then d else { d.sb .hostifLinkSts 0 9 false with host := { d.host with downAt := some d.now } }

/-- HOST_LINK_UP: it returns. -/
def Dev.hostLinkUp (d : Dev) (speed width : Nat) : Dev :=
  if d.host.downAt.isNone || !inRange 1 6 speed || !([4, 8, 16].contains width) then d
  else
    { d.wr .hostifLinkSts 0 (mkFields [(0, 3, speed), (3, 5, width), (8, 1, if speed = 6 then 1 else 0), (9, 1, 1)]) with
      host := { d.host with downAt := none, common := max d.host.common speed } }

/-- HOST_LOSS: the link has stayed down for 1 ms. Queues in host memory stop, those in T1 at their tails of now, and STEPs after
their current step. -/
def Dev.hostLoss (d : Dev) : Dev :=
  match d.host.downAt with
  | none => d
  | some t =>
    if d.rbit .hostifErr 0 3 || (d.stepDone 1 && decide (d.now < t + 1000000)) then d
    else
      let d1 := { d with sqs := d.sqs.map fun (e : Nat × Sq) => (e.1, if d.hostRing e.2 then e.2 else { e.2 with stopTail := some e.2.tail }) }
      let d2 := (d1.sb .hostifErr 0 3 true).record { kind := 0x0063 }
      d2.eachRunning Dev.stepStops

/-- An access of the module to host memory ends with an error: the command that made it completes UNCORRECTABLE, and an object whose
placement made it records the fault; a ring read puts the queue into ERROR. `bit`: the bit of HOSTIF_ERR. -/
def Dev.hostAccessFails (d : Dev) (q bit : Nat) : Dev :=
  let d1 := (d.sb .hostifErr 0 bit true).record { kind := 0x0065, detail0 := 2 ^ bit }
  match (smFind d1.sqs q).bind (·.run) with
  | some c =>
    let d2 := match d1.objs.find? fun o => o.place.any fun p => p.sq == q with
      | some o => d1.objFault c o (match o.place with | some p => p.left.headD 0 * p.tileBytes | none => 0)
      | none => d1
    d2.endCmd c stUncorr
  | none => match smFind d1.sqs q with
    | some s => if d1.hostRing s then d1.sqFault q 3 s.head else d1
    | none => d1

/-- HOST_CPL_TIMEOUT (R456): a completion has not come within HOSTIF_CPL_TIMEOUT_US. -/
def Dev.hostCplTimeout (d : Dev) (q : Nat) : Dev := if (smFind d.sqs q).isNone then d else d.hostAccessFails q 1

/-- HOST_COMPLETION_RX (R456): the answer to a read of host memory; `bad`: poisoned, or with an error status. -/
def Dev.hostCompletionRx (d : Dev) (q bytes : Nat) (bad : Bool) : Dev :=
  if !d.linkUp then d else if bad then (d.rx bytes).hostAccessFails q 0 else d.rx bytes

end Sys2Proof.Machine
end

