-- ==== Sys2Proof/Machine/Manage.lean ====
section
/-!
DEFINITION. Machine/Manage.lean: management (16 R469 to R472): MCTP control, SPDM, PLDM, I3C, and the JTAG port (R476). An answer is
handed to its binding as a message and shown in `reply`: a completion code or message code first, then its words. Codes and flag bits
of the cited DMTF standards are not in the spec.
Where the spec is silent or is read by inference: PRESUMED logs 70, 71, 72 (notes/assumptions).
-/
namespace Sys2Proof.Machine

/-- Change the host side. -/
def Dev.modHost (d : Dev) (f : HostSt → HostSt) : Dev := { d with host := f d.host }

/-- An answer on a binding. -/
def Dev.answer (d : Dev) (i3c : Bool) (words : List Nat) : Dev :=
  { d.send .management (if i3c then 1 else 0) words with reply := words }

/-- A message that comes on a binding is served: PGOOD is high, and the binding is there (the PF's link, or an I3C address). -/
def Dev.managed (d : Dev) (i3c : Bool) (f : Dev → Dev) : Dev :=
  if !d.pgood || !(if i3c then d.fd .fasciaMctpEid 0 16 7 != 0 else d.linkUp) then d else f d

/-! ## MCTP control (R469) -/

/-- SET_ENDPOINT_ID: the bus owner assigns the EID of the binding; 0 and 0xFF are no addresses. -/
def Dev.setEndpointId (d : Dev) (i3c : Bool) (eid : Nat) : Dev :=
  d.managed i3c fun d =>
    if !inRange 1 0xFE eid then d.answer i3c [2]
    else (d.sf .fasciaMctpEid 0 (if i3c then 8 else 0) 8 eid).answer i3c [0, 0, eid]

/-- GET_ENDPOINT_ID. -/
def Dev.getEndpointId (d : Dev) (i3c : Bool) : Dev :=
  d.managed i3c fun d => d.answer i3c [0, d.fd .fasciaMctpEid 0 (if i3c then 8 else 0) 8]

/-- The message types: control, PLDM and SPDM. -/
def mctpTypes : List Nat := [0x00, 0x01, 0x05]

/-- GET_MCTP_VERSION_SUPPORT for a message type, or the base (0xFF). -/
def Dev.getMctpVersionSupport (d : Dev) (i3c : Bool) (ty : Nat) : Dev :=
  d.managed i3c fun d => if ty = 0xFF ∨ mctpTypes.contains ty then d.answer i3c (0 :: Config.mctpVersions ty) else d.answer i3c [0x80]

/-- GET_MESSAGE_TYPE_SUPPORT. -/
def Dev.getMessageTypeSupport (d : Dev) (i3c : Bool) : Dev := d.managed i3c fun d => d.answer i3c ([0, mctpTypes.length] ++ mctpTypes)

/-- GET_ENDPOINT_UUID. -/
def Dev.getEndpointUuid (d : Dev) (i3c : Bool) : Dev := d.managed i3c fun d => d.answer i3c [0, Config.uuid]

/-! ## SPDM (R471) -/

/-- An SPDM ERROR: 1 InvalidRequest, 3 Busy, 4 UnexpectedRequest. -/
def Dev.spdmError (d : Dev) (i3c : Bool) (code : Nat) : Dev := d.answer i3c [0x7F, code]

/-- GET_VERSION: 1.2 only; the negotiation starts anew. -/
def Dev.getVersion (d : Dev) (i3c : Bool) : Dev := d.managed i3c fun d => (d.modHost fun x => { x with spdm := 1 }).answer i3c [0x04, 0x12]

/-- GET_CAPABILITIES: CERT_CAP, CHAL_CAP and MEAS_CAP with signatures. -/
def Dev.getCapabilities (d : Dev) (i3c : Bool) : Dev :=
  d.managed i3c fun d => if d.host.spdm = 0 then d.spdmError i3c 4 else (d.modHost fun x => { x with spdm := 2 }).answer i3c [0x61, 0x16]

/-- NEGOTIATE_ALGORITHMS: ECDSA over P-256 (bit 4 of the offered masks) and SHA-256 (bit 0). -/
def Dev.negotiateAlgorithms (d : Dev) (i3c : Bool) (asym hash : Nat) : Dev :=
  d.managed i3c fun d =>
    if d.host.spdm < 2 then d.spdmError i3c 4
    else if !bitAt asym 4 || !bitAt hash 0 then d.spdmError i3c 1
    else (d.modHost fun x => { x with spdm := 3 }).answer i3c [0x63, 0x10, 0x01]

/-- A request that IDENTIFY and the negotiation must precede. -/
def Dev.spdmServed (d : Dev) (i3c : Bool) (f : Dev → Dev) : Dev :=
  d.managed i3c fun d => if !d.rbit .fasciaSpdmSts 0 0 then d.spdmError i3c 3 else if d.host.spdm < 3 then d.spdmError i3c 4 else f d

/-- The chain of slot 0 as SPDM carries it: its length, the root hash, the certificates of the identity EEPROM. -/
def spdmChain : List Byte :=
  let n := 36 + (min chainBytes 48832)
  toLe 4 (n % 2 ^ 16) ++ eepromBytes 8 32 ++ chain

/-- GET_DIGESTS: slot 0. -/
def Dev.getDigests (d : Dev) (i3c : Bool) : Dev := d.spdmServed i3c fun d => d.answer i3c [0x01, 1, sha256 spdmChain]

/-- GET_CERTIFICATE: a part of the chain of slot 0, and how much remains. -/
def Dev.getCertificate (d : Dev) (i3c : Bool) (slot off len : Nat) : Dev :=
  d.spdmServed i3c fun d =>
    if slot ≠ 0 || off ≥ spdmChain.length then d.spdmError i3c 1
    else
      let part := (spdmChain.drop off).take len
      d.answer i3c [0x02, part.length, spdmChain.length - off - part.length, ofLe part]

/-- CHALLENGE: an answer signed by the PUF-derived key, and counted. -/
def Dev.challenge (d : Dev) (i3c : Bool) (slot nonce : Nat) : Dev :=
  d.spdmServed i3c fun d =>
    if slot ≠ 0 then d.spdmError i3c 1
    else
      let said := [0x03, sha256 spdmChain, nonce]
      ((d.addS .fasciaSpdmChallenges 0 1).answer i3c (said ++ [Config.sign d.free said])).tick

/-- The measurements of Table 16-7, from index 1. -/
def Dev.measurements (d : Dev) : List Nat :=
  let hash := (upFrom 0 4).foldl (fun n i => n + 2 ^ (64 * i) * d.rd .gableImageHash i) 0
  [Config.romHash, beWord (toLe 32 hash), d.bring.pegHash, d.bring.recHash, d.rd .reedlineLevel 0]

/-- GET_MEASUREMENTS: how many (index 0), one, or all (0xFF); signed on demand. -/
def Dev.getMeasurements (d : Dev) (i3c : Bool) (index : Nat) (sign : Bool) (nonce : Nat) : Dev :=
  d.spdmServed i3c fun d =>
    let ms := d.measurements
    if index ≠ 0xFF ∧ index > 5 then d.spdmError i3c 1
    else
      let said := 0x60 :: (if index = 0 then [5] else if index = 0xFF then ms else [ms.getD (index - 1) 0])
      if sign then (d.answer i3c (said ++ [nonce, Config.sign d.free (said ++ [nonce])])).tick else d.answer i3c said

/-! ## PLDM (R472) -/

/-- GET_PDR_REPOSITORY_INFO. -/
def Dev.getPdrRepositoryInfo (d : Dev) (i3c : Bool) : Dev := d.managed i3c fun d => d.answer i3c (0 :: Config.pdrInfo)

/-- GET_PDR by record handle. -/
def Dev.getPdr (d : Dev) (i3c : Bool) (handle : Nat) : Dev :=
  d.managed i3c fun d => match Config.pdr handle with
    | [] => d.answer i3c [0x82]
    | bs => d.answer i3c [0, bs.length, ofLe bs]

/-- SENSOR_REFRESH: readings of the numeric sensors 1 to 9 in the resolution of Table 16-8. -/
def Dev.sensorRefresh (d : Dev) (readings : List Nat) : Dev := if !d.pgood then d else d.modHost fun x => { x with sensors := readings.take 9 }

/-- GET_SENSOR_READING: initializing (code 5) until CALIBRATE has ended, then enabled (0) with the reading. -/
def Dev.getSensorReading (d : Dev) (i3c : Bool) (id : Nat) : Dev :=
  d.managed i3c fun d =>
    if !inRange 1 9 id then d.answer i3c [0x80]
    else if !d.stepDone 7 then d.answer i3c [0, 5]
    else d.answer i3c [0, 0, d.host.sensors.getD (id - 1) 0]

/-- The module state of sensor 10. -/
def Dev.moduleState (d : Dev) : Nat :=
  if d.sarking then 4 else if d.reloading then 5 else if d.powerHold then 3 else if d.ready then 2 else 1

/-- GET_STATE_SENSOR_READINGS. -/
def Dev.getStateSensorReadings (d : Dev) (i3c : Bool) (id : Nat) : Dev :=
  d.managed i3c fun d => if id ≠ 10 then d.answer i3c [0x80] else d.answer i3c [0, d.moduleState]

/-! ## I3C (R470) -/

/-- ENTDAA: a module without a dynamic address sends its Provisional ID and takes the address. -/
def Dev.entdaa (d : Dev) (addr : Nat) : Dev :=
  if !d.pgood || d.fd .fasciaMctpEid 0 16 7 != 0 || !inRange 1 127 addr then d
  else (d.sf .fasciaMctpEid 0 16 7 addr).answer true [Config.mipi, d.rd .identSlot 0]

/-! ## JTAG (R476) -/

/-- Select an instruction and answer with what its register holds. -/
def Dev.jtag (d : Dev) (ins : Nat) (words : List Nat) : Dev :=
  if !d.pgood then d else { (d.modHost fun x => { x with jtag := ins }).send .jtag ins words with reply := words }

/-- BYPASS. -/
def Dev.bypass (d : Dev) : Dev := d.jtag 0 []

/-- IDCODE: the stepping, 0x2032, the manufacturer code and 1. -/
def idcodeWord : Nat := mkFields [(28, 4, Config.stepping), (12, 16, 0x2032), (1, 11, Config.jedec), (0, 1, 1)]
def Dev.idcode (d : Dev) : Dev := d.jtag 1 [idcodeWord]

/-- SAMPLE/PRELOAD: the levels of the sideband pins are sampled, and the boundary register is loaded. -/
def Dev.samplePreload (d : Dev) (bits : Nat) : Dev :=
  if !d.pgood then d else (d.jtag 2 [d.rd .hostifSideband 0]).modHost fun x => { x with boundary := bits }

/-- EXTEST, CLAMP and HIGHZ act as BYPASS while READY is set. -/
def Dev.pinTest (d : Dev) (ins : Nat) (words : List Nat) : Dev := if d.ready then d.bypass else d.jtag ins words
def Dev.extest (d : Dev) : Dev := d.pinTest 3 [d.host.boundary]
def Dev.clamp (d : Dev) : Dev := d.pinTest 4 [d.host.boundary]
def Dev.highz (d : Dev) : Dev := d.pinTest 5 []

end Sys2Proof.Machine
end

