-- ==== Sys2Proof/Machine/Meanings.lean ====
section
/-!
DEFINITION. Machine/Meanings.lean: the meaning of every command, one definition for each row of the operation and event table: what
the row does to the module, by the operation of the chapter that states it. The queue of waiting commands and the limits stay, but
where the row says otherwise.
Where the spec is silent or is read by inference: DESIGN CHOICE logs 1, 6, 74 (notes/assumptions).
-/
namespace Sys2Proof.Machine

/-- NOP (R380). -/
def execNop (q : Nat) (s : State) : Out := s.go (·.nopCmd q)

/-- FENCE (R376). -/
def execFence (q : Nat) (s : State) : Out := s.go (·.fenceCmd q)

/-- WAIT_EVENT (R377). -/
def execWaitEvent (q : Nat) (s : State) : Out := s.go (·.waitEventCmd q)

/-- SIGNAL_EVENT (R377). -/
def execSignalEvent (q : Nat) (s : State) : Out := s.go (·.signalEventCmd q)

/-- COPY (R186). -/
def execCopy (q : Nat) (s : State) : Out := s.go (·.copyCmd q)

/-- FILL (R187). -/
def execFill (q : Nat) (s : State) : Out := s.go (·.fillCmd q)

/-- CONVERT (R66). -/
def execConvert (q : Nat) (s : State) : Out := s.go (·.convertCmd q)

/-- GATHER (R209). -/
def execGather (q : Nat) (e : Option Nat) (s : State) : Out := s.go (·.gatherRow q e)

/-- SCATTER_ADD (R211). -/
def execScatterAdd (q : Nat) (e : Option Nat) (s : State) : Out := s.go (·.scatterRow q e)

/-- KERNEL (R381). -/
def execKernel (q : Nat) (s : State) : Out := s.go (·.kernelCmd q)

/-- STEP (R342). -/
def execStep (q : Nat) (s : State) : Out := s.go (·.stepCmd q)

/-- REDUCE_BIND (R271). -/
def execReduceBind (q : Nat) (s : State) : Out := s.go (·.reduceBind q)

/-- REDUCE_UNBIND (R271). -/
def execReduceUnbind (q : Nat) (s : State) : Out := s.go (·.reduceUnbind q)

/-- REDUCE_RUN (R288). -/
def execReduceRun (q : Nat) (s : State) : Out := s.go (·.reduceRun q)

/-- ALLGATHER (R292). -/
def execAllgather (q : Nat) (s : State) : Out := s.go (·.allgather q)

/-- ALLTOALL (R292). -/
def execAlltoall (q : Nat) (s : State) : Out := s.go (·.alltoall q)

/-- CHAIN_BROADCAST (R320). -/
def execChainBroadcast (q : Nat) (s : State) : Out := s.go (·.chainBroadcastCmd q)

/-- TURN_TO_GENERATE (R312). -/
def execTurnToGenerate (q : Nat) (s : State) : Out := s.go (·.turnGenerateCmd q)

/-- TURN_TO_LEARN (R313). -/
def execTurnToLearn (q : Nat) (s : State) : Out := s.go (·.turnLearnCmd q)

/-- SHEAF_OPEN (R325). -/
def execSheafOpen (q : Nat) (s : State) : Out := s.go (·.sheafOpen q)

/-- SHEAF_PUBLISH (R302). -/
def execSheafPublish (q : Nat) (s : State) : Out := s.go (·.sheafPublish q)

/-- SHEAF_HOLD (R325). -/
def execSheafHold (q : Nat) (s : State) : Out := s.go (·.sheafHold q)

/-- SHEAF_RELEASE (R325). -/
def execSheafRelease (q : Nat) (s : State) : Out := s.go (·.sheafRelease q)

/-- SHEAF_QUERY (R325). -/
def execSheafQuery (q : Nat) (s : State) : Out := s.go (·.sheafQuery q)

/-- SHEAF_SWITCH (R326). -/
def execSheafSwitch (q : Nat) (s : State) : Out := s.go (·.sheafSwitchCmd q)

/-- SHEAF_RETIRE (R327). -/
def execSheafRetire (q : Nat) (s : State) : Out := s.go (·.sheafRetire q)

/-- SEQ_OPEN (R333). -/
def execSeqOpen (q : Nat) (s : State) : Out := s.go (·.seqOpen q)

/-- SEQ_SUBMIT (R336). -/
def execSeqSubmit (q : Nat) (s : State) : Out := s.go (·.seqSubmit q)

/-- SEQ_GENERATE (R337). -/
def execSeqGenerate (q : Nat) (s : State) : Out := s.go (·.seqGenerate q)

/-- SEQ_CLOSE (R340). -/
def execSeqClose (q : Nat) (s : State) : Out := s.go (·.seqClose q)

/-- PREFIX_BUILD (R357). -/
def execPrefixBuild (q : Nat) (s : State) : Out := s.go (·.prefixBuild q)

/-- PREFIX_DROP (R359). -/
def execPrefixDrop (q : Nat) (s : State) : Out := s.go (·.prefixDrop q)

/-- OBJ_CREATE (R401). -/
def execObjCreate (q hint : Nat) (s : State) : Out := s.go (·.objCreateCmd q hint)

/-- OBJ_DESTROY (R418). -/
def execObjDestroy (q : Nat) (s : State) : Out := s.go (·.objDestroyCmd q)

/-- OBJ_QUERY (R402). -/
def execObjQuery (q : Nat) (s : State) : Out := s.go (·.objQueryCmd q)

/-- OBJ_PLACE (R406). -/
def execObjPlace (q hint : Nat) (s : State) : Out := s.go (·.objPlaceCmd q hint)

/-- OBJ_FLUSH (R409). -/
def execObjFlush (q : Nat) (s : State) : Out := s.go (·.objFlushCmd q)

/-- MAP (R403). -/
def execMap (q : Nat) (s : State) : Out := s.go (·.mapCmd q)

/-- MAP_REMOTE (R414). -/
def execMapRemote (q : Nat) (ans : Option PeerObj) (s : State) : Out := s.go (·.mapRemoteRow q ans)

/-- UNMAP (R418). -/
def execUnmap (q : Nat) (s : State) : Out := s.go (·.unmapCmd q)

/-- UNDERLAY_TAKE (R523). -/
def execUnderlayTake (q : Nat) (s : State) : Out := s.go (·.underlayTake q)

/-- UNDERLAY_QUERY (R530). -/
def execUnderlayQuery (q : Nat) (s : State) : Out := s.go (·.underlayQuery q)

/-- UNDERLAY_DISCARD (R530). -/
def execUnderlayDiscard (q : Nat) (s : State) : Out := s.go (·.underlayDiscard q)

/-- UNDERLAY_RESTORE (R532). -/
def execUnderlayRestore (q : Nat) (ans : Option MirrorSet) (hint : Nat) (s : State) : Out := s.go (·.underlayRestore q ans hint)

/-- REPLAY_RECORD (R534). -/
def execReplayRecord (q : Nat) (s : State) : Out := s.go (·.replayRecord q)

/-- REPLAY_CHECK (R534). -/
def execReplayCheck (q : Nat) (s : State) : Out := s.go (·.replayCheck q)

/-- STAT_READ (R92). -/
def execStatRead (q : Nat) (s : State) : Out := s.go (·.statReadCmd q)

/-- STAT_RESET (R93). -/
def execStatReset (q : Nat) (s : State) : Out := s.go (·.statResetCmd q)

/-- STAT_CLOSE (R93). -/
def execStatClose (q : Nat) (s : State) : Out := s.go (·.statCloseCmd q)

/-- SET_LIMITS (R515). -/
def execSetLimits (q : Nat) (s : State) : Out := .next (s.setLimits q)

/-- SARKING_ENTER (R518). -/
def execSarkingEnter (q : Nat) (s : State) : Out := .next (s.sarkingEnter q)

/-- SARKING_EXIT (R519). -/
def execSarkingExit (q : Nat) (s : State) : Out := .next (s.sarkingExit q)

/-- SELFTEST (R540). -/
def execSelftest (q : Nat) (found : List Nat) (s : State) : Out := s.go (·.selftest q found)

/-- CALIBRATE (R542). -/
def execCalibrate (q lanes worst : Nat) (s : State) : Out := s.go (·.calibrate q lanes worst)

/-- BAY_CONFIG (R384). -/
def execBayConfig (q : Nat) (s : State) : Out := s.go (·.bayConfig q)

/-- BAY_RESET (R385). -/
def execBayReset (q : Nat) (s : State) : Out := s.go (·.bayReset q)

/-- GRANT_BASE (R386). -/
def execGrantBase (q : Nat) (s : State) : Out := s.go (·.grantBase q)

/-- REVOKE_BASE (R386). -/
def execRevokeBase (q : Nat) (s : State) : Out := s.go (·.revokeBase q)

/-- QUEUE_CREATE (R372). -/
def execQueueCreate (q : Nat) (s : State) : Out := s.go (·.queueCreateCmd q)

/-- QUEUE_DELETE (R372). -/
def execQueueDelete (q : Nat) (s : State) : Out := s.go (·.queueDeleteCmd q)

/-- FW_COMMIT (R504). -/
def execFwCommit (q : Nat) (s : State) : Out := s.go (·.fwCommit q)

/-- FW_RELAY (R499). -/
def execFwRelay (q : Nat) (s : State) : Out := s.go (·.fwRelayCmd q)

/-- PACKET_READ (R362). -/
def execPacketRead (q : Nat) (s : State) : Out := s.go (·.packetRead q)

/-- COMMAND_START (R374). -/
def execCommandStart (q : Nat) (s : State) : Out := s.go (·.commandStart q)

/-- REQUEST_ACTIVATE (R338). -/
def execRequestActivate (b seg : Nat) (s : State) : Out := s.go (·.requestActivate b seg)

/-- COMPLETION_WRITE (R364). -/
def execCompletionWrite (c : Nat) (s : State) : Out := s.go (·.completionWrite c)

/-- SQ_HEAD_WRITE (R369). -/
def execSqHeadWrite (q : Nat) (s : State) : Out := s.go (·.sqHeadWrite q)

/-- CQ_COALESCE_TIMER (R372). -/
def execCqCoalesceTimer (c : Nat) (s : State) : Out := s.go (·.cqCoalesceTimer c)

/-- EVQ_COALESCE_TIMER (R388). -/
def execEvqCoalesceTimer (b : Nat) (s : State) : Out := s.go (·.evqCoalesceTimer b)

/-- SQ_TAIL_WRITE (R368). -/
def execSqTailWrite (b q v : Nat) (wide : Bool) (s : State) : Out := s.go (·.bellWrites b (if wide then 8 else 4) fun d => d.sqTailWrite b q v wide)

/-- CQ_HEAD_WRITE (R370). -/
def execCqHeadWrite (b q v : Nat) (s : State) : Out := s.go (·.bellWrites b 4 fun d => d.cqHeadWrite b q v)

/-- EVQ_HEAD_WRITE (R388). -/
def execEvqHeadWrite (b h : Nat) (s : State) : Out := s.go (·.bayWrites b 4 fun d => d.evqHeadWrite b h)

/-- ADMIN_ENABLE (R399). -/
def execAdminEnable (b v : Nat) (s : State) : Out := s.go (·.bayWrites b 4 fun d => d.adminEnable b v)

/-- ADMIN_DISABLE (R399). -/
def execAdminDisable (b v : Nat) (s : State) : Out := s.go (·.bayWrites b 4 fun d => d.adminDisable b v)

/-- EVQ_ENABLE (R399). -/
def execEvqEnable (b v : Nat) (s : State) : Out := s.go (·.bayWrites b 4 fun d => d.evqEnable b v)

/-- EVQ_DISABLE (R390). -/
def execEvqDisable (b v : Nat) (s : State) : Out := s.go (·.bayWrites b 4 fun d => d.evqDisable b v)

/-- QUEUE_INSPECT (R397). -/
def execQueueInspect (v : Nat) (s : State) : Out := s.go (·.hostWrites [0] 4 fun d => d.queueInspect v)

/-- TRAP_CLEAR (R62). -/
def execTrapClear (b : Nat) (s : State) : Out := s.go (·.bayWrites b 4 fun d => d.trapClear b)

/-- NUMSTAT_ENABLE (R68). -/
def execNumstatEnable (b v : Nat) (s : State) : Out := s.go (·.bayWrites b 4 fun d => d.numstatEnable b v)

/-- NUMSTAT_DISABLE (R68). -/
def execNumstatDisable (b v : Nat) (s : State) : Out := s.go (·.bayWrites b 4 fun d => d.numstatDisable b v)

/-- PFSTAT_RESET (R189). -/
def execPfstatReset (b : Nat) (s : State) : Out := s.go (·.bayWrites b 4 fun d => d.pfstatReset b)

/-- ARRAY_REQ_JOINED (R109). -/
def execArrayReqJoined (s : State) : Out := s.go (·.hostWrites [0] 4 fun d => d.arrayReq 1)

/-- ARRAY_REQ_SPLIT (R109). -/
def execArrayReqSplit (s : State) : Out := s.go (·.hostWrites [0] 4 fun d => d.arrayReq 2)

/-- ARRAY_SWITCH_START (R110). -/
def execArraySwitchStart (s : State) : Out := s.go (·.arraySwitchStart)

/-- ARRAY_SWITCH_END (R110). -/
def execArraySwitchEnd (failed : Option Nat) (s : State) : Out := .next (s.arraySwitchEnd failed)

/-- PEER_ADD (R430). -/
def execPeerAdd (v : Nat) (s : State) : Out := s.go (·.hostWrites [0] 4 fun d => d.peerAdd v)

/-- PEER_REMOVE (R430). -/
def execPeerRemove (v : Nat) (s : State) : Out := s.go (·.hostWrites [0] 4 fun d => d.peerRemove v)

/-- ROUTE_WRITE (R434). -/
def execRouteWrite (v : Nat) (s : State) : Out := s.go (·.hostWrites [0] 4 fun d => d.routeWrite v)

/-- PORT_RETRAIN (R424). -/
def execPortRetrain (p v : Nat) (s : State) : Out := s.go (·.hostWrites [0] 4 fun d => d.portRetrain p v)

/-- CONN_ALLOC (R439). -/
def execConnAlloc (v : Nat) (s : State) : Out := s.go (·.hostWrites [0] 4 fun d => d.connAlloc v)

/-- CONN_CONNECT (R439). -/
def execConnConnect (v : Nat) (s : State) : Out := s.go (·.hostWrites [0] 4 fun d => d.connConnect v)

/-- CONN_DESTROY (R439). -/
def execConnDestroy (v : Nat) (s : State) : Out := s.go (·.hostWrites [0] 4 fun d => d.connDestroyCmd v)

/-- PURLIN_SET (R441). -/
def execPurlinSet (v : Nat) (s : State) : Out := s.go (·.hostWrites [0] 8 fun d => d.purlinSet v)

/-- HOLD_GO (R447). -/
def execHoldGo (v : Nat) (s : State) : Out := s.go (·.hostWrites [0] 4 fun d => d.holdGo v)

/-- HOLD_RELEASE (R447). -/
def execHoldRelease (v : Nat) (s : State) : Out := s.go (·.hostWrites [0] 4 fun d => (d.holdRelease v).takesGo)

/-- TRIP_CLEAR (R514). -/
def execTripClear (v : Nat) (s : State) : Out := s.go (·.hostWrites [0] 4 fun d => d.tripClear v)

/-- HOST_LINK_RETRAIN (R482). -/
def execHostLinkRetrain (v : Nat) (s : State) : Out := s.go (·.hostWritesEarly 4 fun d => d.hostLinkRetrain v)

/-- STAGE_WRITE (R487). -/
def execStageWrite (off n data : Nat) (s : State) : Out := s.go (·.hostWritesEarly n fun d => d.stageWrite off n data)

/-- BAR4_READ (R462). -/
def execBar4Read (off n : Nat) (s : State) : Out := s.go (·.bar4Read off n)

/-- BAR4_WRITE (R462). -/
def execBar4Write (off n v : Nat) (s : State) : Out := s.go (·.bar4Write off n v)

/-- UNSUPPORTED_REQUEST (R456). -/
def execUnsupportedRequest (s : State) : Out := s.go (·.unsupportedRequest)

/-- REGISTER_WRITE (R9). -/
def execRegisterWrite (fn off size v : Nat) (s : State) : Out := .next (s.registerWrite fn off size v)

/-- REGISTER_READ_CLEAR (R9). -/
def execRegisterReadClear (fn off : Nat) (s : State) : Out := .next (s.registerReadClear fn off)

/-- REGISTER_LOW_HALF_READ (R7). -/
def execRegisterLowHalfRead (fn off : Nat) (s : State) : Out := .next (s.registerLowHalfRead fn off)

/-- LOAD_GABLE (R488). -/
def execLoadGable (s : State) : Out := .next (s.hostWritesEarly 4 (·.bringCmd 1))

/-- IDENTIFY (R475). -/
def execIdentify (s : State) : Out := .next (s.hostWritesEarly 4 (·.bringCmd 2))

/-- DIE_TEST (R492). -/
def execDieTest (s : State) : Out := .next (s.hostWritesEarly 4 (·.bringCmd 3))

/-- FLASHING (R493). -/
def execFlashing (s : State) : Out := .next (s.hostWritesEarly 4 (·.bringCmd 4))

/-- MEM_TRAIN (R488). -/
def execMemTrain (s : State) : Out := .next (s.hostWritesEarly 4 (·.bringCmd 5))

/-- MEM_INIT (R494). -/
def execMemInit (s : State) : Out := .next (s.hostWritesEarly 4 (·.bringCmd 6))

/-- BRING_CALIBRATE (R488). -/
def execBringCalibrate (s : State) : Out := .next (s.hostWritesEarly 4 (·.bringCmd 7))

/-- PEG_LOAD (R495). -/
def execPegLoad (s : State) : Out := .next (s.hostWritesEarly 4 (·.bringCmd 8))

/-- FABRIC (R488). -/
def execFabric (s : State) : Out := .next (s.hostWritesEarly 4 (·.bringCmd 9))

/-- ETHERNET (R488). -/
def execEthernet (s : State) : Out := .next (s.hostWritesEarly 4 (·.bringCmd 10))

/-- LIMITS (R489). -/
def execLimits (s : State) : Out := .next (s.hostWritesEarly 4 (·.bringCmd 11))

/-- OPEN (R497). -/
def execOpenStep (s : State) : Out := .next (s.hostWritesEarly 4 (·.bringCmd 12))

/-- RELOAD (R501). -/
def execReload (s : State) : Out := .next (s.hostWritesEarly 4 (·.bringCmd 13))

/-- BRING_STEP_DONE (R488). -/
def execBringStepDone (c : Nat) (w : StepWork) (s : State) : Out := .next (s.bringStepDone c w)

/-- BRING_STEP_FAILED (R490). -/
def execBringStepFailed (c code : Nat) (s : State) : Out := s.go (·.bringStepFailed c code)

/-- STACK_READY (R494). -/
def execStackReady (k : Nat) (s : State) : Out := s.go (·.stackReady k)

/-- PEG_ACK (R495). -/
def execPegAck (stack : Bool) (n : Nat) (s : State) : Out := s.go (·.pegAck stack n)

/-- RELOAD_END (R501). -/
def execReloadEnd (s : State) : Out := s.go (·.reloadEnd)

/-- RELOAD_TIMEOUT (R503). -/
def execReloadTimeout (failed : Bool) (s : State) : Out := s.go (·.reloadTimeout failed)

/-- FLOOR_RISE (R436). -/
def execFloorRise (q : Nat) (s : State) : Out := s.go (·.floorRise q)

/-- PWR_EN_HIGH (R478). -/
def execPwrEnHigh (s : State) : Out := s.go (·.pwrEnHigh)

/-- RAILS_GOOD (R478). -/
def execRailsGood (slot : Nat) (s : State) : Out := .next (s.railsGood slot)

/-- PWR_EN_LOW (R479). -/
def execPwrEnLow (s : State) : Out := .next s.pwrEnLow

/-- PERST_ASSERT (R479). -/
def execPerstAssert (s : State) : Out := .next s.perstAssert

/-- PERST_RELEASE (R453). -/
def execPerstRelease (speed width : Nat) (s : State) : Out := s.go (·.perstRelease speed width)

/-- VF_FLR (R458). -/
def execVfFlr (b : Nat) (s : State) : Out := s.go (·.vfFlr b)

/-- VF_DISABLE (R458). -/
def execVfDisable (s : State) : Out := s.go (·.vfDisable)

/-- HOST_LINK_DOWN (R457). -/
def execHostLinkDown (s : State) : Out := s.go (·.hostLinkDown)

/-- HOST_LOSS (R538). -/
def execHostLoss (s : State) : Out := s.go (·.hostLoss)

/-- HOST_CPL_TIMEOUT (R456). -/
def execHostCplTimeout (q : Nat) (s : State) : Out := s.go (·.hostCplTimeout q)

/-- SUPPLY_OVERVOLTAGE (R508). -/
def execSupplyOvervoltage (mv : Nat) (s : State) : Out := .next (s.supplyOvervoltage mv)

/-- POWER_HOLD_ENTER (R509). -/
def execPowerHoldEnter (mv : Nat) (s : State) : Out := s.go (·.powerHoldEnter mv)

/-- SUPPLY_RELEASE (R510). -/
def execSupplyRelease (mv : Nat) (s : State) : Out := s.go (·.supplyRelease mv)

/-- POWER_HOLD_RESUME (R510). -/
def execPowerHoldResume (s : State) : Out := s.go (·.powerHoldResume)

/-- POWER_HOLD_TIMEOUT (R510). -/
def execPowerHoldTimeout (s : State) : Out := s.go (·.powerHoldTimeout)

/-- SUPPLY_RESET (R508). -/
def execSupplyReset (mv : Nat) (s : State) : Out := .next (s.supplyReset mv)

/-- GOVERNOR_SAMPLE (R511). -/
def execGovernorSample (mv da w : Nat) (s : State) : Out := .next (s.governorSample mv da w)

/-- GOVERNOR_RAISE (R511). -/
def execGovernorRaise (s : State) : Out := .next s.governorRaise

/-- ELEC_WINDOW_USED (R512). -/
def execElecWindowUsed (s : State) : Out := s.go (·.elecWindowUsed)

/-- APEX_EXHAUSTED (R512). -/
def execApexExhausted (s : State) : Out := .next s.apexExhausted

/-- THERMAL_SAMPLE (R513). -/
def execThermalSample (junction stack inlet sensor : Nat) (s : State) : Out := .next (s.thermalSample junction stack inlet sensor)

/-- INLET_TRIP_TIMER (R514). -/
def execInletTripTimer (s : State) : Out := s.go (·.inletTripTimer)

/-- HOLD_PIN_ASSERT (R445). -/
def execHoldPinAssert (s : State) : Out := s.go (·.holdPinAssert)

/-- HOLD_PIN_RELEASE (R445). -/
def execHoldPinRelease (s : State) : Out := s.go fun d => (d.holdPinRelease ).takesGo

/-- PPS_EDGE (R441). -/
def execPpsEdge (s : State) : Out := s.go (·.ppsEdge)

/-- HOLD_FRAME_RX (R447). -/
def execHoldFrameRx (h : FrameHdr) (id origin scope domain start stop : Nat) (release : Bool) (s : State) : Out := s.go fun d => (d.holdFrameRx h id origin scope domain start stop release).takesGo

/-- FABRIC_HOLD_START (R447). -/
def execFabricHoldStart (id : Nat) (s : State) : Out := s.go (·.fabricHoldStart id)

/-- FABRIC_HOLD_END (R448). -/
def execFabricHoldEnd (id : Nat) (s : State) : Out := s.go fun d => (d.fabricHoldEnd id).takesGo

/-- FLIT_RX (R424). -/
def execFlitRx (p flit corr uncorr : Nat) (nack : Bool) (s : State) : Out := s.go (·.flitRx p flit corr uncorr nack)

/-- PORT_DOWN (R424). -/
def execPortDown (p : Nat) (s : State) : Out := s.go (·.portDown p)

/-- PORT_UP (R424). -/
def execPortUp (p rtt : Nat) (s : State) : Out := s.go (·.portUp p rtt)

/-- DISCOVER_RESEND (R429). -/
def execDiscoverResend (p : Nat) (s : State) : Out := s.go (·.discoverResend p)

/-- DISCOVER_RX (R429). -/
def execDiscoverRx (p frame : Nat) (viaSwitch : Bool) (s : State) : Out := s.go (·.discoverRx p frame viaSwitch)

/-- HEARTBEAT_TIMER (R431). -/
def execHeartbeatTimer (s : State) : Out := s.go (·.heartbeatTimer)

/-- HEARTBEAT_RX (R431). -/
def execHeartbeatRx (port frame : Nat) (s : State) : Out := s.go (·.heartbeatRx port frame)

/-- PEER_LOSS_TIMEOUT (R431). -/
def execPeerLossTimeout (dev : Nat) (s : State) : Out := s.go (·.peerLossTimeout dev)

/-- LOSS_NOTICE_RX (R431). -/
def execLossNoticeRx (h : FrameHdr) (dev inc : Nat) (s : State) : Out := s.go (·.lossNoticeRx h dev inc)

/-- E2E_ACK_RX (R427). -/
def execE2eAckRx (h : FrameHdr) (vc seq : Nat) (s : State) : Out := s.go fun d => (d.e2eAckRx h vc seq).setsCheck

/-- FRAME_RESEND_TIMEOUT (R427). -/
def execFrameResendTimeout (dst vc seq : Nat) (s : State) : Out := s.go (·.frameResendRow dst vc seq)

/-- PEER_REQUEST_RX (R414). -/
def execPeerRequestRx (h : FrameHdr) (tag op bay obj key off len data : Nat) (s : State) : Out := s.go (·.peerRequestRx h tag op bay obj key off len data)

/-- PEER_RESPONSE_RX (R414). -/
def execPeerResponseRx (h : FrameHdr) (obj off len data : Nat) (err : Bool) (s : State) : Out := s.go (·.peerResponseRx h obj off len data err)

/-- TIME_REQ_TIMER (R442). -/
def execTimeReqTimer (t1 : Nat) (s : State) : Out := s.go (·.timeReqTimer t1)

/-- TIME_REQ_RX (R442). -/
def execTimeReqRx (h : FrameHdr) (t2 t3 : Nat) (corr : Int) (s : State) : Out := s.go (·.timeReqRx h t2 t3 corr)

/-- TIME_RESP_RX (R442). -/
def execTimeRespRx (h : FrameHdr) (t2 t3 t4 : Nat) (cReq cResp : Int) (s : State) : Out := s.go (·.timeRespRx h t2 t3 t4 cReq cResp)

/-- PURLIN_HOLDOVER (R443). -/
def execPurlinHoldover (s : State) : Out := s.go (·.purlinHoldover)

/-- READY_REPORT_RX (R307). -/
def execReadyReportRx (h : FrameHdr) (b tag : Nat) (m : AgreeReport) (s : State) : Out := s.go fun d => (d.readyReportRx h { bay := b, tag := tag, rank := m.rank, fail := m.fail, sheaf := m.sheaf, time := m.time, crc := m.crc, flags := m.flags }).takesGo

/-- AGREEMENT_CUTOFF (R307). -/
def execAgreementCutoff (q : Nat) (s : State) : Out := s.go (·.agreementCutoff q)

/-- DECISION_RX (R307). -/
def execDecisionRx (h : FrameHdr) (b tag : Nat) (commit : Bool) (status : Nat) (s : State) : Out := s.go fun d => (d.decisionRx h b tag commit status).takesGo

/-- SWITCH_ACT (R308). -/
def execSwitchAct (q : Nat) (s : State) : Out := s.go (·.switchAct q)

/-- DECISION_TIMEOUT (R309). -/
def execDecisionTimeout (q : Nat) (s : State) : Out := s.go (·.decisionTimeout q)

/-- PART_REPORT_RX (R290). -/
def execPartReportRx (h : FrameHdr) (b tag rank status : Nat) (s : State) : Out := s.go (·.partReportRx h b tag rank status)

/-- CHAIN_CHUNK_RX (R318). -/
def execChainChunkRx (h : FrameHdr) (b tag chain k len data crc pieceCrc : Nat) (s : State) : Out := s.go (·.chainChunkRx h b tag chain k len data crc pieceCrc)

/-- CHAIN_RESEND_REQUEST (R319). -/
def execChainResendRequest (h : FrameHdr) (b tag chain k : Nat) (s : State) : Out := s.go (·.chainResendRequest h b tag chain k)

/-- ROCE_READ_RESPONSE (R321). -/
def execRoceReadResponse (c b tag chain len data : Nat) (s : State) : Out := s.go (·.roceReadResponse c b tag chain len data)

/-- CONN_ERROR (R439). -/
def execConnError (c syndrome : Nat) (s : State) : Out := s.go (·.connError c syndrome)

/-- RING_PARTIAL_RX (R279). -/
def execRingPartialRx (h : FrameHdr) (b tag r seg t data : Nat) (final : Bool) (s : State) : Out := s.go (·.ringPartialRx h b tag r seg t data final)

/-- REDUCE_FORM_RX (R283). -/
def execReduceFormRx (h : FrameHdr) (b tag r seg t dom data : Nat) (s : State) : Out := s.go (·.reduceFormRx h b tag r seg t dom data)

/-- FIRST_COURSE_PASS (R273). -/
def execFirstCoursePass (n : Nat) (s : State) : Out := s.go (·.firstCoursePass n)

/-- THATCH_OP_START (R121). -/
def execThatchOpStart (q i : Nat) (s : State) : Out := s.go (·.thatchOpStart q i)

/-- THATCH_PASS_END (R122). -/
def execThatchPassEnd (q i n : Nat) (parity : Option (Nat × Nat)) (s : State) : Out := s.go (·.thatchPassEnd q i n parity)

/-- KERNEL_ENTRY_END (R549). -/
def execKernelEntryEnd (q i : Nat) (s : State) : Out := s.go (·.kernelEntryEnd q i)

/-- PROGRAM (R141). -/
def execProgram (q i : Nat) (s : State) : Out := s.go (·.lathProgram q i)

/-- SOFTMAX (R147). -/
def execSoftmax (q i : Nat) (s : State) : Out := s.go (·.lathRows q i 2)

/-- SOFTMAX_BWD (R147). -/
def execSoftmaxBwd (q i : Nat) (s : State) : Out := s.go (·.lathRows q i 3)

/-- RMSNORM (R148). -/
def execRmsnorm (q i : Nat) (s : State) : Out := s.go (·.lathRows q i 4)

/-- RMSNORM_BWD (R148). -/
def execRmsnormBwd (q i : Nat) (s : State) : Out := s.go (·.lathRows q i 5)

/-- LAYERNORM (R148). -/
def execLayernorm (q i : Nat) (s : State) : Out := s.go (·.lathRows q i 6)

/-- LAYERNORM_BWD (R148). -/
def execLayernormBwd (q i : Nat) (s : State) : Out := s.go (·.lathRows q i 7)

/-- TOPK (R139). -/
def execTopk (q i : Nat) (s : State) : Out := s.go (·.lathTopk q i)

/-- SAMPLE (R150). -/
def execSample (q i : Nat) (s : State) : Out := s.go (·.lathAccept q i 9)

/-- ACCEPT (R151). -/
def execAccept (q i : Nat) (s : State) : Out := s.go (·.lathAccept q i 10)

/-- OPTIM (R154). -/
def execOptim (q i : Nat) (s : State) : Out := s.go (·.lathOptim q i)

/-- SCALE_GRAD (R157). -/
def execScaleGrad (q i : Nat) (s : State) : Out := s.go (·.lathRows q i 12)

/-- COPY_DESC_START (R178). -/
def execCopyDescStart (q i : Nat) (s : State) : Out := s.go (·.copyDescStart q i)

/-- STREAM_FETCH (R181). -/
def execStreamFetch (q i : Nat) (s : State) : Out := s.go (·.streamFetch q i)

/-- STREAM_CHUNK_LANDED (R184). -/
def execStreamChunkLanded (q i n : Nat) (s : State) : Out := s.go (·.streamLanded q i n)

/-- PF_DROP_SUMMARY (R185). -/
def execPfDropSummary (b : Nat) (s : State) : Out := s.go (·.pfDropSummary b)

/-- GEMV (R213). -/
def execGemv (q i : Nat) (s : State) : Out := s.go (·.eaveEntry q i 3)

/-- ATTEND (R219). -/
def execAttend (q i : Nat) (s : State) : Out := s.go (·.eaveEntry q i 4)

/-- EAVE_READ (R195). -/
def execEaveRead (k g : Nat) (src : Requester) (bay : Option Nat) (own : Bool) (s : State) : Out := s.go (·.eaveReadReq k g src bay own)

/-- EAVE_WRITE (R193). -/
def execEaveWrite (k g mask data : Nat) (src : Requester) (bay : Option Nat) (own : Bool) (s : State) : Out := s.go (·.eaveWriteReq k g mask data src bay own)

/-- EAVE_ADD32 (R193). -/
def execEaveAdd32 (k g mask data : Nat) (src : Requester) (bay : Option Nat) (own : Bool) (s : State) : Out := s.go (·.eaveAddReq k g mask data src bay own)

/-- EAVE_WINDOW_LEAVE (R196). -/
def execEaveWindowLeave (k : Nat) (s : State) : Out := s.go (·.eaveWindowLeave k)

/-- EAVE_BANK_ISSUE (R198). -/
def execEaveBankIssue (k bank : Nat) (s : State) : Out := s.go (·.eaveBankIssue k bank)

/-- EAVE_ACCESS_DONE (R196). -/
def execEaveAccessDone (k bank : Nat) (corr : Bool) (s : State) : Out := s.go (·.eaveAccessDone k bank corr)

/-- HOT_BANK (R201). -/
def execHotBank (k bank : Nat) (s : State) : Out := s.go (·.hotBankEvent k bank)

/-- REFRESH_DUE (R221). -/
def execRefreshDue (k bank : Nat) (s : State) : Out := s.go (·.refreshDueEvent k bank)

/-- SCRUB_TIMER (R223). -/
def execScrubTimer (k : Nat) (s : State) : Out := s.go (·.scrubTimerEvent k)

/-- SCHED_PICK (R392). -/
def execSchedPick (slot : Nat) (s : State) : Out := s.go (·.schedPick slot)

/-- STEP_BUILD (R345). -/
def execStepBuild (q : Nat) (s : State) : Out := s.go (·.stepBuild q)

/-- DEADLINE_CHECK (R352). -/
def execDeadlineCheck (q : Nat) (s : State) : Out := s.go (·.deadlineCheck q)

/-- FALLBACK_PHASE (R353). -/
def execFallbackPhase (q : Nat) (s : State) : Out := s.go (·.fallbackPhase q)

/-- STEP_COMMIT (R343). -/
def execStepCommit (q : Nat) (s : State) : Out := s.go (·.stepCommit q)

/-- SPEC_REJECT_SUMMARY (R351). -/
def execSpecRejectSummary (b : Nat) (s : State) : Out := s.go (·.specRejectSummary b)

/-- TILE_LANDED (R406). -/
def execTileLanded (q k : Nat) (err : Bool) (s : State) : Out := s.go (·.tileLanded q k err)

/-- UNDERLAY_CUT (R524). -/
def execUnderlayCut (q : Nat) (s : State) : Out := s.go (·.underlayCut q)

/-- UNDERLAY_PROTECT (R524). -/
def execUnderlayProtect (q : Nat) (s : State) : Out := s.go (·.underlayProtect q)

/-- UNDERLAY_SEAL (R526). -/
def execUnderlaySeal (b : Nat) (s : State) : Out := s.go (·.underlaySeal b)

/-- FIRST_TOUCH_COPY (R527). -/
def execFirstTouchCopy (b obj off : Nat) (s : State) : Out := s.go (·.firstTouchCopy b obj off)

/-- UNDERLAY_PAGE_STORED (R522). -/
def execUnderlayPageStored (b obj page : Nat) (ok : Bool) (s : State) : Out := s.go (·.underlayPageStored b obj page ok)

/-- NVME_COMPLETION (R466). -/
def execNvmeCompletion (port id status : Nat) (s : State) : Out := s.go (·.nvmeCompletion port id status)

/-- NVME_TIMEOUT (R468). -/
def execNvmeTimeout (port id : Nat) (s : State) : Out := s.go (·.nvmeTimeout port id)

/-- NVME_RESET_TIMEOUT (R468). -/
def execNvmeResetTimeout (port id : Nat) (s : State) : Out := s.go (·.nvmeResetTimeout port id)

/-- NVME_SMART_REFRESH (R484). -/
def execNvmeSmartRefresh (port pct units : Nat) (s : State) : Out := s.go (·.nvmeSmartRefresh port pct units)

/-- GABLE_CHECK (R394). -/
def execGableCheck (die : Nat) (ok : Bool) (s : State) : Out := s.go (·.gableCheck die ok)

/-- GABLE_TAKEOVER (R394). -/
def execGableTakeover (s : State) : Out := s.go (·.gableTakeover)

/-- BATTEN_MODULE_FAULT (R20). -/
def execBattenModuleFault (die link working : Nat) (s : State) : Out := s.go (·.battenModuleFault die link working)

/-- DEFERRED_SELFTEST (R541). -/
def execDeferredSelftest (q : Nat) (found : List Nat) (s : State) : Out := s.go (·.deferredSelftest q found)

/-- SENSOR_REFRESH (R472). -/
def execSensorRefresh (readings : List Nat) (s : State) : Out := s.go (·.sensorRefresh readings)

/-- SET_ENDPOINT_ID (R469). -/
def execSetEndpointId (i3c : Bool) (eid : Nat) (s : State) : Out := s.go (·.setEndpointId i3c eid)

/-- GET_ENDPOINT_ID (R469). -/
def execGetEndpointId (i3c : Bool) (s : State) : Out := s.go (·.getEndpointId i3c)

/-- GET_MCTP_VERSION_SUPPORT (R469). -/
def execGetMctpVersionSupport (i3c : Bool) (ty : Nat) (s : State) : Out := s.go (·.getMctpVersionSupport i3c ty)

/-- GET_MESSAGE_TYPE_SUPPORT (R469). -/
def execGetMessageTypeSupport (i3c : Bool) (s : State) : Out := s.go (·.getMessageTypeSupport i3c)

/-- GET_ENDPOINT_UUID (R469). -/
def execGetEndpointUuid (i3c : Bool) (s : State) : Out := s.go (·.getEndpointUuid i3c)

/-- GET_VERSION (R471). -/
def execGetVersion (i3c : Bool) (s : State) : Out := s.go (·.getVersion i3c)

/-- GET_CAPABILITIES (R471). -/
def execGetCapabilities (i3c : Bool) (s : State) : Out := s.go (·.getCapabilities i3c)

/-- NEGOTIATE_ALGORITHMS (R471). -/
def execNegotiateAlgorithms (i3c : Bool) (asym hash : Nat) (s : State) : Out := s.go (·.negotiateAlgorithms i3c asym hash)

/-- GET_DIGESTS (R471). -/
def execGetDigests (i3c : Bool) (s : State) : Out := s.go (·.getDigests i3c)

/-- GET_CERTIFICATE (R471). -/
def execGetCertificate (i3c : Bool) (slot off len : Nat) (s : State) : Out := s.go (·.getCertificate i3c slot off len)

/-- CHALLENGE (R471). -/
def execChallenge (i3c : Bool) (slot nonce : Nat) (s : State) : Out := s.go (·.challenge i3c slot nonce)

/-- GET_MEASUREMENTS (R471). -/
def execGetMeasurements (i3c : Bool) (index : Nat) (sign : Bool) (nonce : Nat) (s : State) : Out := s.go (·.getMeasurements i3c index sign nonce)

/-- GET_PDR_REPOSITORY_INFO (R472). -/
def execGetPdrRepositoryInfo (i3c : Bool) (s : State) : Out := s.go (·.getPdrRepositoryInfo i3c)

/-- GET_PDR (R472). -/
def execGetPdr (i3c : Bool) (handle : Nat) (s : State) : Out := s.go (·.getPdr i3c handle)

/-- GET_SENSOR_READING (R472). -/
def execGetSensorReading (i3c : Bool) (id : Nat) (s : State) : Out := s.go (·.getSensorReading i3c id)

/-- GET_STATE_SENSOR_READINGS (R472). -/
def execGetStateSensorReadings (i3c : Bool) (id : Nat) (s : State) : Out := s.go (·.getStateSensorReadings i3c id)

/-- ENTDAA (R470). -/
def execEntdaa (addr : Nat) (s : State) : Out := s.go (·.entdaa addr)

/-- BYPASS (R476). -/
def execBypass (s : State) : Out := s.go (·.bypass)

/-- IDCODE (R476). -/
def execIdcode (s : State) : Out := s.go (·.idcode)

/-- SAMPLE_PRELOAD (R476). -/
def execSamplePreload (bits : Nat) (s : State) : Out := s.go (·.samplePreload bits)

/-- EXTEST (R476). -/
def execExtest (s : State) : Out := s.go (·.extest)

/-- CLAMP (R476). -/
def execClamp (s : State) : Out := s.go (·.clamp)

/-- HIGHZ (R476). -/
def execHighz (s : State) : Out := s.go (·.highz)

/-- COLLECTIVE_BLOCK_RX (R292). -/
def execCollectiveBlockRx (h : FrameHdr) (b tag src len data : Nat) (s : State) : Out := s.go (·.collectiveBlockRx h b tag src len data)

/-- PART_DEADLINE_PASSED (R287). -/
def execPartDeadlinePassed (q : Nat) (s : State) : Out := s.go (·.partDeadlinePassed q)

/-- MIRROR_PAGE_RX (R527). -/
def execMirrorPageRx (h : FrameHdr) (b rank id : Nat) (m : MirrorMsg) (s : State) : Out := s.go (·.mirrorPageRx h b rank id m)

/-- COPY_UNIT_DONE (R179). -/
def execCopyUnitDone (q i n : Nat) (s : State) : Out := s.go (·.copyUnitDone q i n)

/-- ROCE_PACKET_RX (R438). -/
def execRocePacketRx (e c psn : Nat) (cnp : Bool) (s : State) : Out := s.go (·.rocePacketRx e c psn cnp)

/-- SSD_DMA_REQUEST (R465). -/
def execSsdDmaRequest (port : Nat) (inBuffer : Bool) (s : State) : Out := s.go (·.ssdDmaRequest port inBuffer)

/-- HOST_LINK_UP (R457). -/
def execHostLinkUp (speed width : Nat) (s : State) : Out := s.go (·.hostLinkUp speed width)

/-- ETH_LINK_CHANGE (R451). -/
def execEthLinkChange (e : Nat) (up : Bool) (s : State) : Out := s.go (·.ethLinkChange e up)

/-- LANE_BLOCK_LOCK (R423). -/
def execLaneBlockLock (p lane : Nat) (lock : Bool) (s : State) : Out := s.go (·.laneBlockLock p lane lock)

/-- RAIL_FAILURE (R477). -/
def execRailFailure (s : State) : Out := s.go (·.railFailure)

/-- GABLE_LOSS (R491). -/
def execGableLoss (s : State) : Out := s.go (·.gableLoss)

/-- HOST_COMPLETION_RX (R456). -/
def execHostCompletionRx (q bytes : Nat) (bad : Bool) (s : State) : Out := s.go (·.hostCompletionRx q bytes bad)

/-- D3HOT_TRANSITION (R454). -/
def execD3hotTransition (fn : Nat) (d3 : Bool) (s : State) : Out := s.go (·.d3hotTransition fn d3)

/-- RESIZABLE_BAR_WRITE (R454). -/
def execResizableBarWrite (log2 : Nat) (s : State) : Out := s.go (·.resizableBarWrite log2)

end Sys2Proof.Machine
end

