-- ==== Sys2Proof/Machine/Dispatch.lean ====
section
/-!
DEFINITION. Machine/Dispatch.lean: one arm per command, each one call of its meaning.
-/
namespace Sys2Proof.Machine

/-- The effect of a command on everything but the queue. -/
def exec (i : Instr) (s : State) : Host.Outcome State Fault Refusal :=
  match i with
  | .nop q => Sys2Proof.Machine.execNop q s
  | .fence q => Sys2Proof.Machine.execFence q s
  | .waitEvent q => Sys2Proof.Machine.execWaitEvent q s
  | .signalEvent q => Sys2Proof.Machine.execSignalEvent q s
  | .copy q => Sys2Proof.Machine.execCopy q s
  | .fill q => Sys2Proof.Machine.execFill q s
  | .convert q => Sys2Proof.Machine.execConvert q s
  | .gather q e => Sys2Proof.Machine.execGather q e s
  | .scatterAdd q e => Sys2Proof.Machine.execScatterAdd q e s
  | .kernel q => Sys2Proof.Machine.execKernel q s
  | .step q => Sys2Proof.Machine.execStep q s
  | .reduceBind q => Sys2Proof.Machine.execReduceBind q s
  | .reduceUnbind q => Sys2Proof.Machine.execReduceUnbind q s
  | .reduceRun q => Sys2Proof.Machine.execReduceRun q s
  | .allgather q => Sys2Proof.Machine.execAllgather q s
  | .alltoall q => Sys2Proof.Machine.execAlltoall q s
  | .chainBroadcast q => Sys2Proof.Machine.execChainBroadcast q s
  | .turnToGenerate q => Sys2Proof.Machine.execTurnToGenerate q s
  | .turnToLearn q => Sys2Proof.Machine.execTurnToLearn q s
  | .sheafOpen q => Sys2Proof.Machine.execSheafOpen q s
  | .sheafPublish q => Sys2Proof.Machine.execSheafPublish q s
  | .sheafHold q => Sys2Proof.Machine.execSheafHold q s
  | .sheafRelease q => Sys2Proof.Machine.execSheafRelease q s
  | .sheafQuery q => Sys2Proof.Machine.execSheafQuery q s
  | .sheafSwitch q => Sys2Proof.Machine.execSheafSwitch q s
  | .sheafRetire q => Sys2Proof.Machine.execSheafRetire q s
  | .seqOpen q => Sys2Proof.Machine.execSeqOpen q s
  | .seqSubmit q => Sys2Proof.Machine.execSeqSubmit q s
  | .seqGenerate q => Sys2Proof.Machine.execSeqGenerate q s
  | .seqClose q => Sys2Proof.Machine.execSeqClose q s
  | .prefixBuild q => Sys2Proof.Machine.execPrefixBuild q s
  | .prefixDrop q => Sys2Proof.Machine.execPrefixDrop q s
  | .objCreate q hint => Sys2Proof.Machine.execObjCreate q hint s
  | .objDestroy q => Sys2Proof.Machine.execObjDestroy q s
  | .objQuery q => Sys2Proof.Machine.execObjQuery q s
  | .objPlace q hint => Sys2Proof.Machine.execObjPlace q hint s
  | .objFlush q => Sys2Proof.Machine.execObjFlush q s
  | .map q => Sys2Proof.Machine.execMap q s
  | .mapRemote q ans => Sys2Proof.Machine.execMapRemote q ans s
  | .unmap q => Sys2Proof.Machine.execUnmap q s
  | .underlayTake q => Sys2Proof.Machine.execUnderlayTake q s
  | .underlayQuery q => Sys2Proof.Machine.execUnderlayQuery q s
  | .underlayDiscard q => Sys2Proof.Machine.execUnderlayDiscard q s
  | .underlayRestore q ans hint => Sys2Proof.Machine.execUnderlayRestore q ans hint s
  | .replayRecord q => Sys2Proof.Machine.execReplayRecord q s
  | .replayCheck q => Sys2Proof.Machine.execReplayCheck q s
  | .statRead q => Sys2Proof.Machine.execStatRead q s
  | .statReset q => Sys2Proof.Machine.execStatReset q s
  | .statClose q => Sys2Proof.Machine.execStatClose q s
  | .setLimits q => Sys2Proof.Machine.execSetLimits q s
  | .sarkingEnter q => Sys2Proof.Machine.execSarkingEnter q s
  | .sarkingExit q => Sys2Proof.Machine.execSarkingExit q s
  | .selftest q found => Sys2Proof.Machine.execSelftest q found s
  | .calibrate q lanes worst => Sys2Proof.Machine.execCalibrate q lanes worst s
  | .bayConfig q => Sys2Proof.Machine.execBayConfig q s
  | .bayReset q => Sys2Proof.Machine.execBayReset q s
  | .grantBase q => Sys2Proof.Machine.execGrantBase q s
  | .revokeBase q => Sys2Proof.Machine.execRevokeBase q s
  | .queueCreate q => Sys2Proof.Machine.execQueueCreate q s
  | .queueDelete q => Sys2Proof.Machine.execQueueDelete q s
  | .fwCommit q => Sys2Proof.Machine.execFwCommit q s
  | .fwRelay q => Sys2Proof.Machine.execFwRelay q s
  | .packetRead q => Sys2Proof.Machine.execPacketRead q s
  | .commandStart q => Sys2Proof.Machine.execCommandStart q s
  | .requestActivate b seg => Sys2Proof.Machine.execRequestActivate b seg s
  | .completionWrite c => Sys2Proof.Machine.execCompletionWrite c s
  | .sqHeadWrite q => Sys2Proof.Machine.execSqHeadWrite q s
  | .cqCoalesceTimer c => Sys2Proof.Machine.execCqCoalesceTimer c s
  | .evqCoalesceTimer b => Sys2Proof.Machine.execEvqCoalesceTimer b s
  | .sqTailWrite b q v wide => Sys2Proof.Machine.execSqTailWrite b q v wide s
  | .cqHeadWrite b q v => Sys2Proof.Machine.execCqHeadWrite b q v s
  | .evqHeadWrite b h => Sys2Proof.Machine.execEvqHeadWrite b h s
  | .adminEnable b v => Sys2Proof.Machine.execAdminEnable b v s
  | .adminDisable b v => Sys2Proof.Machine.execAdminDisable b v s
  | .evqEnable b v => Sys2Proof.Machine.execEvqEnable b v s
  | .evqDisable b v => Sys2Proof.Machine.execEvqDisable b v s
  | .queueInspect v => Sys2Proof.Machine.execQueueInspect v s
  | .trapClear b => Sys2Proof.Machine.execTrapClear b s
  | .numstatEnable b v => Sys2Proof.Machine.execNumstatEnable b v s
  | .numstatDisable b v => Sys2Proof.Machine.execNumstatDisable b v s
  | .pfstatReset b => Sys2Proof.Machine.execPfstatReset b s
  | .arrayReqJoined => Sys2Proof.Machine.execArrayReqJoined s
  | .arrayReqSplit => Sys2Proof.Machine.execArrayReqSplit s
  | .arraySwitchStart => Sys2Proof.Machine.execArraySwitchStart s
  | .arraySwitchEnd failed => Sys2Proof.Machine.execArraySwitchEnd failed s
  | .peerAdd v => Sys2Proof.Machine.execPeerAdd v s
  | .peerRemove v => Sys2Proof.Machine.execPeerRemove v s
  | .routeWrite v => Sys2Proof.Machine.execRouteWrite v s
  | .portRetrain p v => Sys2Proof.Machine.execPortRetrain p v s
  | .connAlloc v => Sys2Proof.Machine.execConnAlloc v s
  | .connConnect v => Sys2Proof.Machine.execConnConnect v s
  | .connDestroy v => Sys2Proof.Machine.execConnDestroy v s
  | .purlinSet v => Sys2Proof.Machine.execPurlinSet v s
  | .holdGo v => Sys2Proof.Machine.execHoldGo v s
  | .holdRelease v => Sys2Proof.Machine.execHoldRelease v s
  | .tripClear v => Sys2Proof.Machine.execTripClear v s
  | .hostLinkRetrain v => Sys2Proof.Machine.execHostLinkRetrain v s
  | .stageWrite off n data => Sys2Proof.Machine.execStageWrite off n data s
  | .bar4Read off n => Sys2Proof.Machine.execBar4Read off n s
  | .bar4Write off n v => Sys2Proof.Machine.execBar4Write off n v s
  | .unsupportedRequest => Sys2Proof.Machine.execUnsupportedRequest s
  | .registerWrite fn off size v => Sys2Proof.Machine.execRegisterWrite fn off size v s
  | .registerReadClear fn off => Sys2Proof.Machine.execRegisterReadClear fn off s
  | .registerLowHalfRead fn off => Sys2Proof.Machine.execRegisterLowHalfRead fn off s
  | .loadGable => Sys2Proof.Machine.execLoadGable s
  | .identify => Sys2Proof.Machine.execIdentify s
  | .dieTest => Sys2Proof.Machine.execDieTest s
  | .flashing => Sys2Proof.Machine.execFlashing s
  | .memTrain => Sys2Proof.Machine.execMemTrain s
  | .memInit => Sys2Proof.Machine.execMemInit s
  | .bringCalibrate => Sys2Proof.Machine.execBringCalibrate s
  | .pegLoad => Sys2Proof.Machine.execPegLoad s
  | .fabric => Sys2Proof.Machine.execFabric s
  | .ethernet => Sys2Proof.Machine.execEthernet s
  | .limits => Sys2Proof.Machine.execLimits s
  | .openStep => Sys2Proof.Machine.execOpenStep s
  | .reload => Sys2Proof.Machine.execReload s
  | .bringStepDone c w => Sys2Proof.Machine.execBringStepDone c w s
  | .bringStepFailed c code => Sys2Proof.Machine.execBringStepFailed c code s
  | .stackReady k => Sys2Proof.Machine.execStackReady k s
  | .pegAck stack n => Sys2Proof.Machine.execPegAck stack n s
  | .reloadEnd => Sys2Proof.Machine.execReloadEnd s
  | .reloadTimeout failed => Sys2Proof.Machine.execReloadTimeout failed s
  | .floorRise q => Sys2Proof.Machine.execFloorRise q s
  | .pwrEnHigh => Sys2Proof.Machine.execPwrEnHigh s
  | .railsGood slot => Sys2Proof.Machine.execRailsGood slot s
  | .pwrEnLow => Sys2Proof.Machine.execPwrEnLow s
  | .perstAssert => Sys2Proof.Machine.execPerstAssert s
  | .perstRelease speed width => Sys2Proof.Machine.execPerstRelease speed width s
  | .vfFlr b => Sys2Proof.Machine.execVfFlr b s
  | .vfDisable => Sys2Proof.Machine.execVfDisable s
  | .hostLinkDown => Sys2Proof.Machine.execHostLinkDown s
  | .hostLoss => Sys2Proof.Machine.execHostLoss s
  | .hostCplTimeout q => Sys2Proof.Machine.execHostCplTimeout q s
  | .supplyOvervoltage mv => Sys2Proof.Machine.execSupplyOvervoltage mv s
  | .powerHoldEnter mv => Sys2Proof.Machine.execPowerHoldEnter mv s
  | .supplyRelease mv => Sys2Proof.Machine.execSupplyRelease mv s
  | .powerHoldResume => Sys2Proof.Machine.execPowerHoldResume s
  | .powerHoldTimeout => Sys2Proof.Machine.execPowerHoldTimeout s
  | .supplyReset mv => Sys2Proof.Machine.execSupplyReset mv s
  | .governorSample mv da w => Sys2Proof.Machine.execGovernorSample mv da w s
  | .governorRaise => Sys2Proof.Machine.execGovernorRaise s
  | .elecWindowUsed => Sys2Proof.Machine.execElecWindowUsed s
  | .apexExhausted => Sys2Proof.Machine.execApexExhausted s
  | .thermalSample junction stack inlet sensor => Sys2Proof.Machine.execThermalSample junction stack inlet sensor s
  | .inletTripTimer => Sys2Proof.Machine.execInletTripTimer s
  | .holdPinAssert => Sys2Proof.Machine.execHoldPinAssert s
  | .holdPinRelease => Sys2Proof.Machine.execHoldPinRelease s
  | .ppsEdge => Sys2Proof.Machine.execPpsEdge s
  | .holdFrameRx h id origin scope domain start stop release => Sys2Proof.Machine.execHoldFrameRx h id origin scope domain start stop release s
  | .fabricHoldStart id => Sys2Proof.Machine.execFabricHoldStart id s
  | .fabricHoldEnd id => Sys2Proof.Machine.execFabricHoldEnd id s
  | .flitRx p flit corr uncorr nack => Sys2Proof.Machine.execFlitRx p flit corr uncorr nack s
  | .portDown p => Sys2Proof.Machine.execPortDown p s
  | .portUp p rtt => Sys2Proof.Machine.execPortUp p rtt s
  | .discoverResend p => Sys2Proof.Machine.execDiscoverResend p s
  | .discoverRx p frame viaSwitch => Sys2Proof.Machine.execDiscoverRx p frame viaSwitch s
  | .heartbeatTimer => Sys2Proof.Machine.execHeartbeatTimer s
  | .heartbeatRx port frame => Sys2Proof.Machine.execHeartbeatRx port frame s
  | .peerLossTimeout dev => Sys2Proof.Machine.execPeerLossTimeout dev s
  | .lossNoticeRx h dev inc => Sys2Proof.Machine.execLossNoticeRx h dev inc s
  | .e2eAckRx h vc seq => Sys2Proof.Machine.execE2eAckRx h vc seq s
  | .frameResendTimeout dst vc seq => Sys2Proof.Machine.execFrameResendTimeout dst vc seq s
  | .peerRequestRx h tag op bay obj key off len data => Sys2Proof.Machine.execPeerRequestRx h tag op bay obj key off len data s
  | .peerResponseRx h obj off len data err => Sys2Proof.Machine.execPeerResponseRx h obj off len data err s
  | .timeReqTimer t1 => Sys2Proof.Machine.execTimeReqTimer t1 s
  | .timeReqRx h t2 t3 corr => Sys2Proof.Machine.execTimeReqRx h t2 t3 corr s
  | .timeRespRx h t2 t3 t4 cReq cResp => Sys2Proof.Machine.execTimeRespRx h t2 t3 t4 cReq cResp s
  | .purlinHoldover => Sys2Proof.Machine.execPurlinHoldover s
  | .readyReportRx h b tag m => Sys2Proof.Machine.execReadyReportRx h b tag m s
  | .agreementCutoff q => Sys2Proof.Machine.execAgreementCutoff q s
  | .decisionRx h b tag commit status => Sys2Proof.Machine.execDecisionRx h b tag commit status s
  | .switchAct q => Sys2Proof.Machine.execSwitchAct q s
  | .decisionTimeout q => Sys2Proof.Machine.execDecisionTimeout q s
  | .partReportRx h b tag rank status => Sys2Proof.Machine.execPartReportRx h b tag rank status s
  | .chainChunkRx h b tag chain k len data crc pieceCrc => Sys2Proof.Machine.execChainChunkRx h b tag chain k len data crc pieceCrc s
  | .chainResendRequest h b tag chain k => Sys2Proof.Machine.execChainResendRequest h b tag chain k s
  | .roceReadResponse c b tag chain len data => Sys2Proof.Machine.execRoceReadResponse c b tag chain len data s
  | .connError c syndrome => Sys2Proof.Machine.execConnError c syndrome s
  | .ringPartialRx h b tag r seg t data final => Sys2Proof.Machine.execRingPartialRx h b tag r seg t data final s
  | .reduceFormRx h b tag r seg t dom data => Sys2Proof.Machine.execReduceFormRx h b tag r seg t dom data s
  | .firstCoursePass n => Sys2Proof.Machine.execFirstCoursePass n s
  | .thatchOpStart q j => Sys2Proof.Machine.execThatchOpStart q j s
  | .thatchPassEnd q j n parity => Sys2Proof.Machine.execThatchPassEnd q j n parity s
  | .kernelEntryEnd q j => Sys2Proof.Machine.execKernelEntryEnd q j s
  | .program q j => Sys2Proof.Machine.execProgram q j s
  | .softmax q j => Sys2Proof.Machine.execSoftmax q j s
  | .softmaxBwd q j => Sys2Proof.Machine.execSoftmaxBwd q j s
  | .rmsnorm q j => Sys2Proof.Machine.execRmsnorm q j s
  | .rmsnormBwd q j => Sys2Proof.Machine.execRmsnormBwd q j s
  | .layernorm q j => Sys2Proof.Machine.execLayernorm q j s
  | .layernormBwd q j => Sys2Proof.Machine.execLayernormBwd q j s
  | .topk q j => Sys2Proof.Machine.execTopk q j s
  | .sample q j => Sys2Proof.Machine.execSample q j s
  | .accept q j => Sys2Proof.Machine.execAccept q j s
  | .optim q j => Sys2Proof.Machine.execOptim q j s
  | .scaleGrad q j => Sys2Proof.Machine.execScaleGrad q j s
  | .copyDescStart q j => Sys2Proof.Machine.execCopyDescStart q j s
  | .streamFetch q j => Sys2Proof.Machine.execStreamFetch q j s
  | .streamChunkLanded q j n => Sys2Proof.Machine.execStreamChunkLanded q j n s
  | .pfDropSummary b => Sys2Proof.Machine.execPfDropSummary b s
  | .gemv q j => Sys2Proof.Machine.execGemv q j s
  | .attend q j => Sys2Proof.Machine.execAttend q j s
  | .eaveRead k g src bay own => Sys2Proof.Machine.execEaveRead k g src bay own s
  | .eaveWrite k g mask data src bay own => Sys2Proof.Machine.execEaveWrite k g mask data src bay own s
  | .eaveAdd32 k g mask data src bay own => Sys2Proof.Machine.execEaveAdd32 k g mask data src bay own s
  | .eaveWindowLeave k => Sys2Proof.Machine.execEaveWindowLeave k s
  | .eaveBankIssue k bank => Sys2Proof.Machine.execEaveBankIssue k bank s
  | .eaveAccessDone k bank corr => Sys2Proof.Machine.execEaveAccessDone k bank corr s
  | .hotBank k bank => Sys2Proof.Machine.execHotBank k bank s
  | .refreshDue k bank => Sys2Proof.Machine.execRefreshDue k bank s
  | .scrubTimer k => Sys2Proof.Machine.execScrubTimer k s
  | .schedPick slot => Sys2Proof.Machine.execSchedPick slot s
  | .stepBuild q => Sys2Proof.Machine.execStepBuild q s
  | .deadlineCheck q => Sys2Proof.Machine.execDeadlineCheck q s
  | .fallbackPhase q => Sys2Proof.Machine.execFallbackPhase q s
  | .stepCommit q => Sys2Proof.Machine.execStepCommit q s
  | .specRejectSummary b => Sys2Proof.Machine.execSpecRejectSummary b s
  | .tileLanded q k err => Sys2Proof.Machine.execTileLanded q k err s
  | .underlayCut q => Sys2Proof.Machine.execUnderlayCut q s
  | .underlayProtect q => Sys2Proof.Machine.execUnderlayProtect q s
  | .underlaySeal b => Sys2Proof.Machine.execUnderlaySeal b s
  | .firstTouchCopy b obj off => Sys2Proof.Machine.execFirstTouchCopy b obj off s
  | .underlayPageStored b obj page ok => Sys2Proof.Machine.execUnderlayPageStored b obj page ok s
  | .nvmeCompletion port id status => Sys2Proof.Machine.execNvmeCompletion port id status s
  | .nvmeTimeout port id => Sys2Proof.Machine.execNvmeTimeout port id s
  | .nvmeResetTimeout port id => Sys2Proof.Machine.execNvmeResetTimeout port id s
  | .nvmeSmartRefresh port pct units => Sys2Proof.Machine.execNvmeSmartRefresh port pct units s
  | .gableCheck die ok => Sys2Proof.Machine.execGableCheck die ok s
  | .gableTakeover => Sys2Proof.Machine.execGableTakeover s
  | .battenModuleFault die link working => Sys2Proof.Machine.execBattenModuleFault die link working s
  | .deferredSelftest q found => Sys2Proof.Machine.execDeferredSelftest q found s
  | .sensorRefresh readings => Sys2Proof.Machine.execSensorRefresh readings s
  | .setEndpointId i3c eid => Sys2Proof.Machine.execSetEndpointId i3c eid s
  | .getEndpointId i3c => Sys2Proof.Machine.execGetEndpointId i3c s
  | .getMctpVersionSupport i3c ty => Sys2Proof.Machine.execGetMctpVersionSupport i3c ty s
  | .getMessageTypeSupport i3c => Sys2Proof.Machine.execGetMessageTypeSupport i3c s
  | .getEndpointUuid i3c => Sys2Proof.Machine.execGetEndpointUuid i3c s
  | .getVersion i3c => Sys2Proof.Machine.execGetVersion i3c s
  | .getCapabilities i3c => Sys2Proof.Machine.execGetCapabilities i3c s
  | .negotiateAlgorithms i3c asym hash => Sys2Proof.Machine.execNegotiateAlgorithms i3c asym hash s
  | .getDigests i3c => Sys2Proof.Machine.execGetDigests i3c s
  | .getCertificate i3c slot off len => Sys2Proof.Machine.execGetCertificate i3c slot off len s
  | .challenge i3c slot nonce => Sys2Proof.Machine.execChallenge i3c slot nonce s
  | .getMeasurements i3c index sign nonce => Sys2Proof.Machine.execGetMeasurements i3c index sign nonce s
  | .getPdrRepositoryInfo i3c => Sys2Proof.Machine.execGetPdrRepositoryInfo i3c s
  | .getPdr i3c handle => Sys2Proof.Machine.execGetPdr i3c handle s
  | .getSensorReading i3c id => Sys2Proof.Machine.execGetSensorReading i3c id s
  | .getStateSensorReadings i3c id => Sys2Proof.Machine.execGetStateSensorReadings i3c id s
  | .entdaa addr => Sys2Proof.Machine.execEntdaa addr s
  | .bypass => Sys2Proof.Machine.execBypass s
  | .idcode => Sys2Proof.Machine.execIdcode s
  | .samplePreload bits => Sys2Proof.Machine.execSamplePreload bits s
  | .extest => Sys2Proof.Machine.execExtest s
  | .clamp => Sys2Proof.Machine.execClamp s
  | .highz => Sys2Proof.Machine.execHighz s
  | .collectiveBlockRx h b tag src len data => Sys2Proof.Machine.execCollectiveBlockRx h b tag src len data s
  | .partDeadlinePassed q => Sys2Proof.Machine.execPartDeadlinePassed q s
  | .mirrorPageRx h b rank id m => Sys2Proof.Machine.execMirrorPageRx h b rank id m s
  | .copyUnitDone q j n => Sys2Proof.Machine.execCopyUnitDone q j n s
  | .rocePacketRx e c psn cnp => Sys2Proof.Machine.execRocePacketRx e c psn cnp s
  | .ssdDmaRequest port inBuffer => Sys2Proof.Machine.execSsdDmaRequest port inBuffer s
  | .hostLinkUp speed width => Sys2Proof.Machine.execHostLinkUp speed width s
  | .ethLinkChange e up => Sys2Proof.Machine.execEthLinkChange e up s
  | .laneBlockLock p lane lock => Sys2Proof.Machine.execLaneBlockLock p lane lock s
  | .railFailure => Sys2Proof.Machine.execRailFailure s
  | .gableLoss => Sys2Proof.Machine.execGableLoss s
  | .hostCompletionRx q bytes bad => Sys2Proof.Machine.execHostCompletionRx q bytes bad s
  | .d3hotTransition fn d3 => Sys2Proof.Machine.execD3hotTransition fn d3 s
  | .resizableBarWrite log2 => Sys2Proof.Machine.execResizableBarWrite log2 s

end Sys2Proof.Machine
end

