-- ==== Sys2Proof/Machine/Time.lean ====
section
/-!
DEFINITION. Machine/Time.lean: what happens in a beat of Purlin time in which no command waits: time advances by 4 ns (00, 15 R440), and
what the spec lets happen by itself happens.
Where the spec is silent or is read by inference: DESIGN CHOICE logs 2, 73; DEDUCED log 55 (notes/assumptions).
-/
namespace Sys2Proof.Machine

/-- A DOWN port whose ENABLE is 1 trains again (15 R424); a port with a frame that waits for credit counts the beat. -/
def Dev.portBeat (d : Dev) (p : Nat) : Dev :=
  if d.rbit .reedlinePortCtrl p 0 && d.portState p == 0 then d.sf .reedlinePortSts p 0 2 1
  else if d.portState p == 2 && !(d.rport p).queue.isEmpty then d.addW .reedlinePortCreditStall p 1
  else d

/-- The bound on the error of a follower in HOLDOVER grows by 0.5 ns for each ms since its last exchange (15 R443). -/
def Dev.holdoverBeat (d : Dev) : Dev :=
  if d.fd .purlinSts 0 0 2 = 3 ∧ d.fab.time.okAt < d.now ∧ (d.now - d.fab.time.okAt) % 2000000 = 0 then d.addS .purlinErrEst 0 1 else d

/-- The guard time of a turn does not run while the module is held or in power hold (11 R309). -/
def Dev.turnBeat (d : Dev) : Dev :=
  if d.held || d.powerHold then
    { d with turns := d.turns.map fun t => if t.time ≤ d.now then { t with paused := t.paused + 4 } else t }
  else d

/-- A stack whose ingress queue holds requests withholds credits (07 R194). -/
def Dev.eaveBeat (d : Dev) : Dev :=
  d.eave.foldl (fun d (e : Nat × EaveUnit) => if e.2.ingress.isEmpty then d else d.addW .eaveIngressStall e.1 1) d

/-- One beat of 4 ns; Purlin time runs from the LOAD_GABLE step on. -/
def Dev.beat (d : Dev) : Dev :=
  if !d.stepDone 1 then d
  else
    let d1 := { d with now := d.now + 4 }
    let d2 := if d1.fabricStarted then (upFrom 0 18).foldl Dev.portBeat d1 else d1
    let d3 := d2.holdoverBeat.turnBeat.battenBeat.eaveTake.eaveBeat
    let d4 := (upFrom 0 16).foldl (fun d b => d.reapAdmin b) d3
    d4.reloadSleep.resetsGo.collRun.takesGo.setsCheck

end Sys2Proof.Machine
end

