-- ==== Sys2Proof/Machine/Step.lean ====
section
/-!
DEFINITION. Machine/Step.lean: one step of the block: the command at the front of the queue, or a beat of time when none waits.
Where the spec is silent or is read by inference: DESIGN CHOICE logs 1, 2 (notes/assumptions).
-/
namespace Sys2Proof.Machine

/-- One step: the command at the front runs on the queue's rest; an empty queue lets one beat pass. -/
def step (s : State) : Host.Outcome State Fault Refusal :=
  match s.pending with
  | [] => .next { s with dev := s.dev.beat }
  | c :: r => exec c { s with pending := r }

/-- `s` with the command that a word of the table spells at the front of its queue; no row has bits, so no word spells one. -/
def State.withFetchWord (s : State) (nbits w : Nat) : State :=
  match Sys2Proof.decodeTableWord nbits w with
  | some c => { s with pending := c :: s.pending }
  | none => s

end Sys2Proof.Machine
end

