-- ==== Sys2Proof/Safety.lean ====
section
/-!
DEFINITION. Safety.lean: the terms of the claims: what a safe run is, when a command completes, who answers the host, and what stays.
-/
namespace Sys2Proof.Machine

/-- The clock limit, the clock and the power limit lie within the variant record's. -/
def Limits.within (l : Limits) : Prop := l.clockLimit ≤ l.recClock ∧ l.clock ≤ l.recClock ∧ l.powerLimit ≤ l.recPower

end Sys2Proof.Machine

namespace Sys2Proof.Claims
open Sys2Proof.Machine

/-- The command answers a next state of which `P` holds. -/
abbrev Does (c : Instr) (s : State) (P : State → Prop) : Prop := ∃ t, exec c s = .next t ∧ P t

/-- SQ `q` runs command `c` of opcode `op`, and no earlier UNMAP of its bay holds it back. -/
abbrev Runs (s : State) (q op : Nat) (c : Cmd) : Prop := s.dev.running? q op = some c ∧ c.sq = q

/-- The command of SQ `q` has completed with a status and a result: the SQ runs nothing, and its CQ, where it is ACTIVE, holds the entry
that waits for its slots, but where NO_COMPLETION and OK say there is none (13 R363, R365). -/
def Ended (s t : State) (q : Nat) (c : Cmd) (status result : Nat) : Prop :=
  ∀ x, smFind s.dev.sqs q = some x →
    (∀ y, smFind t.dev.sqs q = some y → y.run = none)
    ∧ ∀ k, smFind s.dev.cqs x.cq = some k → k.st = 1 → (c.noCompletion && status == stOk) = false →
        ∃ k' e, smFind t.dev.cqs x.cq = some k' ∧ e ∈ k'.waiting ∧ e.tag = c.tag ∧ e.status = status ∧ e.sq = q
          ∧ e.result = min result (2 ^ 32 - 1)

/-- The host's link is up, one of the functions `fns` answers, and LOAD_GABLE is done: every register responds (16 R454, R460). -/
abbrev HostUp (s : State) (fns : List Nat) : Prop :=
  s.dev.linkUp = true ∧ fns.any s.dev.answers = true ∧ s.dev.stepDone 1 = true

/-- The HBM, the Loft, the host's memory, the staging window and the bytes known of peers read as before, at every address. -/
def MemoryKept (s t : State) : Prop :=
  ∀ a, smGet 0 t.dev.hbm a = smGet 0 s.dev.hbm a ∧ smGet 0 t.dev.loft a = smGet 0 s.dev.loft a
    ∧ smGet 0 t.dev.hostMem a = smGet 0 s.dev.hostMem a ∧ smGet 0 t.dev.stage a = smGet 0 s.dev.stage a
    ∧ smGet 0 t.dev.peerMem a = smGet 0 s.dev.peerMem a

/-- Every register but the listed ones (register, instance) reads as before. -/
def RegsKept (s t : State) (but : List (Reg × Nat)) : Prop :=
  ∀ r i, (∀ e ∈ but, r.addr i ≠ e.1.addr e.2) → t.dev.rd r i = s.dev.rd r i

/-- Every Loft byte outside the listed ranges (address, bytes) reads as before. -/
def LoftKept (s t : State) (but : List (Nat × Nat)) : Prop :=
  ∀ a, (∀ r ∈ but, a < r.1 ∨ r.1 + r.2 ≤ a) → smGet 0 t.dev.loft a = smGet 0 s.dev.loft a

/-- The Loft ranges of D of a group of a Thatch operation: its elements and its fine scales (04 R122). -/
def dRanges (o : ThatchOp) (g : Group) : List (Nat × Nat) :=
  [(o.dLoft + g.dOff, elemBytes o.fdst.elem (g.m * g.n)), (o.fdst.scaleVa + g.dSoff, (o.fdst.withRow g.n).scaleBytes g.m)]

/-- Each Lath die that is dealt one of `n` items of an operation has counted it, and no other die has (05 Table 5-8). -/
def LathCounted (s t : State) (g : Cores) (n : Nat) : Prop :=
  ∀ k, k < 4 → t.dev.rd .lathOps k = if (g.dies n).contains k then (s.dev.rd .lathOps k + 1) % 2 ^ 64 else s.dev.rd .lathOps k

/-- Beside the end of SQ `q`'s command nothing happens to queues or registers: every other SQ and CQ stays, and every register but
BAY_CMDS_DONE of its bay. -/
def Clean (s t : State) (q : Nat) (c : Cmd) : Prop :=
  (∀ p, p ≠ q → smFind t.dev.sqs p = smFind s.dev.sqs p)
  ∧ (∀ x, smFind s.dev.sqs q = some x → ∀ k, k ≠ x.cq → smFind t.dev.cqs k = smFind s.dev.cqs k)
  ∧ RegsKept s t [(.bayCmdsDone, c.bay)]

/-- Entry `i` of the KERNEL on SQ `q` has reached `st`. -/
def EntryIs (t : State) (q i : Nat) (st : EntrySt) : Prop := ∃ c k e, t.dev.entry? q i = some (c, k, e) ∧ e.st = st

/-- Entry `i` of the KERNEL on SQ `q`, of that class, waits to be started: its KERNEL, of command `c`, is not stopped, its deadline has not
passed and the engines run. -/
abbrev Startable (s : State) (q i cls : Nat) (c : Cmd) (e : Entry) : Prop :=
  ((s.dev.entry? q i).map fun x => (x.1, x.2.2, x.2.1.stopped)) = some (c, e, false) ∧ e.st = .waiting ∧ e.cls = cls
    ∧ s.dev.passed c = false ∧ s.dev.enginesRun = true

end Sys2Proof.Claims

open Sys2Proof Sys2Proof.Machine Sys2Proof.Claims
end

