-- ==== Sys2Proof/Certificates/Slice0/Obligations.lean ====
section
/-!
DEFINITION. The statements about this block, for the provers: what each family of commands does, what it leaves unchanged, and what every
command keeps. A statement's docstring names the rules of the spec it rests on, and the rows of the assumption log where it rests on a choice.
-/

open Sys2Proof Sys2Proof.Machine Sys2Proof.Claims

/-- One step runs the command at the front of the queue on the queue's rest (13 R361 to R363 are the commands' own order; the queue is the
block's form). -/
def Obligations.StepRunsFront : Prop :=
  ∀ (s : State) (c : Instr) (r : List Instr), s.pending = c :: r → step s = exec c { s with pending := r }

/-- Every command answers a next state and leaves the queue of waiting commands as it is: none ends in a fault or a refusal. With no command waiting a beat
passes: Purlin time advances by 4 ns once LOAD_GABLE is done (17 Table 17-3), and stands before; that an empty queue is a beat is the model's choice (log 2). -/
def Obligations.EveryStepAnswers : Prop :=
  (∀ (c : Instr) (s : State), ∃ t, exec c s = .next t ∧ t.pending = s.pending)
  ∧ ∀ s : State, s.pending = [] → ∃ t, step s = .next t ∧ t.pending = [] ∧ t.lim = s.lim
    ∧ (s.dev.stepDone 1 = false → t = s) ∧ (s.dev.stepDone 1 = true → t.dev.now = s.dev.now + 4)

/-- R3: the host may lower the clock and power limits below those of the variant record (SET_LIMITS with OP SET, at most the record's and within its own
ranges), and from every state whose clock limit, clock and power limit lie within the variant record every step, whatever the command, gives such a state. -/
def Obligations.LimitsStayBelowRecord : Prop :=
  (∀ (s : State) (q : Nat) (c : Cmd), Runs s q 0x82 c → c.nan = false → c.bits 16 0 2 = 0 → c.only 1 [(16, 0, 3), (20, 0, 32)] = true →
    c.at 20 2 % 50 = 0 → 500 ≤ c.at 20 2 → c.at 20 2 ≤ s.lim.recClock → 1600 ≤ c.at 22 2 → c.at 22 2 ≤ s.lim.recPower →
    Does (.setLimits q) s fun t => t.lim = { s.lim with clockLimit := c.at 20 2, powerLimit := c.at 22 2 })
  ∧ ∀ s t : State, s.lim.within → step s = .next t → t.lim.within

/-- Reset: nothing waits, no queue, object or message is there, the limits lie within the record, which is not yet read; every register instance reads the value
of its table, the array is SPLIT with TD0 to TD3 named RIDGE and the others VALLEY, each Eave unit names its host die, and the module is neither READY nor in
Sarking mode or power hold (04 R114; 07 Table 7-10; 13 R377; 17 R488; that memory nothing has written reads as zero is the model's choice: log 3). -/
def Obligations.ResetValues : Prop :=
  let d := State.reset.dev
  State.reset.pending = [] ∧ State.reset.lim.within ∧ State.reset.lim.recClock = 0 ∧ d.now = 0
    ∧ (∀ r i, i < r.instances → d.rd r i = r.reset i)
    ∧ d.fd .thatchArraySts 0 0 2 = 2 ∧ (∀ i, i < 12 → d.fd .thatchDieId i 4 2 = if i < 4 then 1 else 2)
    ∧ (∀ k, k < 32 → d.fd .eaveId k 5 5 = if k < 24 then k / 2 else 12 + (k - 24) / 2)
    ∧ d.ready = false ∧ d.early = false ∧ d.reloading = false ∧ d.powerState = 0 ∧ d.held = false ∧ d.pgood = false
    ∧ d.sqs = [] ∧ d.cqs = [] ∧ d.objs = [] ∧ d.sent = [] ∧ d.ulSets = [] ∧ d.nvme = [] ∧ (∀ b n, d.counter b n = 0)
    ∧ ∀ a, smGet 0 d.hbm a = 0 ∧ smGet 0 d.loft a = 0 ∧ smGet 0 d.hostMem a = 0 ∧ smGet 0 d.stage a = 0

/-- NOP, FENCE, WAIT_EVENT and SIGNAL_EVENT complete OK: NOP with result 0; FENCE, once no command it waits for is still started, with
their number; WAIT_EVENT, once the counter has its value, with the counter's low half; SIGNAL_EVENT sets, adds to (wrapping at 2^64) or
raises the counter (13 R376, R377, R380). Memory, every other counter, every other queue and register stay. -/
def Obligations.EventCommands : Prop :=
  ∀ (s : State) (q : Nat) (c : Cmd),
    (Runs s q 0x01 c → c.only 1 [] = true →
      Does (.nop q) s fun t => Ended s t q c stOk 0 ∧ Clean s t q c
        ∧ t = { s with dev := { s.dev with regs := t.dev.regs, sqs := t.dev.sqs, cqs := t.dev.cqs } })
    ∧ (Runs s q 0x02 c → c.at 16 4 = 0 → c.only 1 [(16, 0, 32)] = true → c.fenceBad = false →
      (∀ o ∈ c.waits, o ∉ s.dev.startedOn (s.dev.sqsOf c.bay)) →
      Does (.fence q) s fun t => Ended s t q c stOk c.waits.length ∧ Clean s t q c
        ∧ t = { s with dev := { s.dev with regs := t.dev.regs, sqs := t.dev.sqs, cqs := t.dev.cqs } })
    ∧ (Runs s q 0x03 c → c.only 1 [(16, 0, 12), (24, 0, 64)] = true → c.at 24 8 ≤ s.dev.counter c.bay (c.bits 16 0 12) →
      Does (.waitEvent q) s fun t => Ended s t q c stOk (s.dev.counter c.bay (c.bits 16 0 12) % 2 ^ 32) ∧ Clean s t q c
        ∧ t = { s with dev := { s.dev with regs := t.dev.regs, sqs := t.dev.sqs, cqs := t.dev.cqs } })
    ∧ (Runs s q 0x03 c → c.only 1 [(16, 0, 12), (24, 0, 64)] = true → s.dev.counter c.bay (c.bits 16 0 12) < c.at 24 8 →
      exec (.waitEvent q) s = .next s)
    ∧ (Runs s q 0x04 c → c.only 1 [(16, 0, 12), (18, 0, 2), (24, 0, 64)] = true → c.bay < s.dev.bays.length →
      s.dev.counter c.bay (c.bits 16 0 12) < 2 ^ 64 → c.bits 18 0 2 ≤ 2 →
      let old := s.dev.counter c.bay (c.bits 16 0 12)
      let new := if c.bits 18 0 2 = 0 then c.at 24 8 else if c.bits 18 0 2 = 1 then (old + c.at 24 8) % 2 ^ 64 else max old (c.at 24 8)
      Does (.signalEvent q) s fun t => Ended s t q c stOk (new % 2 ^ 32) ∧ Clean s t q c
        ∧ t.dev.counter c.bay (c.bits 16 0 12) = new
        ∧ (∀ b k, (b ≠ c.bay ∨ k ≠ c.bits 16 0 12) → t.dev.counter b k = s.dev.counter b k)
        ∧ t = { s with dev := { s.dev with regs := t.dev.regs, sqs := t.dev.sqs, cqs := t.dev.cqs, bays := t.dev.bays } })

/-- PACKET_READ takes one packet of an SQ that may be read: a whole packet announced at the head moves to the packets that wait to start,
with the status of its header checks, and the head passes it; a LENGTH outside 1 to 8 puts the queue in ERROR, as does a ring that
cannot be read (13 R361, R362, R367, R371). COMMAND_START starts the oldest packet read: the SQ runs it from now on, in start order. -/
def Obligations.ReadAndStart : Prop :=
  ∀ (s : State) (q : Nat) (x : Sq), smFind s.dev.sqs q = some x →
    (∀ h bs, s.dev.mayRead q x = true → s.dev.ringUnit x x.head = some h →
      let len := bytesAt (ofLe h) 2 2
      1 ≤ len → len ≤ 8 → len ≤ x.avail → s.dev.ringUnits x len x.head = some bs →
      Does (.packetRead q) s fun t => t = { s with dev := { s.dev with sqs := t.dev.sqs } }
        ∧ (∀ p, p ≠ q → smFind t.dev.sqs p = smFind s.dev.sqs p)
        ∧ ∃ y, smFind t.dev.sqs q = some y ∧ y.head = (x.head + len) % 2 ^ x.log2 ∧ y.headDue = true ∧ y.tail = x.tail ∧ y.run = x.run
          ∧ y.ready = x.ready ++ [{ pkt := ofLe bs, len := len, early := s.dev.headerCheck x (ofLe bs) len }])
    ∧ (∀ h, s.dev.mayRead q x = true → x.avail ≠ 0 → s.dev.ringUnit x x.head = some h →
      (bytesAt (ofLe h) 2 2 = 0 ∨ 8 < bytesAt (ofLe h) 2 2) →
      Does (.packetRead q) s fun t => ∃ y, smFind t.dev.sqs q = some y ∧ y.st = 2 ∧ y.cause = 1)
    ∧ (s.dev.mayRead q x = true → x.avail ≠ 0 → s.dev.ringUnit x x.head = none →
      Does (.packetRead q) s fun t => ∃ y, smFind t.dev.sqs q = some y ∧ y.st = 2 ∧ y.cause = 3)
    ∧ (∀ p rest, x.ready = p :: rest → s.dev.mayStart q x p = true → p.early = none → s.dev.ready = true → s.dev.sarking = false →
      bytesAt p.pkt 8 8 = 0 →
      Does (.commandStart q) s fun t => ∃ y c, smFind t.dev.sqs q = some y ∧ y.ready = rest ∧ y.run = some c ∧ c.sq = q ∧ c.bay = x.bay
        ∧ c.pkt = p.pkt ∧ c.started = s.dev.now ∧ c.order = s.dev.startOrder ∧ c.flush = s.dev.rbit .bayNumcfg x.bay 0
        ∧ t.dev.startOrder = s.dev.startOrder + 1 ∧ t.dev.cqs = s.dev.cqs ∧ MemoryKept s t
        ∧ (∀ p, p ≠ q → smFind t.dev.sqs p = smFind s.dev.sqs p))

/-- COMPLETION_WRITE puts the oldest waiting entry of an admin CQ into host memory, once there are free slots for it: its first slot is
Table 13-2's, with the slot's phase; an entry of a queue without extension takes one slot (13 R363, R364, R370). SQ_HEAD_WRITE writes the
head that packets have been read up to (R369). The two coalescing timers signal the vector (R372, R388). -/
def Obligations.HeadsAndCompletions : Prop :=
  ∀ s : State, s.dev.rbit .hostifErr 0 3 = false →
    (∀ c k e rest, smFind s.dev.cqs c = some k → k.admin = true → k.bay < 16 → k.st = 1 → k.waiting = e :: rest → e.ext = false →
      k.pos - k.rd + 1 ≤ 2 ^ k.log2 - 1 → s.dev.served e.sq = true → ((smFind s.dev.sqs e.sq).all fun x => !x.headDue) = true →
      e.signal = false → k.unsignalled + 1 < k.coalCount → s.dev.rbit .bayAdminCtrl k.bay 0 = true →
      Does (.completionWrite c) s fun t =>
        readBytes t.dev.hostMem (k.ring + 16 * (k.pos % 2 ^ k.log2)) 16 = toLe 16 (e.slot0 (1 - k.pos / 2 ^ k.log2 % 2))
        ∧ (∀ a, (a < k.ring + 16 * (k.pos % 2 ^ k.log2) ∨ k.ring + 16 * (k.pos % 2 ^ k.log2) + 16 ≤ a) →
          smGet 0 t.dev.hostMem a = smGet 0 s.dev.hostMem a)
        ∧ smFind t.dev.cqs c = some { k with waiting := rest, pos := k.pos + 1, unsignalled := k.unsignalled + 1 }
        ∧ t = { s with dev := { s.dev with hostMem := t.dev.hostMem, cqs := t.dev.cqs, regs := t.dev.regs } })
    ∧ (∀ q x, smFind s.dev.sqs q = some x → x.admin = true → x.headDue = true →
      Does (.sqHeadWrite q) s fun t => readBytes t.dev.hostMem x.headAddr 8 = toLe 8 x.head
        ∧ (∀ a, (a < x.headAddr ∨ x.headAddr + 8 ≤ a) → smGet 0 t.dev.hostMem a = smGet 0 s.dev.hostMem a)
        ∧ smFind t.dev.sqs q = some { x with headDue := false }
        ∧ t = { s with dev := { s.dev with hostMem := t.dev.hostMem, sqs := t.dev.sqs, regs := t.dev.regs } })
    ∧ (∀ c k, smFind s.dev.cqs c = some k → k.coalUs ≠ 0 → k.unsignalled ≠ 0 → bitAt (s.dev.msixWord k.bay (16 * k.vector + 12)) 0 = true →
      Does (.cqCoalesceTimer c) s fun t => smFind t.dev.msixPending (k.bay * 128 + k.vector) = some ()
        ∧ smFind t.dev.cqs c = some { k with unsignalled := 0 }
        ∧ t = { s with dev := { s.dev with msixPending := t.dev.msixPending, cqs := t.dev.cqs } })
    ∧ (∀ b, b < s.dev.bays.length → (s.dev.bay b).evq.unsignalled ≠ 0 → bitAt (s.dev.msixWord b 12) 0 = true →
      Does (.evqCoalesceTimer b) s fun t => smFind t.dev.msixPending (b * 128) = some () ∧ (t.dev.bay b).evq.unsignalled = 0
        ∧ t = { s with dev := { s.dev with msixPending := t.dev.msixPending, bays := t.dev.bays } })

/-- Doorbells: a write of both halves moves the tail, one of the upper half moves the CQ's head; a tail beyond the ring or a head beyond
the ring puts the queue in ERROR, for an enabled bay that holds the SQ (13 R368, R370, R371). -/
def Obligations.DoorbellsMoveTailsAndHeads : Prop :=
  ∀ (s : State) (b q v : Nat) (x : Sq), HostUp s [b] → b < 16 → s.dev.doorbellBad b q = false → smFind s.dev.sqs q = some x →
    (bitAt v 31 = true → x.st = 1 → fld v 0 16 < 2 ^ x.log2 → v < 2 ^ 32 →
      Does (.sqTailWrite b q v false) s fun t => smFind t.dev.sqs q = some { x with tail := fld v 0 16 } ∧ t.dev.cqs = s.dev.cqs
        ∧ MemoryKept s t ∧ (∀ p, p ≠ q → smFind t.dev.sqs p = smFind s.dev.sqs p))
    ∧ (bitAt v 31 = true → x.st = 1 → 2 ^ x.log2 ≤ fld v 0 16 →
      Does (.sqTailWrite b q v false) s fun t => ∃ y, smFind t.dev.sqs q = some y ∧ y.st = 2 ∧ y.cause = 2 ∧ y.tail = x.tail)
    ∧ (∀ k, smFind s.dev.cqs x.cq = some k → k.st = 1 → bitAt v 31 = true → fld v 0 16 < 2 ^ k.log2 →
      (fld v 0 16 + 2 ^ k.log2 - k.rd % 2 ^ k.log2) % 2 ^ k.log2 ≤ k.pos - k.rd →
      Does (.cqHeadWrite b q v) s fun t =>
        smFind t.dev.cqs x.cq = some { k with rd := k.rd + (fld v 0 16 + 2 ^ k.log2 - k.rd % 2 ^ k.log2) % 2 ^ k.log2 }
        ∧ t.dev.sqs = s.dev.sqs ∧ MemoryKept s t)
    ∧ (∀ k, smFind s.dev.cqs x.cq = some k → k.st = 1 → bitAt v 31 = true → 2 ^ k.log2 ≤ fld v 0 16 →
      Does (.cqHeadWrite b q v) s fun t => ∃ y, smFind t.dev.cqs x.cq = some y ∧ y.st = 2 ∧ y.cause = 5 ∧ y.rd = k.rd)

/-- A write of BAY_EVQ_HEAD within the entries written moves the head; one beyond them changes nothing but the byte count of the link
(13 R388; 16 Table 16-14). -/
def Obligations.EventQueueHead : Prop :=
  ∀ (s : State) (b h : Nat), HostUp s [0, b] → b < 16 → b < s.dev.bays.length →
    let n := 2 ^ s.dev.fd .bayEvqCtrl b 8 5
    let e := (s.dev.bay b).evq
    let k := (h + n - e.rd % n) % n
    (h < n → h < 2 ^ 32 → k ≤ e.pos - e.rd →
      Does (.evqHeadWrite b h) s fun t => t.dev.rd .bayEvqHead b = h ∧ (t.dev.bay b).evq = { e with rd := e.rd + k }
        ∧ t = { s with dev := { s.dev with regs := t.dev.regs, bays := t.dev.bays } }
        ∧ RegsKept s t [(.bayEvqHead, b), (.hostifRxBytes, 0)])
    ∧ (n ≤ h → Does (.evqHeadWrite b h) s fun t => (t.dev.bay b).evq = e
        ∧ t = { s with dev := { s.dev with regs := t.dev.regs } } ∧ RegsKept s t [(.hostifRxBytes, 0)])

/-- QUEUE_CREATE makes a CQ or an SQ with its ring, size, vector or head address and CQ, empty and ACTIVE; QUEUE_DELETE of a CQ that no SQ
names removes it (13 R372). Both complete OK. -/
def Obligations.QueuesMadeAndDeleted : Prop :=
  ∀ (s : State) (q : Nat) (c : Cmd) (x : Sq), smFind s.dev.sqs q = some x →
    let id := c.at 20 4
    let log2 := c.bits 17 0 5
    let shape := c.only 1 [(16, 0, 1), (17, 0, 5), (20, 0, 32), (24, 0, 48), (32, 0, 64), (40, 0, 32), (44, 0, 32)] = true
      ∧ 4 ≤ log2 ∧ log2 ≤ 16 ∧ c.at 24 8 % 4096 = 0
    (Runs s q 0xA1 c → shape → s.dev.ready = true → bitAt c.pkt 128 = true → c.at 32 8 = 0 → 1 ≤ c.at 40 4 → c.at 40 4 ≤ 127 →
      s.dev.holdsCq c.bay id = true → id ≠ s.dev.rd .bayCqBase c.bay → smFind s.dev.cqs id = none → id ≠ x.cq →
      s.dev.ringOk c.bay (c.at 24 8) (16 * 2 ^ log2) true = true →
      Does (.queueCreate q) s fun t => Ended s t q c stOk 0
        ∧ smFind t.dev.cqs id = some { bay := c.bay, admin := false, ring := c.at 24 8, log2 := log2, vector := c.at 40 4
                                       coalCount := c.at 44 2, coalUs := c.at 46 2 }
        ∧ t = { s with dev := { s.dev with regs := t.dev.regs, sqs := t.dev.sqs, cqs := t.dev.cqs } })
    ∧ (∀ k, Runs s q 0xA1 c → shape → s.dev.ready = true → bitAt c.pkt 128 = false → c.at 32 8 % 8 = 0 → c.at 44 2 = 0 → c.at 46 2 = 0 →
      s.dev.holdsSq c.bay id = true → id ≠ s.dev.rd .baySqBase c.bay → smFind s.dev.sqs id = none →
      smFind s.dev.cqs (c.at 40 4) = some k → k.bay = c.bay → k.st = 1 →
      s.dev.ringOk c.bay (c.at 24 8) (64 * 2 ^ log2) false = true → s.dev.ringOk c.bay (c.at 32 8) 8 true = true →
      Does (.queueCreate q) s fun t => Ended s t q c stOk 0
        ∧ smFind t.dev.sqs id = some { bay := c.bay, admin := false, ring := c.at 24 8, log2 := log2, headAddr := c.at 32 8, cq := c.at 40 4 }
        ∧ t = { s with dev := { s.dev with regs := t.dev.regs, sqs := t.dev.sqs, cqs := t.dev.cqs } })
    ∧ (∀ k, Runs s q 0xA2 c → c.only 1 [(16, 0, 1), (20, 0, 32)] = true → bitAt c.pkt 128 = true →
      smFind s.dev.cqs id = some k → k.bay = c.bay → k.admin = false → (∀ e ∈ s.dev.sqs, e.2.cq ≠ id) → x.cq ≠ id →
      Does (.queueDelete q) s fun t => Ended s t q c stOk 0 ∧ smFind t.dev.cqs id = none
        ∧ t = { s with dev := { s.dev with regs := t.dev.regs, sqs := t.dev.sqs, cqs := t.dev.cqs } })

/-- BAY_TRAP_CTRL.CLEAR clears TRAPPED and MULTI and the count, and leaves the record, where no NaN is reported in the same beat (02 R60, R62). NUMSTAT_CTRL.ENABLE takes a table of fresh
slots where the quota has room; its clearing discards the table (03 R68, R90). PFSTAT_CTRL.RESET zeroes
the bay's prefetch counters (06 R189). The summary
interval of stream drops ends with its event, PFSTAT_SUMMARY_US after it began, not before (06 R185). -/
def Obligations.NumericRegisters : Prop :=
  ∀ (s : State) (b v : Nat), b < 16 → b < s.dev.bays.length →
    let log2 := fld v 8 5
    let bytes := 2 ^ log2 * 512 + 16384
    (HostUp s [0, b] → (∀ n, (s.dev.bay b).nanBeat = some n → n.time ≠ s.dev.now) → Does (.trapClear b) s fun t => t.dev.rbit .bayNumsts b 1 = false ∧ t.dev.rbit .bayNumsts b 2 = false
        ∧ t.dev.rbit .bayNumsts b 0 = s.dev.rbit .bayNumsts b 0 ∧ t.dev.rd .bayTrapCount b = 0
        ∧ t = { s with dev := { s.dev with regs := t.dev.regs } }
        ∧ RegsKept s t [(.bayNumsts, b), (.bayTrapCount, b), (.hostifRxBytes, 0)])
    ∧ (HostUp s [0, b] → s.dev.rbit .numstatCtrl b 0 = false → bitAt v 0 = true → 4 ≤ log2 → log2 ≤ 16 → s.dev.quotaUsed b 1 + bytes ≤ s.dev.quota b 1 →
      Does (.numstatEnable b v) s fun t => t.dev.rbit .numstatCtrl b 0 = true ∧ t.dev.fd .numstatSts b 0 2 = 1
        ∧ t.dev.rd .numstatTableBytes b = bytes
        ∧ (∃ x, (t.dev.bay b).stats = some x ∧ x.log2 = log2 ∧ x.layers = [] ∧ x.recs.length = 2 ^ log2
          ∧ ∀ e ∈ x.recs, e.2 = StatRec.fresh 0 0xD8 0xFFFF)
        ∧ t = { s with dev := { s.dev with regs := t.dev.regs, bays := t.dev.bays } })
    ∧ (HostUp s [0, b] → s.dev.rbit .numstatCtrl b 0 = true → bitAt v 0 = false → 4 ≤ log2 → log2 ≤ 16 →
      Does (.numstatDisable b v) s fun t => t.dev.rbit .numstatCtrl b 0 = false ∧ t.dev.fd .numstatSts b 0 2 = 0
        ∧ t.dev.rd .numstatTableBytes b = 0 ∧ (t.dev.bay b).stats = none
        ∧ t = { s with dev := { s.dev with regs := t.dev.regs, bays := t.dev.bays } })
    ∧ (HostUp s [0, b] → Does (.pfstatReset b) s fun t =>
        (∀ r ∈ [Reg.pfstatIssued, .pfstatUsed, .pfstatLate, .pfstatEvicted, .pfstatDemand, .pfstatDropped, .pfstatStreams], t.dev.rd r b = 0)
        ∧ t = { s with dev := { s.dev with regs := t.dev.regs } }
        ∧ RegsKept s t [(.pfstatIssued, b), (.pfstatUsed, b), (.pfstatLate, b), (.pfstatEvicted, b), (.pfstatDemand, b), (.pfstatDropped, b),
            (.pfstatStreams, b), (.hostifRxBytes, 0)])
    ∧ ((s.dev.bay b).summaryAt + 1000 * s.dev.rd .pfstatSummaryUs b ≤ s.dev.now → s.dev.rd .pfstatPendingDrops b ≠ 0 → s.dev.rbit .pfstatCtrl b 1 = true → s.dev.rbit .bayEvqCtrl b 0 = true →
      (s.dev.bay b).evq.pos - (s.dev.bay b).evq.rd < 2 ^ s.dev.fd .bayEvqCtrl b 8 5 - 1 →
      Does (.pfDropSummary b) s fun t => t.dev.rd .pfstatPendingDrops b = 0 ∧ (t.dev.bay b).firstDrop = none
        ∧ (t.dev.bay b).summaryAt = s.dev.now ∧ ((s.dev.bay b).firstDrop.isSome = true → t.dev.free = s.dev.free) ∧ (t.dev.bay b).evq.pos = (s.dev.bay b).evq.pos + 1
        ∧ t = { s with dev := { s.dev with regs := t.dev.regs, hostMem := t.dev.hostMem, bays := t.dev.bays, free := t.dev.free } })
    ∧ ((s.dev.now < (s.dev.bay b).summaryAt + 1000 * s.dev.rd .pfstatSummaryUs b) → Does (.pfDropSummary b) s fun t => t = s)

/-- STAT_READ writes the slots asked for to bay memory, and with CLEAR makes them fresh; STAT_RESET makes record slots fresh with the class,
histogram base and layer given, both with the number of slots as result; STAT_CLOSE closes the open steps of layer slots, with their number (03 R92,
R93). -/
def Obligations.StatisticsCommands : Prop :=
  ∀ (s : State) (q : Nat) (c : Cmd) (x : StatTable), c.bay < s.dev.bays.length → (s.dev.bay c.bay).stats = some x →
    let first := c.at 20 4
    let n := c.at 24 4
    (∀ d1, Runs s q 0x80 c → c.only 1 [(16, 0, 3), (20, 0, 64), (32, 0, 48)] = true → c.bits 16 0 2 = 0 → 1 ≤ n → first + n ≤ 2 ^ x.log2 →
      x.badSlot false first n = none → s.dev.writeErr c.bay (c.at 32 8) (n * 512) = none →
      s.dev.writeVa c.bay (c.at 32 8) ((upFrom first n).flatMap fun i => toLe 512 (x.rec_ i).bytes) = (d1, none) →
      Does (.statRead q) s fun t => Ended s t q c stOk n ∧ t.dev.hbm = d1.hbm ∧ t.dev.loft = s.dev.loft ∧ t.dev.objs = d1.objs
        ∧ ∃ y, (t.dev.bay c.bay).stats = some y ∧ y.layers = x.layers
          ∧ ∀ i, y.rec_ i = if bitAt c.pkt 130 = true ∧ first ≤ i ∧ i < first + n then
              StatRec.fresh (x.rec_ i).cls (x.rec_ i).histBase (x.rec_ i).layer else x.rec_ i)
    ∧ (Runs s q 0x81 c → c.bits 16 2 2 = 0 → Dev.statResetOk c x = true → c.bits 16 0 2 = 0 → x.badSlot false first n = none →
      Does (.statReset q) s fun t => Ended s t q c stOk n ∧ Clean s t q c
        ∧ (∃ y, (t.dev.bay c.bay).stats = some y ∧ y.log2 = x.log2 ∧ y.layers = x.layers
          ∧ (∀ i, first ≤ i → i < first + n → y.rec_ i = StatRec.fresh (c.bits 17 0 2) (c.at 18 1) (c.at 28 2))
          ∧ (∀ i, (i < first ∨ first + n ≤ i) → y.rec_ i = x.rec_ i))
        ∧ t = { s with dev := { s.dev with regs := t.dev.regs, sqs := t.dev.sqs, cqs := t.dev.cqs, bays := t.dev.bays } })
    ∧ (Runs s q 0x81 c → c.bits 16 2 2 = 1 → Dev.statResetOk c x = true → x.badSlot true first n = none →
      Does (.statClose q) s fun t => Ended s t q c stOk ((upFrom first n).filter fun i => (x.layer i).isOpen).length
        ∧ (∃ y, (t.dev.bay c.bay).stats = some y ∧ y.recs = x.recs
          ∧ (∀ i, first ≤ i → i < first + n → (y.layer i).isOpen = false)
          ∧ (∀ i, (i < first ∨ first + n ≤ i) → y.layer i = x.layer i))
        ∧ t = { s with dev := { s.dev with regs := t.dev.regs, hostMem := t.dev.hostMem, sqs := t.dev.sqs, cqs := t.dev.cqs, bays := t.dev.bays } })

/-- The admin pair and the event queue (13 R388, R390, R397, R399): ENABLE makes the pair, empty and ACTIVE, of the sizes written, at the
addresses of the registers, and ends it where nothing is left in it; the event queue starts empty, and stops; a write with a size out of its
range does neither (00 R546); QUEUE_INSPECT shows a queue. -/
def Obligations.QueueRegisters : Prop :=
  ∀ (s : State) (b v : Nat), HostUp s [0, b] → b < 16 → b < s.dev.bays.length →
    let q := s.dev.rd .baySqBase b
    let c := s.dev.rd .bayCqBase b
    (s.dev.rbit .bayAdminCtrl b 0 = false → bitAt v 0 = true → 4 ≤ fld v 8 5 → fld v 8 5 ≤ 16 → 4 ≤ fld v 16 5 → fld v 16 5 ≤ 16 →
      s.dev.holdsSq b q = true → s.dev.holdsCq b c = true → smFind s.dev.sqs q = none →
      Does (.adminEnable b v) s fun t => t.dev.rbit .bayAdminCtrl b 0 = true ∧ t.dev.fd .bayAdminSts b 0 2 = 1
        ∧ smFind t.dev.sqs q = some { bay := b, admin := true, ring := s.dev.rd .bayAdminSqAddr b, log2 := fld v 8 5
                                      headAddr := s.dev.rd .bayAdminHeadAddr b, cq := c }
        ∧ smFind t.dev.cqs c = some { bay := b, admin := true, ring := s.dev.rd .bayAdminCqAddr b, log2 := fld v 16 5, vector := 1 }
        ∧ t = { s with dev := { s.dev with regs := t.dev.regs, sqs := t.dev.sqs, cqs := t.dev.cqs } })
    ∧ (∀ x k, s.dev.rbit .bayAdminCtrl b 0 = true → bitAt v 0 = false → 4 ≤ fld v 8 5 → fld v 8 5 ≤ 16 → 4 ≤ fld v 16 5 → fld v 16 5 ≤ 16 →
      (s.dev.bay b).seqs = [] → smFind s.dev.sqs q = some x → x.admin = true → x.run = none →
      x.ready = [] → x.deferred = [] → smFind s.dev.cqs c = some k → k.admin = true → k.waiting = [] →
      Does (.adminDisable b v) s fun t => t.dev.rbit .bayAdminCtrl b 0 = false ∧ t.dev.rd .bayAdminSts b = 0
        ∧ smFind t.dev.sqs q = none ∧ smFind t.dev.cqs c = none ∧ (∀ a, t.dev.bay a = s.dev.bay a)
        ∧ t = { s with dev := { s.dev with regs := t.dev.regs, sqs := t.dev.sqs, cqs := t.dev.cqs, bays := t.dev.bays } })
    ∧ (s.dev.rbit .bayEvqCtrl b 0 = false → bitAt v 0 = true → 6 ≤ fld v 8 5 → fld v 8 5 ≤ 16 →
      Does (.evqEnable b v) s fun t => t.dev.rbit .bayEvqCtrl b 0 = true ∧ t.dev.fd .bayEvqCtrl b 8 5 = fld v 8 5
        ∧ (t.dev.bay b).evq.pos = 0 ∧ (t.dev.bay b).evq.rd = 0 ∧ t.dev.rd .bayEvqHead b = 0
        ∧ t = { s with dev := { s.dev with regs := t.dev.regs, bays := t.dev.bays } })
    ∧ (s.dev.rbit .bayEvqCtrl b 0 = true → bitAt v 0 = false → 6 ≤ fld v 8 5 → fld v 8 5 ≤ 16 →
      Does (.evqDisable b v) s fun t => t.dev.rbit .bayEvqCtrl b 0 = false ∧ t = { s with dev := { s.dev with regs := t.dev.regs } }
        ∧ RegsKept s t [(.bayEvqCtrl, b), (.hostifRxBytes, 0)])
    ∧ (fld v 8 5 < 4 ∨ 16 < fld v 8 5 ∨ fld v 16 5 < 4 ∨ 16 < fld v 16 5 →
      (Does (.adminEnable b v) s fun t => RegsKept s t [(.hostifRxBytes, 0)] ∧ t.dev.sqs = s.dev.sqs ∧ t.dev.cqs = s.dev.cqs)
      ∧ Does (.adminDisable b v) s fun t => RegsKept s t [(.hostifRxBytes, 0)] ∧ t.dev.sqs = s.dev.sqs ∧ t.dev.cqs = s.dev.cqs)
    ∧ (fld v 8 5 < 6 ∨ 16 < fld v 8 5 →
      (Does (.evqEnable b v) s fun t => RegsKept s t [(.hostifRxBytes, 0)] ∧ t.dev.bays = s.dev.bays)
      ∧ Does (.evqDisable b v) s fun t => RegsKept s t [(.hostifRxBytes, 0)] ∧ t.dev.bays = s.dev.bays)
    ∧ (∀ x, HostUp s [0] → bitAt v 31 = false → smFind s.dev.sqs (fld v 0 18) = some x → x.st < 4 → x.bay < 16 → x.cause < 16 → x.head < 2 ^ 16 →
      Does (.queueInspect v) s fun t => t.dev.fd .queueInspectSts 0 0 2 = x.st ∧ t.dev.fd .queueInspectSts 0 2 4 = x.bay
        ∧ t.dev.fd .queueInspectSts 0 6 4 = x.cause ∧ t.dev.fd .queueInspectSts 0 16 16 = x.head
        ∧ t = { s with dev := { s.dev with regs := t.dev.regs } }
        ∧ RegsKept s t [(.queueInspectSel, 0), (.queueInspectSts, 0), (.hostifRxBytes, 0)])

/-- A request for the other configuration is pending (04 R109); the switch starts once neither engine runs an operation, and ends with the
configuration in force, its time, count and duration shown and the engines' dies named anew (04 R110, R111, R114). -/
def Obligations.ArraySwitch : Prop :=
  ∀ s : State,
    (∀ target, target = 1 ∨ target = 2 → HostUp s [0] → s.dev.ready = true → s.dev.rbit .thatchArraySts 0 2 = false →
      s.dev.rbit .thatchArraySts 0 3 = false → s.dev.fd .thatchArraySts 0 0 2 ≠ target →
      Does (if target = 1 then .arrayReqJoined else .arrayReqSplit) s fun t =>
        t.dev.rbit .thatchArraySts 0 2 = true ∧ t.dev.arr = { s.dev.arr with target := target }
        ∧ t.dev.fd .thatchArraySts 0 0 2 = s.dev.fd .thatchArraySts 0 0 2
        ∧ t = { s with dev := { s.dev with regs := t.dev.regs, arr := t.dev.arr } }
        ∧ RegsKept s t [(.thatchArraySts, 0), (.hostifRxBytes, 0)])
    ∧ (∀ c, c = Instr.arrayReqJoined ∨ c = .arrayReqSplit → HostUp s [0] →
      (s.dev.rbit .thatchArraySts 0 2 = true ∨ s.dev.rbit .thatchArraySts 0 3 = true) →
      Does c s fun t => t.dev.arr = s.dev.arr ∧ RegsKept s t [(.hostifRxBytes, 0)])
    ∧ (s.dev.rbit .thatchArraySts 0 2 = true → s.dev.rbit .thatchArraySts 0 3 = false → s.dev.engineBusy 0 = false →
      s.dev.engineBusy 1 = false → s.dev.powerState = 0 → s.dev.held = false →
      Does .arraySwitchStart s fun t => t.dev.rbit .thatchArraySts 0 2 = false ∧ t.dev.rbit .thatchArraySts 0 3 = true
        ∧ t.dev.arr = { s.dev.arr with since := s.dev.now }
        ∧ t = { s with dev := { s.dev with regs := t.dev.regs, arr := t.dev.arr } } ∧ RegsKept s t [(.thatchArraySts, 0)])
    ∧ (s.dev.rbit .thatchArraySts 0 3 = true → s.dev.rbit .thatchArraySts 0 2 = false → s.dev.powerState = 0 → s.dev.held = false →
      s.dev.arr.target ≤ 2 → s.dev.arr.held = none → s.dev.stepRuns 12 = false →
      (s.dev.parts.all fun p => (s.dev.turn? p).all fun t => t.acted.isNone) = true →
      Does (.arraySwitchEnd none) s fun t => t.dev.fd .thatchArraySts 0 0 2 = s.dev.arr.target ∧ t.dev.rbit .thatchArraySts 0 3 = false
        ∧ t.dev.rd .thatchSwitchTime 0 = s.dev.now % 2 ^ 64
        ∧ t.dev.rd .thatchSwitchNs 0 = min (s.dev.now - s.dev.arr.since) 0xFFFFFFFF
        ∧ t.dev.rd .thatchSwitchCount 0 = min (s.dev.rd .thatchSwitchCount 0 + 1) 0xFFFFFFFF
        ∧ (∀ i, i < 12 → t.dev.fd .thatchDieId i 4 2 = if s.dev.arr.target = 1 then 0 else if i < 4 then 1 else 2)
        ∧ t.dev.arr = {} ∧ t = { s with dev := { s.dev with regs := t.dev.regs, arr := t.dev.arr } })

/-- The scheduler gives an idle slot that no unit reserves to the next unit of 13 R392, where every slot the unit needs is free: a ready
HIGH_CLASS unit before every other, by its deadline and start; but a unit that reserved a slot and can take all it needs comes before it. While
a configuration switch is pending or runs, none is given (04 R110). Memory, queues and objects stay. -/
def Obligations.SlotsGoToTheNextUnit : Prop :=
  ∀ (s : State) (e : Nat) (u : SUnit), (e = 0 ∨ (e = 1 ∧ s.dev.split = true ∧ s.dev.ready = true)) → s.dev.sched.slot e = none →
    (s.dev.thatchAdmits = false → Does (.schedPick e) s fun t => t = s)
    ∧ (s.dev.thatchAdmits = true → s.dev.waitingBoth = none → s.dev.sched.reserved e = none → s.dev.nextUnit e = some u → s.dev.slotsFree u = true →
      Does (.schedPick e) s fun t => t.dev.sched.slot e = some (u, s.dev.now) ∧ (∀ x ∈ t.dev.sched.ready, x.sq ≠ u.sq)
      ∧ t = { s with dev := { s.dev with regs := t.dev.regs, sched := t.dev.sched } } ∧ RegsKept s t [(.bayHighWaitMax, u.bay)])
    ∧ (s.dev.thatchAdmits = true → s.dev.waitingBoth = some u → Does (.schedPick e) s fun t => (∀ x ∈ s.dev.slotsOf u, t.dev.sched.slot x = some (u, s.dev.now))
      ∧ (∀ x ∈ t.dev.sched.ready, x.sq ≠ u.sq) ∧ t = { s with dev := { s.dev with regs := t.dev.regs, sched := t.dev.sched } }
      ∧ RegsKept s t [(.bayHighWaitMax, u.bay)])
    ∧ (s.dev.nextUnit e = some u → ∀ x ∈ s.dev.sched.ready, e ∈ s.dev.slotsOf x → x.high = true → u.high = true
      ∧ (x.deadline ≠ 0 → u.deadline ≠ 0 ∧ u.deadline ≤ x.deadline))

/-- COPY of bytes and FILL complete OK where their accesses meet no error, and the memories are as the write of the source bytes, or of the
repeated pattern, leaves them; so the destination in the Loft then reads as the source did, and every other Loft byte stays. CONVERT
completes with the saturations of its blocks as result, whatever its status (02 R66; 06 R173, R186, R187). -/
def Obligations.CopyCommands : Prop :=
  ∀ (s : State) (q : Nat) (c : Cmd), c.sq = q → c.nan = false → c.contribs = [] → c.trapped = false → s.dev.enginesRun = true → s.dev.engUpset = [] →
    (∀ k bs d1, Runs s q 0x10 c → parseCopy (c.at 16 192) = some k → onlyFields c.pkt 2048 [(0, 128), (128, 1536)] = true → k.kind = 1 →
      k.conv = false → k.pack = 0 → k.spar = false → k.gate = false → k.mask = 0 → k.waitLoft = 0xFFFFFFFF → k.done = 0xFFFFFFFF → s.dev.diesUp k.dies = true → s.dev.copyShut k = false →
      s.dev.grants c.bay k.loftRanges = true → s.dev.readSp c.bay k.ssp k.src k.len = .ok bs → s.dev.writeSp c.bay k.dsp k.dst bs = (d1, none) →
      Does (.copy q) s fun t => Ended s t q c stOk 0 ∧ t.dev.hbm = d1.hbm ∧ t.dev.loft = d1.loft ∧ t.dev.objs = d1.objs
        ∧ t.dev.peerMem = d1.peerMem ∧ t.dev.hostMem = s.dev.hostMem
        ∧ (k.ssp = .loft → k.dsp = .loft → s.dev.loftBad = [] → readBytes t.dev.loft k.dst k.len = readBytes s.dev.loft k.src k.len
          ∧ ∀ a, (a < k.dst ∨ k.dst + k.len ≤ a) → smGet 0 t.dev.loft a = smGet 0 s.dev.loft a))
    ∧ (∀ d1, Runs s q 0x11 c → c.only 1 [(16, 0, 192), (40, 0, 1), (42, 0, 16)] = true → c.at 42 2 = 0 → 1 ≤ c.at 24 8 → c.at 24 8 ≤ 2 ^ 40 →
      c.at 16 8 < 2 ^ 32 → bitAt c.pkt 320 = false → s.dev.grants c.bay [(c.at 16 8, c.at 24 8)] = true →
      s.dev.writeSp c.bay .loft (c.at 16 8) (fillBytes (c.at 32 8) (c.at 24 8)) = (d1, none) →
      Does (.fill q) s fun t => Ended s t q c stOk 0 ∧ t.dev.loft = d1.loft ∧ t.dev.hbm = s.dev.hbm ∧ t.dev.objs = s.dev.objs
        ∧ (s.dev.loftBad = [] → readBytes t.dev.loft (c.at 16 8) (c.at 24 8) = fillBytes (c.at 32 8) (c.at 24 8)))
    ∧ (∀ d1, Runs s q 0x11 c → c.only 1 [(16, 0, 192), (40, 0, 1), (42, 0, 16)] = true → c.at 42 2 = 0 → 1 ≤ c.at 24 8 → c.at 24 8 ≤ 2 ^ 40 →
      c.at 16 8 < 2 ^ 48 → bitAt c.pkt 320 = true →
      s.dev.writeVa c.bay (c.at 16 8) (fillBytes (c.at 32 8) (c.at 24 8)) = (d1, none) →
      Does (.fill q) s fun t => Ended s t q c stOk 0 ∧ t.dev.hbm = d1.hbm ∧ t.dev.objs = d1.objs ∧ t.dev.loft = s.dev.loft)
    ∧ (∀ v rows, Runs s q 0x12 c → parseConvert c = some (v, rows) → s.dev.fmtShut v.sf = false → s.dev.fmtShut v.df = false →
      let n := rows * v.df.rowLen
      let src := tensorRngs v.sf v.src n
      let o := convBlocks c v (src.foldl (fun d r => d.flashRead c.bay r) s.dev) (destBlocks v.df rows 0 n)
      (o.bad = none → Does (.convert q) s fun t => Ended s t q c (if o.nans.isEmpty then stOk else stNanTrap) o.rep.sats ∧ t.dev.hbm = o.d.hbm
        ∧ t.dev.loft = o.d.loft ∧ t.dev.objs = o.d.objs)
      ∧ (∀ x, o.bad = some x → Does (.convert q) s fun t =>
        Ended s t q c (s.dev.copyStatus c.bay src (tensorRngs v.df v.dst n) x.1) o.rep.sats ∧ t.dev.loft = o.d.loft))

/-- Copies of a KERNEL (06 R178, R179, R181 to R184): a copy starts once its wait counter allows, its own counter at zero; a unit of a byte copy
moves its bytes and the entry finishes with its last unit; a stream fetches on demand the chunk that the consumer waits for, and ahead of it, within
its distance and its ring, prefetches the next chunk or drops it where a page forbids that; it ends when the consumer has passed its last, and
fails where a chunk wanted on demand is not mapped; a chunk that lands is in its ring slot. -/
def Obligations.CopiesOfKernels : Prop :=
  ∀ (s : State) (q i : Nat) (c : Cmd) (kr : KernelRun) (e : Entry) (k : CopyDesc), s.dev.entry? q i = some (c, kr, e) → c.bay < 16 →
    parseCopy (e.desc % 2 ^ 1536) = some k → s.dev.enginesRun = true → s.dev.diesUp k.dies = true → s.dev.engUpset = [] → k.spar = false → k.mask = 0 →
    (e.st = .waiting → e.cls = 3 → kr.stopped = false → k.waitLoft = 0xFFFFFFFF ∨ k.waitCount ≤ s.dev.loftCounter k.waitLoft →
      s.dev.passed c = false →
      (k.done = 0xFFFFFFFF → Does (.copyDescStart q i) s fun t => EntryIs t q i (if k.kind = 3 then .stream { dist := k.raInit } else .copy [])
        ∧ t = { s with dev := { s.dev with kernels := t.dev.kernels } })
      ∧ (k.done ≠ 0xFFFFFFFF → s.dev.loftCut k.done 4 = none → Does (.copyDescStart q i) s fun t =>
        EntryIs t q i (if k.kind = 3 then .stream { dist := k.raInit } else .copy []) ∧ t.dev.loftCounter k.done = 0
        ∧ (∀ a, (a < k.done ∨ k.done + 4 ≤ a) → smGet 0 t.dev.loft a = smGet 0 s.dev.loft a)
        ∧ t = { s with dev := { s.dev with kernels := t.dev.kernels, loft := t.dev.loft } }))
    ∧ (∀ us n bs d1, e.st = .copy us → k.kind = 1 → k.done = 0xFFFFFFFF → k.conv = false → k.pack = 0 → us.contains n = false → n < k.units →
      s.dev.readSp c.bay k.ssp (k.src + n * k.chunk) (min k.len ((n + 1) * k.chunk) - n * k.chunk) = .ok bs →
      s.dev.writeSp c.bay k.dsp (k.dst + n * k.chunk) bs = (d1, none) →
      Does (.copyUnitDone q i n) s fun t => EntryIs t q i (if us.length + 1 = k.units then .finished else .copy (n :: us))
        ∧ t.dev.hbm = d1.hbm ∧ t.dev.loft = d1.loft ∧ t.dev.objs = d1.objs)
    ∧ (∀ x used y, e.st = .stream x → streamUse k (s.dev.loftCounter k.cons) x = (y, used) → s.dev.loftCounter k.cons < k.chunks →
      y.passed ≤ s.dev.loftCounter k.cons →
      let n := s.dev.loftCounter k.cons
      let src : Rng := ⟨.va, k.src + n * k.chunk, min k.chunk (k.len - n * k.chunk)⟩
      (y.next = n ∨ y.dropped.contains n = true) → 1 ≤ k.ring / k.chunk →
      (s.dev.unmapped c.bay false src = false → Does (.streamFetch q i) s fun t =>
        EntryIs t q i (.stream { y with next := max y.next (n + 1), dropped := y.dropped.filter (· != n), chunks := smPut y.chunks n { pre := false } })
        ∧ t.dev.rd .pfstatDemand c.bay = (s.dev.rd .pfstatDemand c.bay + 1) % 2 ^ 64
        ∧ t.dev.rd .pfstatUsed c.bay = (s.dev.rd .pfstatUsed c.bay + used.length) % 2 ^ 64
        ∧ t = { s with dev := { s.dev with kernels := t.dev.kernels, regs := t.dev.regs } })
      ∧ (s.dev.unmapped c.bay false src = true → Does (.streamFetch q i) s fun t => EntryIs t q i (.failing stNotMapped)
        ∧ t = { s with dev := { s.dev with kernels := t.dev.kernels, regs := t.dev.regs } }))
    ∧ (∀ x used y, e.st = .stream x → streamUse k (s.dev.loftCounter k.cons) x = (y, used) → s.dev.loftCounter k.cons < y.next →
      y.dropped.contains (s.dev.loftCounter k.cons) = false → y.next < k.chunks →
      y.next ≤ s.dev.loftCounter k.cons + y.dist / k.chunk → y.next < s.dev.loftCounter k.cons + k.ring / k.chunk →
      let va := k.src + y.next * k.chunk
      let len := min k.chunk (k.len - y.next * k.chunk)
      (s.dev.prefetchable c.bay va len = true → Does (.streamFetch q i) s fun t =>
        EntryIs t q i (.stream { y with next := y.next + 1, chunks := smPut y.chunks y.next { pre := true } })
        ∧ t.dev.rd .pfstatIssued c.bay = (s.dev.rd .pfstatIssued c.bay + 1) % 2 ^ 64
        ∧ t = { s with dev := { s.dev with kernels := t.dev.kernels, regs := t.dev.regs } })
      ∧ (s.dev.prefetchable c.bay va len = false → Does (.streamFetch q i) s fun t =>
        EntryIs t q i (.stream { y with next := y.next + 1, dropped := y.next :: y.dropped })
        ∧ t.dev.rd .pfstatDropped c.bay = (s.dev.rd .pfstatDropped c.bay + 1) % 2 ^ 64
        ∧ t = { s with dev := { s.dev with kernels := t.dev.kernels, regs := t.dev.regs, bays := t.dev.bays } }))
    ∧ (∀ x, e.st = .stream x → k.chunks ≤ s.dev.loftCounter k.cons →
      Does (.streamFetch q i) s fun t => EntryIs t q i .finished
        ∧ t.dev.rd .pfstatStreams c.bay = (s.dev.rd .pfstatStreams c.bay + 1) % 2 ^ 64
        ∧ t = { s with dev := { s.dev with kernels := t.dev.kernels, regs := t.dev.regs } })
    ∧ (∀ x n h bs, e.st = .stream x → smFind x.chunks n = some h → h.landed = false → s.dev.loftBad = [] → k.done = 0xFFFFFFFF →
      s.dev.readVa c.bay (k.src + n * k.chunk) (min k.chunk (k.len - n * k.chunk)) = .ok bs →
      Does (.streamChunkLanded q i n) s fun t => readBytes t.dev.loft (k.dst + n % (k.ring / k.chunk) * k.chunk) bs.length = bs
        ∧ (∀ a, (a < k.dst + n % (k.ring / k.chunk) * k.chunk ∨ k.dst + n % (k.ring / k.chunk) * k.chunk + bs.length ≤ a) →
          smGet 0 t.dev.loft a = smGet 0 s.dev.loft a)
        ∧ EntryIs t q i (.stream (x.land n (h.pre && s.dev.loftCounter k.cons == n)))
        ∧ t.dev.rd .pfstatLate c.bay =
          (if h.pre && s.dev.loftCounter k.cons == n then (s.dev.rd .pfstatLate c.bay + 1) % 2 ^ 64 else s.dev.rd .pfstatLate c.bay)
        ∧ t = { s with dev := { s.dev with kernels := t.dev.kernels, regs := t.dev.regs, loft := t.dev.loft, loftSoft := t.dev.loftSoft } })

/-- KERNEL, where its image is in order, runs: its entries wait to start, and where it holds Thatch operations it becomes a unit of the
scheduler. The end of an entry is processed, and with the last one the KERNEL completes OK with the number of entries that ended
(13 R381, R382, R391, R549). -/
def Obligations.KernelsRunAndEnd : Prop :=
  ∀ (s : State) (q : Nat) (c : Cmd) (es : List Entry) (bs : List Byte), c.sq = q → Runs s q 0x20 c → s.dev.enginesRun = true → c.trapped = false →
    (s.dev.kernel? q = none → c.only 1 [(16, 0, 48), (24, 0, 32)] = true → c.at 16 8 % 64 = 0 → s.dev.readVa c.bay (c.at 16 8) (c.at 24 4) = .ok bs →
      let count := bytesAt (ofLe (bs.take 64)) 4 2
      let head := 64 + 64 * ((count + 63) / 64)
      onlyFields (ofLe (bs.take 64)) 512 [(0, 32), (32, 16)] = true → bytesAt (ofLe (bs.take 64)) 0 4 = s.dev.fd .reedlineLevel 0 0 16 →
      1 ≤ count → count ≤ 4096 → c.at 24 4 = head + 256 * count → ((bs.drop (64 + count)).take (head - 64 - count)).all (· == 0) = true →
      es = (((bs.drop 64).take count).zip (chunksOf 256 count (bs.drop head))).map (fun e => { cls := e.1.toNat, desc := ofLe e.2 }) →
      s.dev.firstFail c.bay 0 es = none →
      Does (.kernel q) s fun t => t.dev.kernels = s.dev.kernels ++ [{ sq := q, entries := es, started := s.dev.now }]
        ∧ ((kernelRole es false || kernelRole es true) = true → ∃ u ∈ t.dev.sched.ready, u.sq = q ∧ u.bay = c.bay)
        ∧ t = { s with dev := { s.dev with kernels := t.dev.kernels, sched := t.dev.sched } })
    ∧ (∀ k i e, s.dev.kernel? q = some k → k.entries[i]? = some e → e.st = .finished →
      k.stopped = false →
      (k.entries.any fun x => x.st == .waiting && !x.isStream) = true →
      Does (.kernelEntryEnd q i) s fun t => EntryIs t q i .ended ∧ t = { s with dev := { s.dev with kernels := t.dev.kernels } })
    ∧ (∀ k e, s.dev.kernel? q = some k → k.entries = [e] → e.st = .finished → k.missed = false → s.dev.passes.any (fun p => p.sq == q) = false →
      c.nan = false → c.contribs = [] →
      Does (.kernelEntryEnd q 0) s fun t => Ended s t q c stOk 1 ∧ (∀ x ∈ t.dev.kernels, x.sq ≠ q)
        ∧ t.dev.hbm = s.dev.hbm ∧ t.dev.loft = s.dev.loft)

/-- A Thatch operation starts on its engine with the rounding mode, the group table and the accumulator of that moment (04 R100, R120, R121);
a start check that fails ends the entry with its status; the last pass finishes it, and an earlier one is counted in it, and D and the group's
counter alone change in the Loft (04 R122 to R124); a parity error ends it UNCORRECTABLE with the die's bit and an error record (04 R125). -/
def Obligations.ThatchOperations : Prop :=
  ∀ (s : State) (q i : Nat) (c : Cmd) (e : Entry) (o : ThatchOp), parseThatch e.desc = some o →
    (∀ k, s.dev.entry? q i = some (c, k, e) → Startable s q i 1 c e → k.thatchMayStart i = true →
      (s.dev.holdsSlot q 0 || s.dev.holdsSlot q 1) = true →
      s.dev.engineBusy (s.dev.engineOf o.bwd).2.2 = false → s.dev.thatchAdmits = true → o.done = 0xFFFFFFFF →
      (s.dev.thatchStart c.bay o = none →
        Does (.thatchOpStart q i) s fun t => (∃ r, EntryIs t q i (.thatch r) ∧ r.srMode = srModeOf o.sr (s.dev.fd .thatchCfg 0 0 2)
            ∧ r.groups = (s.dev.thatchGroups o).1 ∧ r.firstUnit = (s.dev.engineOf o.bwd).1 ∧ r.units = (s.dev.engineOf o.bwd).2.1 ∧ r.passes = [])
          ∧ t = { s with dev := { s.dev with kernels := t.dev.kernels } })
      ∧ (∀ st, s.dev.thatchStart c.bay o = some st →
        Does (.thatchOpStart q i) s fun t => EntryIs t q i (.failing st) ∧ t = { s with dev := { s.dev with kernels := t.dev.kernels } }))
    ∧ (∀ k r n p, s.dev.entry? q i = some (c, k, e) → e.st = .thatch r → s.dev.enginesRun = true → o.reduce = false →
      let rows := (o.subs r.units).1
      let cols := (o.subs r.units).2.1
      let ps := allPasses rows cols 0 (o.groupsOf r.groups)
      ps[n]? = some p → r.passes = upFrom 0 n → s.dev.loftBad = [] →
      Does (.thatchPassEnd q i n none) s fun t =>
        EntryIs t q i (if n + 1 = ps.length then .finished else .thatch { r with passes := n :: r.passes })
          ∧ t.dev.hbm = s.dev.hbm ∧ t.dev.objs = s.dev.objs
          ∧ LoftKept s t (dRanges o (((o.groupsOf r.groups)[p.g]?).getD o.single) ++ [(o.done + 4 * p.g, if o.done = 0xFFFFFFFF then 0 else 4)]))
    ∧ (∀ k r die bit, s.dev.entry? q i = some (c, k, e) → e.st = .thatch r → s.dev.enginesRun = true → die < 12 → bit < 4 →
      Does (.thatchPassEnd q i 0 (some (die, bit))) s fun t => EntryIs t q i (.failing stUncorr) ∧ t.dev.rbit .thatchDieErr die bit = true
        ∧ t.dev.rd .errlogSeq 0 = (s.dev.rd .errlogSeq 0 + 1) % 2 ^ 64 ∧ LoftKept s t ((o.groupsOf r.groups).flatMap (dRanges o))
        ∧ (o.reduce = false → t.dev.hbm = s.dev.hbm ∧ t.dev.objs = s.dev.objs))

/-- A Lath operation that may start runs whole where no error waits in the Loft or in a core: its entry is finished, each die that is dealt one
of its rows counts it, its counter in the Loft holds its rows, and it writes the Loft only, in its destination (05 R134, R143, R147 to R158).
TOPK leaves the values and the indices of the first K elements of each row in the order of R139. -/
def Obligations.LathRowOperations : Prop :=
  ∀ (s : State) (q i : Nat) (c : Cmd) (o : LathOp), c.bay < 16 → s.dev.loftBad = [] → (∀ e ∈ s.dev.lath, e.2.upsets = []) → s.dev.passed c = false →
    (∀ cmd kind fx fz, (cmd, kind) ∈ [(Instr.softmax q i, 2), (.softmaxBwd q i, 3), (.rmsnorm q i, 4), (.rmsnormBwd q i, 5), (.layernorm q i, 6),
        (.layernormBwd q i, 7), (.scaleGrad q i, 12)] → s.dev.lathReady q i kind = some (c, o) → o.fx = some fx → o.fz = some fz →
      Does cmd s fun t => EntryIs t q i .finished ∧ t.dev.hbm = s.dev.hbm ∧ t.dev.objs = s.dev.objs
        ∧ LathCounted s t (o.cores c i) o.rows
        ∧ (o.done ≠ 0xFFFFFFFF → t.dev.loftCounter o.done = o.rows % 2 ^ 32)
        ∧ LoftKept s t (fmtRanges fz o.z o.rows ++ (if kind = 5 ∨ kind = 7 then [(o.par 188 4, 4 * o.n * (if o.ln then 2 else 1))] else [])
          ++ [(o.done, 4)]))
    ∧ (∀ fx, s.dev.lathReady q i 8 = some (c, o) → o.fx = some fx →
      let n := 4 * o.rows * o.par 184 4
      Does (.topk q i) s fun t => EntryIs t q i .finished ∧ t.dev.hbm = s.dev.hbm ∧ t.dev.objs = s.dev.objs
        ∧ LathCounted s t (o.cores c i) o.rows
        ∧ (o.done ≠ 0xFFFFFFFF → t.dev.loftCounter o.done = o.rows % 2 ^ 32)
        ∧ LoftKept s t [(o.z, n), (o.w, n), (o.done, 4)]
        ∧ (∀ xs rx, s.dev.undrained = [] → o.done = 0xFFFFFFFF → overlap o.z n o.w n = false →
          ((fmtRanges fx o.x o.rows).all fun r => !overlap r.1 r.2 o.z n && !overlap r.1 r.2 o.w n) = true →
          s.dev.loftRows c fx o.x 0 o.rows = .ok (xs, rx) →
          let sel := xs.flatMap fun x => (selOrder x).take (o.par 184 4)
          readBytes t.dev.loft o.w n = (sel.flatMap fun e => toLe 4 e.1) ∧ readBytes t.dev.loft o.z n = (sel.flatMap fun e => toLe 4 e.2)))

/-- SAMPLE and ACCEPT decide every entry of their table: of an entry's draft tokens no more are accepted than it has, and the Loft changes in
the entries' ACCEPTED and TOKEN only. OPTIM updates its parameters in bay memory, segment by segment, or, under GUARD, none of them where a gradient is
not finite, and traps the bay. PROGRAM runs its instances in order on an image in order, which stays in the buffers of the cores that ran it, and
writes the Loft only. Each finishes its entry and is counted (05 R141, R142, R149 to R156). -/
def Obligations.LathOtherOperations : Prop :=
  ∀ (s : State) (q i : Nat) (c : Cmd) (o : LathOp), c.bay < 16 → s.dev.passed c = false → s.dev.loftBad = [] → s.dev.engUpset = [] →
    (∀ e ∈ s.dev.lath, e.2.upsets = []) →
    (∀ cmd kind fx bs, (cmd, kind) ∈ [(Instr.sample q i, 9), (.accept q i, 10)] → s.dev.lathReady q i kind = some (c, o) → o.fx = some fx →
      s.dev.undrained = [] → s.dev.readSp c.bay .loft (o.par 204 4) (64 * o.par 208 4) = .ok bs →
      let seqs := o.par 208 4
      let tab := o.par 204 4
      let es := (chunksOf 64 seqs bs).map fun x => o.seqEntry (ofLe x)
      (es.any Option.isNone = false →
        let x := lathItems (Dev.acceptEntry c i o fx [] (es.filterMap id)) seqs 0 { d := (s.dev.putCounter c q i o.done 0).tick, left := () }
        Does cmd s fun t => EntryIs t q i .finished ∧ t.dev.hbm = s.dev.hbm ∧ t.dev.objs = s.dev.objs
          ∧ t.dev.loft = (x.d.setLoftCounter o.done seqs).loft ∧ LathCounted s t (o.cores c i) seqs
          ∧ LoftKept s t (((upFrom 0 seqs).flatMap fun k => [(tab + 64 * k + 9, 1), (tab + 64 * k + 12, 4)]) ++ [(o.done, 4)])
          ∧ (o.done = 0xFFFFFFFF → ∀ k e, es[k]? = some (some e) → ofLe (readBytes t.dev.loft (tab + 64 * k + 9) 1) ≤ e.drafts.length))
      ∧ (es.any Option.isNone = true → Does cmd s fun t => EntryIs t q i (.failing stBadParam)
        ∧ t = { s with dev := { s.dev with kernels := t.dev.kernels } }))
    ∧ (s.dev.lathReady q i 11 = some (c, o) →
      let segs := ceilDiv (o.par 216 8) segLen
      let y := if o.guard then lathItems (Dev.guardSeg c i o) segs 0 { d := s.dev.tick, left := [] } else { d := s.dev.tick, left := [] }
      (y.bad = none → y.left.all (isFinite .fp32) = false →
        Does (.optim q i) s fun t => EntryIs t q i .finished ∧ t.dev.hbm = s.dev.hbm ∧ t.dev.loft = s.dev.loft ∧ t.dev.objs = s.dev.objs
          ∧ t.dev.rbit .bayNumsts c.bay 1 = true ∧ LathCounted s t (o.cores c i) segs)
      ∧ (y.bad = none → y.left.all (isFinite .fp32) = true →
        let x := lathItems (Dev.optSeg c i o false) segs 0 { d := y.d, left := () }
        (x.bad = none → Does (.optim q i) s fun t => EntryIs t q i .finished ∧ t.dev.hbm = x.d.hbm ∧ t.dev.objs = x.d.objs
          ∧ t.dev.loft = s.dev.loft ∧ LathCounted s t (o.cores c i) segs)
        ∧ ∀ st, x.bad = some st → Does (.optim q i) s fun t => EntryIs t q i (.failing st) ∧ t.dev.hbm = x.d.hbm ∧ t.dev.loft = s.dev.loft)
      ∧ (∀ (gs ws ms vs : List Nat) d2, o.guard = false → o.par 216 8 ≤ segLen →
        s.dev.vaF32 c.bay (o.par 224 8) (o.par 216 8) = .ok ws → s.dev.vaF32 c.bay (o.par 232 8) (o.par 216 8) = .ok ms →
        s.dev.vaF32 c.bay (o.par 248 8) (o.par 216 8) = .ok gs →
        (if o.adam then s.dev.vaF32 c.bay (o.par 240 8) (o.par 216 8) else .ok (List.replicate (o.par 216 8) 0)) = .ok vs →
        let outs := (optRun c.flush o (ws.zip (ms.zip (vs.zip gs)))).1
        writeArrays c.bay s.dev ([(o.par 224 8, outs.map (·.w)), (o.par 232 8, outs.map (·.m))]
          ++ (if o.adam then [(o.par 240 8, outs.map (·.v))] else [])) = (d2, none) →
        Does (.optim q i) s fun t => EntryIs t q i .finished ∧ t.dev.hbm = d2.hbm ∧ t.dev.objs = d2.objs ∧ t.dev.loft = s.dev.loft))
    ∧ (s.dev.lathReady q i 1 = some (c, o) → s.dev.undrained = [] →
      let base := o.par 184 4
      let head := ofLe (s.dev.loftRead base 64)
      let level := bytesAt head 0 4
      let bytes := bytesAt head 4 4
      let n := o.par 188 4
      let x := lathItems (Dev.programInst c i o (s.dev.loftRead base bytes) []) n 0 { d := (s.dev.loftScan c.bay [(base, max 64 bytes)]).tick, left := [] }
      let fits := (level = s.dev.fd .reedlineLevel 0 0 16 ∨ level + 1 = s.dev.fd .reedlineLevel 0 0 16) ∧ bytes ≤ 65536
      (fits → s.dev.loftGranted c.bay base bytes = true → Does (.program q i) s fun t =>
        EntryIs t q i (match x.bad with | none => .finished | some st => .failing st)
          ∧ t.dev.loft = x.d.loft ∧ t.dev.hbm = s.dev.hbm ∧ t.dev.objs = s.dev.objs
          ∧ (x.bad = none → LathCounted s t (o.cores c i) n
            ∧ ∀ j, j < n → (smGet {} t.dev.lath ((o.cores c i).at_ j)).buf = s.dev.loftRead base bytes))
      ∧ (¬ fits → Does (.program q i) s fun t => EntryIs t q i (.failing stBadParam) ∧ t = { s with dev := { s.dev with kernels := t.dev.kernels } })
      ∧ (fits → s.dev.loftGranted c.bay base bytes = false → Does (.program q i) s fun t => EntryIs t q i (.failing stNoPerm)
        ∧ t = { s with dev := { s.dev with kernels := t.dev.kernels } }))

/-- Eave operations (07 R206 to R220): GATHER and SCATTER_ADD as commands complete with the number of their indices that name a row, OK or NAN_TRAP, or
with the status that stopped them; as entries of a KERNEL they, GEMV and ATTEND finish or fail their entry, with the units done in its counter; the
memories are as the operation's run leaves them. A GATHER of one row stores the row that its index names, or zeros for 0xFFFF_FFFF (R209), a
SCATTER_ADD of one row adds it to the row of the destination that its index names (R211). -/
def Obligations.EaveOperations : Prop :=
  ∀ (s : State) (q : Nat) (c : Cmd) (o : EaveOp), c.nan = false →
    (∀ cmd kind op, (cmd, kind, op) ∈ [(Instr.gather q none, 1, 0x13), (.scatterAdd q none, 2, 0x14)] → Runs s q op c → s.dev.enginesRun = true →
      c.trapped = false → parseEave (c.at 16 256) = some o → onlyFields c.pkt 2560 [(0, 128), (128, 2048)] = true → o.kind = kind →
      o.waitLoft = 0xFFFFFFFF → o.done = 0xFFFFFFFF → o.gate = false → s.dev.grants c.bay o.loftRanges = true →
      errOf (s.dev.eaveLists c o) ≠ [stBadParam] →
      let r := s.dev.eaveRun c o
      Does cmd s fun t => Ended s t q c (match r.1.bad with | some st => st | none => if r.1.nans.isEmpty then stOk else stNanTrap)
          (if r.1.bad.isSome then 0 else r.2)
        ∧ t.dev.hbm = r.1.d.hbm ∧ t.dev.loft = r.1.d.loft ∧ t.dev.objs = r.1.d.objs)
    ∧ (∀ cmd kind i e, (cmd, kind) ∈ [(Instr.gather q (some i), 1), (.scatterAdd q (some i), 2), (.gemv q i, 3), (.attend q i, 4)] →
      Startable s q i 4 c e → parseEave e.desc = some o → o.kind = kind →
      (o.waitLoft = 0xFFFFFFFF ∨ o.waitCount ≤ s.dev.loftCounter o.waitLoft) → (o.done = 0xFFFFFFFF ∨ s.dev.loftCut o.done 4 = none) →
      let r := ((s.dev.putCounter c q i o.done 0).eaveRun c o).1
      Does cmd s fun t => EntryIs t q i (match r.bad with | some st => .failing st | none => .finished)
        ∧ t.dev.hbm = r.d.hbm ∧ t.dev.objs = r.d.objs ∧ t.dev.loft = (r.d.setLoftCounter o.done r.done).loft)
    ∧ ((∀ e ∈ s.dev.eave, e.2.upsets = []) → s.dev.enginesRun = true → c.trapped = false → parseEave (c.at 16 256) = some o →
      onlyFields c.pkt 2560 [(0, 128), (128, 2048)] = true → o.waitLoft = 0xFFFFFFFF → o.done = 0xFFFFFFFF → o.gate = false → o.loft = false →
      o.count = 1 → ∀ ix f0, s.dev.t1Read c.bay o.idx 4 = .ok (toLe 4 ix) → (ix < o.rows ∨ ix = 0xFFFFFFFF) → o.f0 = some f0 →
      (∀ bs d1, Runs s q 0x13 c → o.kind = 1 → o.sum = false → f0.mode = .none →
        (if ix = 0xFFFFFFFF then .ok (List.replicate f0.rowBytes 0) else s.dev.t1Read c.bay (o.src + ix * f0.rowBytes) f0.rowBytes) = .ok bs →
        s.dev.t1Bad c.bay o.dst f0.rowBytes true = none → s.dev.writeVa c.bay o.dst bs = (d1, none) →
        Does (.gather q none) s fun t => Ended s t q c stOk (if ix = 0xFFFFFFFF then 0 else 1)
          ∧ t.dev.hbm = d1.hbm ∧ t.dev.objs = d1.objs ∧ t.dev.loft = s.dev.loft)
      ∧ (∀ old y rep d1, Runs s q 0x14 c → o.kind = 2 → o.weighted = false → ix ≠ 0xFFFFFFFF →
        let da := o.dst + 4 * f0.rowLen * ix
        s.dev.t1Bad c.bay da (4 * f0.rowLen) true = none → s.dev.t1Read c.bay da (4 * f0.rowLen) = .ok old →
        s.dev.eaveRow c f0 o.src 0 = .ok (y, rep) → rep.nans = [] →
        let had := (unpackCodes 32 f0.rowLen (ofLe old)).map fun v => (flushCode c.flush .fp32 v).1
        let sums := ((had.zip y).map fun e => f32Add e.1 e.2).map fun v => (flushCode c.flush .fp32 v).1
        sums.all (fun v => !isNan .fp32 v) = true → s.dev.writeVa c.bay da (sums.flatMap (toLe 4)) = (d1, none) →
        Does (.scatterAdd q none) s fun t => Ended s t q c stOk 1 ∧ t.dev.hbm = d1.hbm ∧ t.dev.objs = d1.objs ∧ t.dev.loft = s.dev.loft))

/-- READ, WRITE and ADD32 arrive at an Eave unit (07 R193, R194): with room in the window and nothing before them in the ingress queue they
enter the window, last, at that time; those that a network interface sends go over the Batten network to the stack's PHY on its host die
(01 R12, R15). Refresh that falls due and the patrol scrub wait there too (07 R221, R223). -/
def Obligations.EaveArrivals : Prop :=
  ∀ (s : State) (k g mask data tag : Nat) (bay : Option Nat) (own : Bool), k < 32 →
    let u := s.dev.eunit k
    let arrived (r : EReq) (t : State) : Prop :=
      t.dev.eunit k = { u with nextId := u.nextId + 1, window := u.window ++ [{ r with id := u.nextId, arrived := s.dev.now, entered := s.dev.now }] }
        ∧ t = { s with dev := { s.dev with eave := t.dev.eave, regs := t.dev.regs } } ∧ RegsKept s t [(.eaveSts, k)]
    (g < 2 ^ 30 → (s.dev.ready || s.dev.early) = true → u.ingress = [] → u.window.length < 512 →
      Does (.eaveRead k g ⟨tag, none⟩ bay own) s (arrived { id := 0, kind := 0, granule := g, tags := [tag], srcs := [none], bay := bay, own := own, arrived := 0 })
      ∧ Does (.eaveWrite k g mask data ⟨tag, none⟩ bay own) s (arrived { id := 0, kind := 1, granule := g, mask := mask % 2 ^ 64, data := data % 2 ^ 512
                                                                         tags := [tag], srcs := [none], bay := bay, own := own, arrived := 0 })
      ∧ Does (.eaveAdd32 k g mask data ⟨tag, none⟩ bay own) s (arrived { id := 0, kind := 2, granule := g, mask := mask % 2 ^ 16, data := data % 2 ^ 512
                                                                         tags := [tag], srcs := [none], bay := bay, own := own, arrived := 0 }))
    ∧ (∀ n, g < 2 ^ 30 → (s.dev.ready || s.dev.early) = true → niOk n = true →
      let b1 := match bay with | some b => b + 1 | none => 0
      let sent (words : List Nat) (t : State) : Prop :=
        t = { s with dev := { s.dev with batten := s.dev.batten ++ [{ src := n, dst := phyNi k, cls := .request, at_ := niDie n, words := words }] } }
      Does (.eaveRead k g ⟨tag, some n⟩ bay own) s (sent [0, g, 0, 0, tag, b1])
      ∧ Does (.eaveWrite k g mask data ⟨tag, some n⟩ bay own) s (sent [1, g, mask % 2 ^ 64, data % 2 ^ 512, tag, b1])
      ∧ Does (.eaveAdd32 k g mask data ⟨tag, some n⟩ bay own) s (sent [2, g, mask % 2 ^ 16, data % 2 ^ 512, tag, b1]))
    ∧ (g < 4096 → Does (.refreshDue k g) s fun t => smFind (t.dev.eunit k).refresh g = some ()
        ∧ t = { s with dev := { s.dev with eave := t.dev.eave, regs := t.dev.regs } } ∧ RegsKept s t [(.eaveSts, k)])
    ∧ (s.dev.fd .eaveScrubCfg k 0 8 ≠ 0 → (s.dev.ready || s.dev.early) = true → u.ingress = [] → u.window = [] → u.slots = [] → u.ovf = [] →
      u.scrubAt < 2 ^ 30 →
      Does (.scrubTimer k) s fun t => ((t.dev.eunit k).window.map fun r => (r.kind, r.granule, r.scrub)) = [(0, u.scrubAt, true)]
        ∧ (t.dev.eunit k).scrubAt = (u.scrubAt + 1) % 2 ^ 30
        ∧ t = { s with dev := { s.dev with eave := t.dev.eave, regs := t.dev.regs } } ∧ RegsKept s t [(.eaveSts, k)])

/-- A request held long enough leaves the window for a slot of its bank, a bank issues the one request that waits for it, and its access
answers: a READ the granule, a WRITE with its masked bytes replaced, an ADD32 with its masked words added, over the Batten network to those who
asked by it (07 R193, R194, R196, R198 to R200). A bank whose overflow list stays above THRESH for 10 µs is counted as hot (07 R201). -/
def Obligations.EaveAccesses : Prop :=
  ∀ (s : State) (k b : Nat) (r : EReq), k < 32 → bankOf r.granule = b →
    let u := s.dev.eunit k
    (u.window = [r] → u.slots = [] → u.ovf = [] → u.ingress = [] → r.back = false → r.entered + s.dev.fd .eaveWinCfg k 0 10 ≤ s.dev.now →
      1 ≤ s.dev.fd .eaveCfg k 0 9 →
      Does (.eaveWindowLeave k) s fun t => (t.dev.eunit k).window = [] ∧ (t.dev.eunit k).slots = [r] ∧ (t.dev.eunit k).ovf = []
        ∧ t = { s with dev := { s.dev with eave := t.dev.eave, regs := t.dev.regs } } ∧ RegsKept s t [(.eaveSts, k)])
    ∧ (u.slots = [r] → u.window = [] → u.ovf = [] → u.ingress = [] → r.issued = false → s.dev.sarking = false → s.dev.refreshing = false →
      smFind u.refresh b = none → smFind u.rows b = none →
      Does (.eaveBankIssue k b) s fun t => (t.dev.eunit k).slots = [{ r with issued := true }] ∧ smFind (t.dev.eunit k).rows b = some (rowOf r.granule)
        ∧ t.dev.rd .eaveRowMisses k = (s.dev.rd .eaveRowMisses k + 1) % 2 ^ 64
        ∧ t.dev.rd (if r.kind = 0 then .eaveReads else .eaveWrites) k = (s.dev.rd (if r.kind = 0 then .eaveReads else .eaveWrites) k + 1) % 2 ^ 64
        ∧ t = { s with dev := { s.dev with eave := t.dev.eave, regs := t.dev.regs } })
    ∧ (u.slots = [r] → u.window = [] → u.ovf = [] → u.ingress = [] → r.issued = true → u.upsets = [] → s.dev.hbmBad = [] → r.kind ≤ 2 →
      let a := k * 2 ^ 36 + 64 * r.granule
      let old := ofLe (readBytes s.dev.hbm a 64)
      let new := if r.kind = 1 then maskBytes old r.data r.mask else if r.kind = 2 then addWords old r.data r.mask else old
      Does (.eaveAccessDone k b false) s fun t => (t.dev.eunit k).slots = [] ∧ t.dev.reply = [stOk, new] ++ r.tags
        ∧ (r.kind ≠ 0 → readBytes t.dev.hbm a 64 = toLe 64 new)
        ∧ (r.kind = 0 → t.dev.hbm = s.dev.hbm)
        ∧ (∀ x, (x < a ∨ a + 64 ≤ x) → smGet 0 t.dev.hbm x = smGet 0 s.dev.hbm x)
        ∧ t.dev.batten = s.dev.batten ++ (r.tags.zip r.srcs).filterMap (fun (e : Nat × Option Nat) => e.2.map fun n =>
            { src := phyNi k, dst := n, cls := .response, at_ := niDie (phyNi k), words := [stOk, new, e.1] })
        ∧ t = { s with dev := { s.dev with eave := t.dev.eave, regs := t.dev.regs, hbm := t.dev.hbm, reply := t.dev.reply, batten := t.dev.batten } })
    ∧ (∀ since, smFind u.overSince b = some since → smFind u.hot b = none → since + 10000 ≤ s.dev.now →
      s.dev.fd .eaveHotThresh k 0 14 < (u.ovfOf b).length → s.dev.rbit .eaveHotEven 0 0 = false → b < 4096 →
      Does (.hotBank k b) s fun t => smFind (t.dev.eunit k).hot b = some () ∧ t.dev.rd .eaveHotLast k = b
        ∧ t.dev.rd .eaveHotCount k = min (s.dev.rd .eaveHotCount k + 1) (2 ^ 32 - 1) ∧ t.dev.rd .eaveHotTime k = s.dev.now % 2 ^ 64
        ∧ t = { s with dev := { s.dev with eave := t.dev.eave, regs := t.dev.regs } })

/-- SEQ_OPEN without a handle opens an empty sequence for its addition, ring and MAX_POS, with the directories of its caches written (12 R333). SEQ_SUBMIT and
SEQ_GENERATE are accepted as deferred requests, in order, while their queue goes on (12 R336 to R338). SEQ_CLOSE ends the sequence with
COMMITTED as result (12 R340). -/
def Obligations.SequenceCommands : Prop :=
  ∀ (s : State) (q : Nat) (c : Cmd), c.bay < 16 → c.bay < s.dev.bays.length →
    let d := s.dev.dropStale c.bay
    (∀ sh m ks own, Runs s q 0x50 c → c.at 24 8 = 0 → c.trapped = false →
      c.only 1 [(16, 0, 32), (20, 0, 1), (21, 0, 7), (24, 0, 64), (32, 0, 48), (40, 0, 32), (44, 0, 32)] = true → c.at 16 4 ≠ 0xFFFFFFFF →
      c.at 32 8 % 64 = 0 → 16 ≤ c.at 40 4 → c.at 40 4 ≤ 65536 → popCount 32 (c.at 40 4) = 1 → c.at 44 4 % 64 = 0 → 64 ≤ c.at 44 4 →
      c.at 44 4 ≤ 4194304 → c.bits 21 0 7 ≤ 64 → s.dev.seq? c.bay (c.at 16 4) = none →
      (∀ y ∈ (s.dev.bay c.bay).seqs, y.serial ≠ c.order) → s.dev.handle? c.bay 0 = none →
      s.dev.currentSheaf c.bay = some sh → s.dev.manifest? c.bay sh.id = some m → s.dev.fits c.bay sh.id (c.bits 21 0 7) (c.at 44 4) none = true →
      s.dev.checkVa c.bay (c.at 32 8) (64 + 32 * c.at 40 4) true = none →
      ((s.dev.bay c.bay).seqs.filter fun y => !y.handle && !y.closed).length < s.dev.fd .bayServeLimit c.bay 0 19 →
      sumN ((upFrom 0 16).map fun b => ((s.dev.bay b).seqs.filter fun y => !y.handle && !y.closed).length) < 262144 →
      s.dev.allocDirs c.bay (s.dev.cachesOf c.bay m (c.at 44 4)) [] [] = some (ks, own) →
      let x : Seq := { id := c.at 16 4, serial := c.order, pin := bitAt c.pkt 160, addition := c.bits 21 0 7, outVa := c.at 32 8, outRecords := c.at 40 4
                       maxPos := c.at 44 4, caches := ks, own := own }
      (Dev.writeDirs (s.dev.modSeqs c.bay fun ss => ss ++ [x]) c.bay (c.at 16 4) 0 ks).2 = none →
      Does (.seqOpen q) s fun t => Ended s t q c stOk 0 ∧ t.dev.seq? c.bay (c.at 16 4) = some x)
    ∧ (∀ x gen rs cmd op, (gen, cmd, op) ∈ [(false, Instr.seqSubmit q, 0x51), (true, .seqGenerate q, 0x52)] → Runs s q op c → c.trapped = false →
      d.seq? c.bay (c.at 16 4) = some x → d.seqOf c.bay x.serial = some x → x.faulted = false → x.reqs.length < 4 → x.len < x.maxPos →
      (gen = false → c.only 1 [(16, 0, 32), (20, 0, 32), (24, 0, 48)] = true ∧ 1 ≤ c.at 20 4 ∧ c.at 20 4 ≤ 4194304
        ∧ x.len + x.submitted + c.at 20 4 ≤ x.maxPos) →
      (gen = true → genOk c = true) → d.reserveReq c.bay c.order x (c.at 20 4 + if gen then 8 else 0) = some rs →
      Does cmd s fun t => (∃ y, t.dev.seqOf c.bay x.serial = some y
          ∧ y.reqs = x.reqs ++ [{ cmd := c, generate := gen, accepted := s.dev.now }] ∧ y.toks = x.toks)
        ∧ (∀ z, smFind s.dev.sqs q = some z → ∃ w, smFind t.dev.sqs q = some w ∧ w.run = none ∧ w.deferred = z.deferred ++ [c])
        ∧ t.dev.cqs = s.dev.cqs ∧ t.dev.hbm = s.dev.hbm)
    ∧ (∀ x, Runs s q 0x53 c → d.seq? c.bay (c.at 16 4) = some x → c.only 1 [(16, 0, 32)] = true → x.reqs = [] → s.dev.inStep c.bay x.serial = false →
      (∀ y ∈ (d.bay c.bay).seqs, y.id = x.id → y.handle = false → y.closed = false → y.serial = x.serial) →
      Does (.seqClose q) s fun t => Ended s t q c stOk x.committed ∧ t.dev.seq? c.bay (c.at 16 4) = none)

/-- The oldest accepted request of a sequence becomes active (12 R338): a SEQ_GENERATE with a pending position starts at the first acceptance
rate and draft length (12 R349); a SEQ_SUBMIT appends its tokens. PREFIX_BUILD makes a handle that is being built and pins its sheaf, and
PREFIX_DROP ends it with the number of sequences that share it (12 R357, R359). -/
def Obligations.RequestsAndHandles : Prop :=
  ∀ (s : State) (b : Nat), b < 16 → b < s.dev.bays.length →
    let d := s.dev.dropStale b
    (∀ id x r rest, d.seq? b id = some x → d.seqOf b x.serial = some x → x.reqs = r :: rest → r.active = false → r.generate = true → x.pending ≠ 0 → x.len < x.maxPos →
      Does (.requestActivate b id) s fun t => ∃ y z, t.dev.seqOf b x.serial = some y ∧ y.reqs.head? = some z ∧ z.active = true ∧ z.rate = 192
        ∧ z.draft = draftLen r.cmd 192 ∧ z.cmd = r.cmd ∧ y.toks = x.toks)
    ∧ (∀ id x r rest, d.seq? b id = some x → d.seqOf b x.serial = some x → x.reqs = r :: rest → r.active = false → r.generate = false → 2 ≤ r.cmd.at 20 4 →
      x.len + r.cmd.at 20 4 ≤ x.maxPos →
      Does (.requestActivate b id) s fun t => ∃ y z, t.dev.seqOf b x.serial = some y ∧ y.reqs.head? = some z ∧ z.active = true
        ∧ z.stop = x.len + r.cmd.at 20 4
        ∧ y.toks = x.toks ++ (upFrom 0 (r.cmd.at 20 4)).map fun i => Tok.at_ (r.cmd.at 24 8 + 4 * i))
    ∧ (∀ q c sh m ks own ps blocks, Runs s q 0x54 c → c.bay = b → c.trapped = false →
      c.only 1 [(16, 0, 64), (24, 0, 48), (32, 0, 32), (36, 0, 32)] = true → c.at 16 8 ≠ 0 → 1 ≤ c.at 32 4 → c.at 32 4 ≤ 262144 →
      d.handle? b (c.at 16 8) = none → (if c.at 36 4 = 0 then d.currentSheaf b else d.sheaf? b (c.at 36 4)) = some sh → sh.aux = false →
      2 ≤ sh.st → sh.st ≤ 4 → d.manifest? b sh.id = some m →
      ((d.bay b).seqs.filter fun x => x.handle && !x.closed).length < d.fd .bayPrefixLimit b 0 17 → sh.pinRoom = true →
      d.allocDirs b (d.cachesOf b m (alignUp (c.at 32 4) 64)) [] [] = some (ks, own) →
      let d1 := d.modSeqs b fun ss => ss ++ [{ handle := true, id := c.at 16 8, serial := c.order, maxPos := alignUp (c.at 32 4) 64,
                                               caches := ks, own := own, sheaf := sh.id }]
      let d2 := d1.modSeq b c.order fun x => { x with own := x.own ++ blocks, resv := ps.map fun p => (c.order, p.1, p.2.1, 0)
                                                      toks := (upFrom 0 (c.at 32 4)).map fun i => Tok.at_ (c.at 24 8 + 4 * i)
                                                      reqs := [{ cmd := c, generate := false, accepted := d.now, active := true, stop := c.at 32 4 }] }
      d1.reserveHandle b (c.at 16 8) (ks.map fun k => (k, d1.pagesFor b (if k.aux = 0 then sh.id else k.aux) k 0 (c.at 32 4))) = some (ps, blocks) →
      (d2.writeDirs b (c.at 16 8 % 2 ^ 32) 0 ks).2 = none → (∀ y ∈ (d.bay b).seqs, y.serial ≠ c.order) →
      Does (.prefixBuild q) s fun t => ∃ x, t.dev.handle? b (c.at 16 8) = some x ∧ x.serial = c.order ∧ x.sheaf = sh.id
        ∧ x.toks.length = c.at 32 4 ∧ (x.reqs.map fun r => (r.cmd, r.active, r.stop)) = [(c, true, c.at 32 4)])
    ∧ (∀ q c x, Runs s q 0x55 c → c.bay = b → d.handle? b (c.at 16 8) = some x → c.only 1 [(16, 0, 64)] = true → x.reqs = [] →
      (∀ y ∈ (d.bay b).seqs, y.handle = true → y.closed = false → y.id = x.id → y.serial = x.serial) →
      (∀ y ∈ (d.bay b).seqs, y.serial = x.serial → y.handle = true) →
      Does (.prefixDrop q) s fun t => t.dev.handle? b (c.at 16 8) = none
        ∧ Ended s t q c stOk ((d.bay b).seqs.filter fun y => !y.handle && !y.closed && y.onHandle == some x.serial).length)

/-- STEP runs with its budget, steps and rows, and waits for a slot (12 R342). A step that finds no candidate ends the STEP; one that is built
holds a pin of its sheaf and its checks begin; each check of the deadline monitor is followed by the next, unless a configuration switch
holds the Thatch work back (04 R110); a masked entry leaves the
fallback phase with a token or ended; the commit counts the step (12 R343 to R346, R352, R353). The interval of rejected drafts ends (12
R351). -/
def Obligations.ServingSteps : Prop :=
  ∀ (s : State) (q : Nat) (c : Cmd), c.sq = q → c.bay < 16 → c.bay < s.dev.bays.length →
    (Runs s q 0x21 c → s.dev.step? q = none → s.dev.enginesRun = true → c.only 1 [(16, 0, 32), (20, 0, 16), (22, 0, 16)] = true →
      (c.at 16 4 = 0 ∨ 512 ≤ c.at 16 4 ∧ c.at 16 4 ≤ 65536) → c.at 20 2 ≠ 0 → c.at 22 2 ≤ 16384 → c.trapped = false →
      (s.dev.steps.any fun r => r.bay == c.bay) = false →
      Does (.step q) s fun t => t.dev.step? q = some
          { sq := q, bay := c.bay, left := c.at 20 2,
            budget := if c.at 16 4 = 0 then s.dev.fd .bayServeCfg c.bay 0 17 else c.at 16 4,
            maxSeqs := if c.at 22 2 = 0 then 16384 else c.at 22 2 }
        ∧ (∃ u ∈ t.dev.sched.ready, u.sq = q) ∧ t.dev.hbm = s.dev.hbm ∧ t.dev.bays = s.dev.bays)
    ∧ (∀ r, Runs s q 0x21 c → s.dev.step? q = some r → r.bay = c.bay → s.dev.enginesRun = true → s.dev.onSlot q = true → s.dev.reloading = false →
      ((s.dev.bay c.bay).seqs = [] → r.sheaf = 0 → r.ran ≠ 0 → c.nan = false → c.contribs = [] →
        Does (.stepBuild q) s fun t => Ended s t q c stOk r.ran ∧ t.dev.step? q = none)
      ∧ (∀ x y rest sh m, r.sheaf = 0 → (s.dev.dropStale c.bay).candidates c.bay = (x, y) :: rest →
        (s.dev.dropStale c.bay).sheafFor c.bay x = some sh.id → (s.dev.dropStale c.bay).sheaf? c.bay sh.id = some sh →
        (s.dev.dropStale c.bay).manifest? c.bay sh.id = some m → sh.pins + 1 + rest.length + 1 ≤ 0xFFFFFFFF →
        ((x, y) :: rest).all (fun z => (s.dev.dropStale c.bay).fits c.bay sh.id z.1.addition z.1.maxPos (some z.1.main)) = true →
        (s.dev.dropStale c.bay).buildPlan c.bay sh.id r.budget r.maxSeqs
          (((x, y) :: rest).filter fun z => (s.dev.dropStale c.bay).sheafFor c.bay z.1 == some sh.id) ≠ [] →
        Does (.stepBuild q) s fun t => ∃ r', t.dev.step? q = some r' ∧ r'.sheaf = sh.id ∧ r'.layers = m.layers ∧ r'.check = 0
          ∧ r'.ran = r.ran + 1 ∧ r'.left = r.left - 1)
      ∧ (r.sheaf ≠ 0 → r.check ≤ r.layers → s.dev.thatchAdmits = false → Does (.deadlineCheck q) s fun t => t = s)
      ∧ (r.sheaf ≠ 0 → r.check ≤ r.layers → s.dev.thatchAdmits = true → s.dev.weightsErr r c = none →
        Does (.deadlineCheck q) s fun t => ∃ r', t.dev.step? q = some r' ∧ r'.check = r.check + 1 ∧ r'.sheaf = r.sheaf ∧ r'.left = r.left)
      ∧ (∀ e x y i fs k, r.sheaf ≠ 0 → r.layers < r.check → r.entries = [e] → e.mask = .fallback → s.dev.seqOf c.bay e.serial = some x →
        x.active = some y → s.dev.fallbackCache c.bay r.sheaf x y e = some (i, fs) → x.caches[i]? = some k → x.known k.committed x.len ≠ [] →
        s.dev.thatchAdmits = true → s.dev.weightsErr r c = none →
        Does (.fallbackPhase q) s fun t => ∃ r' e', t.dev.step? q = some r' ∧ r'.entries = [e'] ∧ (e'.mask = .fell ∨ e'.mask = .ended))
      ∧ (r.sheaf ≠ 0 → r.layers < r.check → r.entries = [] → c.nan = false → r.left ≠ 0 →
        Does (.stepCommit q) s fun t => t.dev.rd .baySteps c.bay = (s.dev.rd .baySteps c.bay + 1) % 2 ^ 64
          ∧ ∃ r', t.dev.step? q = some r' ∧ r'.sheaf = 0 ∧ r'.check = 0 ∧ r'.entries = [] ∧ r'.left = r.left ∧ r'.ran = r.ran))
    ∧ (Does (.specRejectSummary c.bay) s fun t => (t.dev.bay c.bay).specMark = (s.dev.rd .baySpecRejected c.bay, s.dev.rd .baySpecProposed c.bay)
        ∧ t.dev.hbm = s.dev.hbm ∧ t.dev.sqs = s.dev.sqs)

/-- The commands of gradient reduction and of the block collectives: BIND names an accumulator by a handle and UNBIND ends it (10 R271, R289);
RUN, ALLGATHER and ALLTOALL begin their part of the collective with its group, rank and plan, and the block collectives write the part's own
block at its rank (10 R287, R288, R292). -/
def Obligations.ReductionCommands : Prop :=
  ∀ (s : State) (q : Nat) (c : Cmd), c.bay < s.dev.bays.length → c.trapped = false → s.dev.passed c = false →
    (Runs s q 0x30 c → c.bits 16 0 2 = 0 → c.only 2 [(20, 0, 32), (32, 0, 48), (40, 0, 64)] = true → c.at 20 4 < 4096 → c.at 32 6 % 256 = 0 →
      1 ≤ c.at 40 8 → c.at 40 8 ≤ 2 ^ 40 → s.dev.handleBusy c.bay (c.at 20 4) = false →
      Does (.reduceBind q) s fun t => Ended s t q c stOk 0 ∧ Clean s t q c
        ∧ smFind (t.dev.bay c.bay).handles (c.at 20 4) = some { accVa := c.at 32 6, elements := c.at 40 8 }
        ∧ t = { s with dev := { s.dev with regs := t.dev.regs, sqs := t.dev.sqs, cqs := t.dev.cqs, bays := t.dev.bays } })
    ∧ (Runs s q 0x30 c → c.bits 16 0 2 = 1 → c.only 2 [(16, 0, 2), (20, 0, 32)] = true → c.at 20 4 < 4096 →
      s.dev.handleBusy c.bay (c.at 20 4) = false →
      Does (.reduceUnbind q) s fun t => Ended s t q c stOk 0 ∧ Clean s t q c ∧ smFind (t.dev.bay c.bay).handles (c.at 20 4) = none
        ∧ t = { s with dev := { s.dev with regs := t.dev.regs, sqs := t.dev.sqs, cqs := t.dev.cqs, bays := t.dev.bays } })
    ∧ (s.dev.enginesRun = true → s.dev.hbmBad = [] → (∀ o ∈ s.dev.objs, o.slowBad = []) → s.dev.collIn = [] → s.dev.collReports = [] → s.dev.readyIn = [] → s.dev.decisionIn = [] →
      (s.dev.parts.any fun p => p.sq == q) = false → ∀ g rank, s.dev.rankIn c.bay g = some rank → s.dev.memberBad g = none →
      (∀ plan, Runs s q 0x30 c → c.bits 16 0 2 = 2 → c.reduceOk = true → s.dev.part? c.bay (c.at 24 4) = none →
        s.dev.readGroup c.bay (c.at 56 8) = .ok (some g) → s.dev.readPlan c.bay (c.at 48 8) g = .ok (some plan) →
        let p : CollPart := { c.reducePart g rank with plan := plan }
        (p.method = 0 ∨ overlap p.efIn (4 * p.shardOff plan.length 0) p.efOut (4 * p.shardOff plan.length 0) = false) →
        (p.reduceRanges.any fun r => s.dev.outsideT1 c.bay r.1 r.2.1) = false → s.dev.rangesErr c.bay p.reduceRanges = none →
        Does (.reduceRun q) s fun t => ∃ x, t.dev.part? c.bay p.tag = some x ∧ x.sq = q ∧ x.order = c.order ∧ x.group = g ∧ x.rank = rank
          ∧ x.plan = plan ∧ x.method = c.bits 16 5 2 ∧ x.all = bitAt c.pkt 132 ∧ x.src = c.at 32 6 ∧ x.dst = c.at 64 8 ∧ x.ok = [])
      ∧ (∀ op cmd, (op, cmd) ∈ [(0x31, Instr.allgather q), (0x32, .alltoall q)] → Runs s q op c →
        c.only 1 [(16, 0, 32), (24, 0, 320)] = true → 1 ≤ c.at 48 8 → c.at 48 8 ≤ 2 ^ 32 → (op = 0x31 → c.at 56 8 = 0) →
        s.dev.part? c.bay (c.at 16 4) = none → s.dev.readGroup c.bay (c.at 24 8) = .ok (some g) →
        let bytes := c.at 48 8
        let counts := c.at 56 8
        let rs := [(c.at 32 8, if op = 0x31 then bytes else g.length * bytes, false), (c.at 40 8, g.length * bytes, true)]
          ++ (if counts = 0 then [] else [(counts, 8 * g.length, false), (counts + 8 * g.length, 8 * g.length, true)])
        (rs.any fun r => s.dev.outsideT1 c.bay r.1 r.2.1) = false → s.dev.rangesErr c.bay rs = none →
        (counts ≠ 0 → ∃ v, s.dev.readVaNat c.bay counts (8 * g.length) = .ok v ∧ ∀ l ∈ unpackCodes 64 g.length v, l ≤ bytes) →
        Does cmd s fun t => (∃ x, t.dev.part? c.bay (c.at 16 4) = some x ∧ x.sq = q ∧ x.order = c.order ∧ x.group = g ∧ x.rank = rank ∧ x.ok = []
            ∧ x.waits = ((upFrom 0 g.length).filter (· != rank)).map fun r => { kind := 3, range := r })
          ∧ ∀ bs, s.dev.readVa c.bay (if op = 0x31 then c.at 32 8 else c.at 32 8 + rank * bytes) bytes = .ok bs → counts = 0 →
              t.dev.hbm = (s.dev.writeVa c.bay (c.at 40 8 + rank * bytes) bs).1.hbm))

/-- The traffic of collectives. What arrives for a part that does not run waits for it (10 R287). What a running part waits for is used: a
partial sum gains this part's element in FP32 and, at its holder, is the slice sum that an all-reduce writes; a slice sum on its second travel
and a block are written at their place; a form waits for the others of its slice (10 R279, R280, R283, R292). A pass of the first course
takes a buffer of its die, travels die by die around the ring and is added where its element lives, in the order of its flow (01 R16; 10 R273,
R275). -/
def Obligations.CollectiveTraffic : Prop :=
  (∀ (s : State) (h : FrameHdr) (b tag r g t l data crc pc : Nat) (final : Bool) (d1 : Dev), s.dev.acceptColl h 3 = (d1, true) →
    (∀ cmd m, (cmd, m) ∈ [
        (Instr.ringPartialRx h b tag r g t data final,
          ({ bay := b, tag := tag, key := { kind := if final then 1 else 0, range := r, seg := g, slice := t }, len := 0, data := data } : CollMsg)),
        (.reduceFormRx h b tag r g t l data, { bay := b, tag := tag, key := { kind := 2, range := r, seg := g, slice := t, dom := l }, len := 0, data := data }),
        (.collectiveBlockRx h b tag r l data, { bay := b, tag := tag, key := { kind := 3, range := r }, len := l, data := data }),
        (.chainChunkRx h b tag r g l data crc pc, { bay := b, tag := tag, key := { kind := 4, range := r, seg := g, slice := crc, dom := pc }, len := l, data := data }),
        (.chainResendRequest h b tag r g, { bay := b, tag := tag, key := { kind := 5, range := r, seg := g }, len := 0, data := 0 })] →
      (∀ y ∈ s.dev.collIn, s.dev.part? y.bay y.tag = none) → s.dev.part? b tag = none →
      Does cmd s fun u => u.dev.collIn = s.dev.collIn ++ [m] ∧ u.dev.parts = s.dev.parts ∧ u.dev.hbm = s.dev.hbm)
    ∧ ∀ p, s.dev.enginesRun = true → s.dev.collIn = [] → (s.dev.parts.filter fun y => y.bay == b && y.tag == tag) = [p] →
      let used (u : State) (k : CollKey) : Prop := ∀ y, u.dev.part? b tag = some y → y.waits.contains k = false
      (∀ pr x d2, p.plan[r]? = some pr → p.place pr = some x →
        let n := x.ring.length
        let len := pr.sliceLen n g t
        let a := p.accSlice pr n g t
        (final = true → p.waits.contains { kind := 1, range := r, seg := g, slice := t } = true →
          d1.writeVa p.bay a (toLe (4 * len) data) = (d2, none) →
          Does (.ringPartialRx h b tag r g t data final) s fun u => used u { kind := 1, range := r, seg := g, slice := t } ∧ u.dev.hbm = d2.hbm)
        ∧ (∀ own, final = false → p.waits.contains { kind := 0, range := r, seg := g, slice := t } = true → d1.readVaNat p.bay a (4 * len) = .ok own →
          (x.pos ≠ t →
            Does (.ringPartialRx h b tag r g t data final) s fun u => used u { kind := 0, range := r, seg := g, slice := t } ∧ u.dev.hbm = s.dev.hbm)
          ∧ (x.pos = t → p.all = true →
            let fl := (s.dev.partCmd p).any (·.flush)
            let w := unpackCodes 32 len own
            let v := (if n = 1 then (pure w : Lane (List Nat)) else addForm fl (unpackCodes 32 len data) (w.map some)).run false |>.1
            d1.writeVa p.bay a (toLe (4 * v.length) (packCodes 32 v)) = (d2, none) →
            Does (.ringPartialRx h b tag r g t data final) s fun u => used u { kind := 0, range := r, seg := g, slice := t } ∧ u.dev.hbm = d2.hbm))
        ∧ (p.waits.contains { kind := 2, range := r, seg := g, slice := t, dom := l } = true →
          (p.sums.find? fun f => f.1 == { kind := 0, range := r, seg := g, slice := x.pos }) = none →
          Does (.reduceFormRx h b tag r g t l data) s fun u => used u { kind := 2, range := r, seg := g, slice := t, dom := l }
            ∧ (∀ y, u.dev.part? b tag = some y → y.forms = p.forms ++ [({ kind := 2, range := r, seg := g, slice := t, dom := l }, data)])
            ∧ u.dev.hbm = s.dev.hbm))
      ∧ (∀ d2, p.waits.contains { kind := 3, range := r } = true → p.opcode = 0x31 ∨ p.counts = 0 →
        d1.writeVa p.bay (p.dst + r * p.bytes) (toLe l data) = (d2, none) →
        Does (.collectiveBlockRx h b tag r l data) s fun u => used u { kind := 3, range := r } ∧ u.dev.hbm = d2.hbm))
  ∧ ∀ (s : State) (n : Nat) (p : FirstPass), s.dev.passes[n]? = some p → s.dev.enginesRun = true → passBehind s.dev.passes n p = false →
    (p.buf = false → bufsAt s.dev.passes p.die < 32 → Does (.firstCoursePass n) s fun t =>
      t = { s with dev := { s.dev with passes := modAt s.dev.passes n fun x => { x with buf := true } } })
    ∧ (p.buf = true → p.die ≠ p.owner → bufsAt s.dev.passes (ringNext p.die) < 32 → Does (.firstCoursePass n) s fun t =>
      t = { s with dev := { s.dev with passes := modAt s.dev.passes n fun x => { x with die := ringNext p.die } } })
    ∧ (p.buf = true → p.die = p.owner → s.dev.passWaits p = false → Does (.firstCoursePass n) s fun t => t.dev.passes = s.dev.passes.eraseIdx n
      ∧ t.dev.hbm = (p.elems.foldl (fun (d : Dev) e => (d.addAcc p.bay p.accVa e.1 e.2).1) { s.dev with passes := s.dev.passes.eraseIdx n }).hbm)

/-- A rank's report of success is kept until every rank has reported; a report of failure, and a deadline of the header that passes, end the
part: it completes ABORTED or DEADLINE (10 R287, R289, R290). -/
def Obligations.PartsEnd : Prop :=
  ∀ (s : State) (p : CollPart) (c : Cmd) (x : Sq), (s.dev.parts.filter fun y => y.sq == p.sq || (y.bay == p.bay && y.tag == p.tag)) = [p] →
    smFind s.dev.sqs p.sq = some x → x.run = some c → c.order = p.order →
    (∀ h rank status d1, s.dev.acceptColl h 0 = (d1, true) →
      (status = stOk → p.waits ≠ [] → Does (.partReportRx h p.bay p.tag rank status) s fun t => (∃ y, t.dev.part? p.bay p.tag = some y ∧ rank ∈ y.ok
          ∧ (∀ r ∈ p.ok, r ∈ y.ok) ∧ y.waits = p.waits) ∧ t.dev.hbm = s.dev.hbm)
      ∧ (status ≠ stOk → c.contribs = [] → s.dev.turns = [] →
        Does (.partReportRx h p.bay p.tag rank status) s fun t => Ended s t p.sq c stAborted 0 ∧ ∀ y ∈ t.dev.parts, y.sq ≠ p.sq))
    ∧ (s.dev.passed c = true → c.contribs = [] →
      Does (.partDeadlinePassed p.sq) s fun t => Ended s t p.sq c stDeadline 0 ∧ ∀ y ∈ t.dev.parts, y.sq ≠ p.sq)

/-- OPEN enters a sheaf as BUILDING; PUBLISH verifies it and makes it PUBLISHED with what its manifest names, its region read-only, or leaves it
BUILDING; HOLD and RELEASE take and give a pin, the last pin of a DRAINING sheaf retires it; QUERY writes the entries in the order of their ids with
their number; RETIRE ends with the number of pins: a BUILDING sheaf, and a PUBLISHED one without pins, are gone, one with pins is DRAINING
(11 R296 to R298, R302, R303, R325, R327, R328). -/
def Obligations.SheafCommands : Prop :=
  ∀ (s : State) (q : Nat) (c : Cmd), c.bay < s.dev.bays.length → c.trapped = false →
    let id := c.at 20 4
    let packet (op : Nat) (more : List (Nat × Nat × Nat)) : Prop :=
      Runs s q 0x41 c ∧ c.bits 16 0 3 = op ∧ c.only 1 ([(16, 0, 3), (20, 0, 32)] ++ more) = true ∧ (op ≠ 4 → id ≠ 0) ∧ (op = 4 → id = 0)
    (∀ x, packet 0 [(24, 0, 64)] → s.dev.openCheck c.bay id (c.at 24 8) false = .ok x →
      Does (.sheafOpen q) s fun t => Ended s t q c stOk 0 ∧ t.dev.hbm = s.dev.hbm
        ∧ t.dev.sheaf? c.bay id = some { id := id, aux := x.1, delta := x.2.1, st := 1, regionVa := c.at 24 8, regionBytes := x.2.2, since := s.dev.now })
    ∧ (∀ x, s.dev.sheaf? c.bay id = some x →
      (∀ m d1, packet 1 [] → x.st = 1 → s.dev.verify c.bay x = .ok m → s.dev.publish c.bay x m = some d1 →
        Does (.sheafPublish q) s fun t => Ended s t q c stOk 0 ∧ t.dev.hbm = s.dev.hbm
          ∧ (x.regionVa, x.regionBytes) ∈ (t.dev.bay c.bay).ro
          ∧ ∃ y, t.dev.sheaf? c.bay id = some y ∧ y.st = 2 ∧ y.since = s.dev.now ∧ y.regionVa = x.regionVa ∧ y.regionBytes = x.regionBytes
            ∧ y.aux = x.aux ∧ y.delta = m.delta ∧ y.draft = m.draft ∧ y.fallback = m.fallback ∧ y.base = m.base ∧ y.baseBay = m.baseBay)
      ∧ (packet 1 [] → x.st = 1 → s.dev.verify c.bay x = .error { status := stBadParam } →
        Does (.sheafPublish q) s fun t => Ended s t q c stBadParam 0 ∧ t.dev.sheaf? c.bay id = some x ∧ t.dev.hbm = s.dev.hbm)
      ∧ (packet 2 [] → x.st = 2 ∨ x.st = 3 → x.pins < 0xFFFFFFFF →
        Does (.sheafHold q) s fun t => Ended s t q c stOk 0 ∧ t.dev.sheaf? c.bay id = some { x with pins := x.pins + 1, holds := x.holds + 1 }
          ∧ t.dev.hbm = s.dev.hbm)
      ∧ (packet 3 [] → x.holds ≠ 0 →
        Does (.sheafRelease q) s fun t => Ended s t q c stOk 0 ∧ t.dev.hbm = s.dev.hbm
          ∧ (x.st ≠ 4 → t.dev.sheaf? c.bay id = some { x with pins := x.pins - 1, holds := x.holds - 1 })
          ∧ (x.st = 4 → x.pins = 1 → t.dev.sheaf? c.bay id = none)))
    ∧ (∀ d1, packet 4 [(32, 0, 64)] →
      let es := sortBy (fun a b : Sheaf => decide (a.id ≤ b.id)) (s.dev.bay c.bay).sheaves
      s.dev.writeVa c.bay (c.at 32 8) (es.flatMap fun x => toLe 32 x.entry) = (d1, none) →
      Does (.sheafQuery q) s fun t => Ended s t q c stOk (s.dev.bay c.bay).sheaves.length ∧ t.dev.hbm = d1.hbm
        ∧ (t.dev.bay c.bay).sheaves = (s.dev.bay c.bay).sheaves)
    ∧ (∀ x, Runs s q 0x43 c → c.only 1 [(16, 0, 32)] = true → s.dev.sheaf? c.bay (c.at 16 4) = some x → s.dev.filled c.bay x = false →
      (x.st = 1 ∨ (x.st = 2 ∧ x.pins = 0) →
        Does (.sheafRetire q) s fun t => Ended s t q c stOk x.pins ∧ t.dev.sheaf? c.bay (c.at 16 4) = none ∧ t.dev.hbm = s.dev.hbm)
      ∧ (x.st = 2 → x.pins ≠ 0 →
        Does (.sheafRetire q) s fun t => Ended s t q c stOk x.pins ∧ t.dev.sheaf? c.bay (c.at 16 4) = some { x with st := 4, since := s.dev.now }
          ∧ t.dev.hbm = s.dev.hbm))

/-- TURN in both directions, SHEAF_SWITCH, CHAIN_BROADCAST and FW_RELAY begin their part: with no work of its own a part of an agreement is ready;
a part waits for every chain in which it is no head, and the heads whose bytes are in memory have sent theirs; a TURN to generate enters its
sheaf as BUILDING, after the jobs of its rank; FW_RELAY shows that an image is coming (11 R307, R312, R313, R318, R320, R326; 17 R499). -/
def Obligations.PartsOfTurns : Prop :=
  ∀ (s : State) (q : Nat) (c : Cmd) (g : List Member) (rank : Nat), c.bay < s.dev.bays.length → c.trapped = false → c.nan = false →
    s.dev.enginesRun = true → (∀ p ∈ s.dev.parts, p.sq ≠ q) → (∀ t ∈ s.dev.turns, t.sq ≠ q) → (∀ x ∈ s.dev.chains, x.sq ≠ q) →
    s.dev.hbmBad = [] → (∀ o ∈ s.dev.objs, o.slowBad = []) → s.dev.collIn = [] → s.dev.collReports = [] → s.dev.readyIn = [] → s.dev.decisionIn = [] → s.dev.memberBad g = none →
    let begun (t : State) (tag : Nat) (keys : List CollKey) : Prop := ∃ x, t.dev.part? c.bay tag = some x ∧ x.sq = q ∧ x.order = c.order ∧ x.group = g
      ∧ x.rank = rank ∧ x.waits = keys
    let keys (runs : List ChainRun) : List CollKey := (runs.filter fun r => r.pos != 0).map fun r => { kind := 4, range := r.idx }
    (s.dev.turnBusy c.bay = false → s.dev.turnGroup c (c.at 40 8) = .ok (g, rank) → s.dev.now + 1000 * c.at (if c.opcode = 0x40 then 28 else 24) 4 ≤ c.at 32 8 →
      (Runs s q 0x40 c → c.opcode = 0x40 → c.bits 16 0 1 = 1 → c.only 2 [(16, 0, 1), (24, 0, 64), (32, 0, 128)] = true → c.deadline = 0 →
        1000 ≤ c.at 28 4 → c.at 28 4 ≤ 100000 → s.dev.part? c.bay (c.at 24 4) = none →
        Does (.turnToLearn q) s fun t => begun t (c.at 24 4) [] ∧ t.dev.hbm = s.dev.hbm
          ∧ ∃ x ∈ t.dev.turns, x.sq = q ∧ x.learn = true ∧ x.time = c.at 32 8 ∧ x.guard = c.at 28 4 ∧ x.ready = true ∧ x.decision = none)
      ∧ (∀ x, Runs s q 0x42 c → c.opcode = 0x42 → c.only 1 [(16, 0, 96), (32, 0, 128)] = true → 1000 ≤ c.at 24 4 → c.at 24 4 ≤ 100000 →
        s.dev.sheaf? c.bay (c.at 16 4) = some x → x.st = 2 → x.aux = false → s.dev.part? c.bay (c.at 20 4) = none →
        Does (.sheafSwitch q) s fun t => begun t (c.at 20 4) [] ∧ t.dev.hbm = s.dev.hbm
          ∧ ∃ y ∈ t.dev.turns, y.sq = q ∧ y.switch = true ∧ y.sheaf = c.at 16 4 ∧ y.time = c.at 32 8 ∧ y.ready = true ∧ y.decision = none)
      ∧ (∀ x pl, Runs s q 0x40 c → c.opcode = 0x40 → c.bits 16 0 1 = 0 → c.only 2 [(16, 0, 1), (20, 0, 96), (32, 0, 448)] = true → c.deadline = 0 →
        1000 ≤ c.at 28 4 → c.at 28 4 ≤ 100000 → s.dev.part? c.bay (c.at 24 4) = none → s.dev.openCheck c.bay (c.at 20 4) (c.at 56 8) true = .ok x →
        s.dev.readTurnPlan c.bay (c.at 48 8) g.length = .ok (some pl) → s.dev.planFits c.bay (c.at 56 8) rank pl = true →
        (∀ j ∈ pl.jobs, j.rank ≠ rank) → (∀ e ∈ pl.chains, e.2.head? ≠ some rank) → (∃ e ∈ pl.chains, rank ∈ e.2) →
        Does (.turnToGenerate q) s fun t =>
          (∃ y, t.dev.part? c.bay (c.at 24 4) = some y ∧ y.sq = q ∧ y.group = g ∧ y.rank = rank
            ∧ y.waits = ((upFrom 0 pl.chains.length).zip pl.chains).filterMap fun e => if e.2.2.contains rank then some { kind := 4, range := e.1 } else none)
          ∧ (∃ y, t.dev.sheaf? c.bay (c.at 20 4) = some y ∧ y.st = 1 ∧ y.regionVa = c.at 56 8 ∧ y.regionBytes = x.2.2)
          ∧ (∃ y ∈ t.dev.turns, y.sq = q ∧ y.learn = false ∧ y.sheaf = c.at 20 4 ∧ y.crc = pl.crc ∧ y.ready = false)))
    ∧ (∀ cs, Runs s q 0x33 c → bitAt c.pkt 128 = false → c.only 2 [(16, 0, 1), (20, 0, 64), (32, 0, 192), (64, 0, 64), (80, 0, 64), (56, 0, 64)] = true →
      1 ≤ c.at 24 4 → c.at 24 4 ≤ 1048576 → s.dev.part? c.bay (c.at 20 4) = none → s.dev.readGroup c.bay (c.at 32 8) = .ok (some g) →
      s.dev.rankIn c.bay g = some rank → s.dev.readChains c.bay (c.at 40 8) (c.at 48 8) (c.at 24 4) g.length = .ok (some cs) → cs.length = c.at 24 4 →
      s.dev.passed c = false → c.at 80 8 = 0 → (∀ e ∈ cs, e.2.head? = some rank → e.1.headStores = false) →
      let runs := ((upFrom 0 (c.at 24 4)).zip cs).filterMap fun e => chainRun c e.1 rank (c.at 56 8) (c.at 64 8) e.2
      (∀ r ∈ runs, s.dev.refetchOf c.bay 0x33 r.dst r.bytes = none ∧ s.dev.outsideT1 c.bay (if r.pos = 0 then r.src else r.dst) r.bytes = false
        ∧ s.dev.checkVa c.bay (if r.pos = 0 then r.src else r.dst) r.bytes (r.pos != 0) = none) →
      Does (.chainBroadcast q) s fun t => begun t (c.at 20 4) (keys runs) ∧ t.dev.hbm = s.dev.hbm)
    ∧ (∀ cs, Runs s q 0xB1 c → c.only 2 [(16, 0, 64), (24, 0, 192)] = true → 1 ≤ c.at 20 4 → c.at 20 4 ≤ 1048576 →
      s.dev.part? c.bay (c.at 16 4) = none → s.dev.readGroup c.bay (c.at 24 8) = .ok (some g) → s.dev.rankIn c.bay g = some rank →
      s.dev.readChains c.bay (c.at 32 8) (c.at 40 8) (c.at 20 4) g.length = .ok (some cs) → s.dev.passed c = false →
      (∀ e ∈ cs, e.1.piece = 0 ∧ e.1.headStores = false ∧ e.1.srcOff + e.1.bytes ≤ stageSize ∧ e.1.dstOff + e.1.bytes ≤ stageSize) →
      let runs := ((upFrom 0 (c.at 20 4)).zip cs).filterMap fun e => chainRun c e.1 rank 0 0 e.2
      Does (.fwRelay q) s fun t => begun t (c.at 16 4) (keys runs) ∧ t.dev.stage = s.dev.stage
        ∧ ((∃ r ∈ runs, r.pos ≠ 0) → t.dev.rbit .bringStageSts 0 1 = true))

/-- The agreement on a switch: the coordinator decides abort at a failure or a mismatch, and commit once every rank has reported ready at or before
the cutoff; the cutoff decides abort with DEADLINE; a rank holds the first decision it receives, or completes with an abort's status; with no
decision at the end of the guard time the part ends. Reports and decisions for a part not yet begun wait (11 R307, R309, R310). -/
def Obligations.AgreementOnASwitch : Prop :=
  ∀ (s : State) (p : CollPart) (u : TurnSt) (c : Cmd) (x : Sq), p.opcode = 0x40 ∨ p.opcode = 0x42 →
    (s.dev.parts.filter fun y => y.sq == p.sq || (y.bay == p.bay && y.tag == p.tag)) = [p] → (s.dev.turns.filter fun t => t.sq == p.sq) = [u] →
    u.order = p.order → (∀ y ∈ s.dev.parts, y.opcode ≠ 0x70) → smFind s.dev.sqs p.sq = some x → x.run = some c → c.order = p.order → c.contribs = [] →
    2 ≤ p.group.length → u.decision = none →
    let ends (t : State) (status : Nat) : Prop := Ended s t p.sq c status 0 ∧ (∀ y ∈ t.dev.parts, y.sq ≠ p.sq) ∧ ∀ y ∈ t.dev.turns, y.sq ≠ p.sq
    let holds (t : State) (f : TurnSt → Prop) : Prop := (∃ y, t.dev.part? p.bay p.tag = some y ∧ y.sq = p.sq) ∧ ∃ y ∈ t.dev.turns, y.sq = p.sq ∧ f y
    (p.rank = 0 → u.decided = false →
      (∀ h m d1, s.dev.acceptColl h 0 = (d1, true) →
        let ranks := if u.readyRanks.contains m.rank then u.readyRanks else u.readyRanks ++ [m.rank]
        (m.fail ≠ none ∨ (∃ y, u.first = some y ∧ y ≠ (m.sheaf, m.time, m.crc)) →
          Does (.readyReportRx h p.bay p.tag m) s fun t => ends t stAborted)
        ∧ (m.fail = none → u.first = none ∨ u.first = some (m.sheaf, m.time, m.crc) →
          (ranks.length = p.group.length → s.dev.now ≤ u.cutoff →
            Does (.readyReportRx h p.bay p.tag m) s fun t => holds t fun y => y.decision = some (true, 0, s.dev.now) ∧ y.decided = true)
          ∧ (ranks.length ≠ p.group.length →
            Does (.readyReportRx h p.bay p.tag m) s fun t => holds t fun y => y.decision = none ∧ y.readyRanks = ranks
              ∧ y.first = some (m.sheaf, m.time, m.crc))))
      ∧ (u.cutoff ≤ s.dev.now → Does (.agreementCutoff p.sq) s fun t => ends t stDeadline))
    ∧ (∀ h commit status d1, s.dev.acceptColl h 0 = (d1, true) →
      (commit = true → Does (.decisionRx h p.bay p.tag commit status) s fun t => holds t fun y => y.decision = some (true, status, s.dev.now))
      ∧ (commit = false → status ≠ stOk → Does (.decisionRx h p.bay p.tag commit status) s fun t => ends t status))
    ∧ (∀ h b tag m commit status d1, s.dev.acceptColl h 0 = (d1, true) → s.dev.part? b tag = none →
      Does (.readyReportRx h b tag m) s (fun t => t.dev.readyIn.length = s.dev.readyIn.length + 1 ∧ t.dev.parts = s.dev.parts)
      ∧ Does (.decisionRx h b tag commit status) s fun t => t.dev.decisionIn = s.dev.decisionIn ++ [(b, tag, commit, status)] ∧ t.dev.parts = s.dev.parts)
    ∧ (u.time + 1000 * u.guard + u.paused ≤ s.dev.now →
      Does (.decisionTimeout p.sq) s fun t => ends t (if s.dev.rankLost p 0 = true then stPeerLost else stDeadline))

/-- The switch acts at the first beat at or after SWITCH_TIME and the decision: the sheaf is CURRENT and the one that was CURRENT drains, and a
SHEAF_SWITCH completes with its lateness as result; a TURN of a bay that may not ask for an array configuration completes too, and one that asks
for another configuration waits until it is in force (11 R297, R308, R314). -/
def Obligations.SwitchesAct : Prop :=
  ∀ (s : State) (p : CollPart) (u : TurnSt) (c : Cmd) (x : Sq) (status came : Nat), p.bay < s.dev.bays.length → p.bay < 16 →
    (s.dev.parts.filter fun y => y.sq == p.sq) = [p] → (s.dev.turns.filter fun t => t.sq == p.sq) = [u] → u.order = p.order →
    smFind s.dev.sqs p.sq = some x → x.run = some c → c.order = p.order → c.contribs = [] → c.nan = false →
    u.decision = some (true, status, came) → u.acted = none → alignUp (max u.time came) 4 ≤ s.dev.now → s.dev.enginesRun = true →
    let late := if came > u.time ∨ s.dev.now > alignUp (max u.time came) 4 then min (s.dev.now - u.time) 0xFFFFFFFF else 0
    (∀ y, p.opcode = 0x42 → u.switch = true → u.learn = false → s.dev.sheaf? p.bay u.sheaf = some y → y.st = 2 → y.aux = false →
      (∀ o, s.dev.currentSheaf p.bay = some o → o.id ≠ u.sheaf ∧ s.dev.sheaf? p.bay o.id = some o) →
      Does (.switchAct p.sq) s fun t => Ended s t p.sq c stOk late ∧ (∀ z ∈ t.dev.parts, z.sq ≠ p.sq)
        ∧ (∃ z, t.dev.sheaf? p.bay u.sheaf = some z ∧ z.st = 3)
        ∧ ∀ o, s.dev.currentSheaf p.bay = some o →
            (o.pins ≠ 0 → ∃ z, t.dev.sheaf? p.bay o.id = some z ∧ z.st = 4) ∧ (o.pins = 0 → t.dev.sheaf? p.bay o.id = none))
    ∧ (p.opcode = 0x40 → u.switch = false → u.learn = true → p.bay ≠ 0 → s.dev.rbit .bayId p.bay 6 = false →
      Does (.switchAct p.sq) s fun t => Ended s t p.sq c stOk late ∧ (∀ z ∈ t.dev.parts, z.sq ≠ p.sq) ∧ t.dev.arr = s.dev.arr)
    ∧ (p.opcode = 0x40 → u.switch = false → u.learn = true → p.bay = 0 → s.dev.fd .thatchArraySts 0 0 2 ≠ 2 → s.dev.rbit .thatchArraySts 0 2 = false →
      s.dev.rbit .thatchArraySts 0 3 = false →
      Does (.switchAct p.sq) s fun t => t.dev.rbit .thatchArraySts 0 2 = true ∧ t.dev.arr.target = 2 ∧ t.dev.parts = s.dev.parts
        ∧ ∃ z ∈ t.dev.turns, z.sq = p.sq ∧ z.acted = some late)

/-- A chunk that is the next of its chain, whole and with its CRC, is stored at its place; the last one, whose piece has its CRC, ends the chain for
the part. One that is broken is asked for again, and the predecessor sends it again. Bytes of network storage gather to a chunk. A connection that
fails ends the part whose chain reads over it (11 R318, R319, R321; 15 R439). -/
def Obligations.ChainsTravel : Prop :=
  ∀ (s : State) (p : CollPart) (x : ChainRun), s.dev.enginesRun = true → s.dev.collIn = [] → p.opcode = 0x33 →
    (s.dev.parts.filter fun y => y.sq == p.sq || (y.bay == p.bay && y.tag == p.tag)) = [p] → (s.dev.chains.filter fun y => y.sq == p.sq) = [x] →
    x.sq = p.sq → x.order = p.order →
    let chain (t : State) (f : ChainRun → Prop) : Prop := ∃ y, t.dev.chain? p x.idx = some y ∧ f y
    (∀ h k len data crc pc d1, s.dev.acceptColl h 3 = (d1, true) → x.pos ≠ 0 → k = x.next → s.dev.refetchOf p.bay 0x33 x.dst x.bytes = none →
      let a := x.dst + k * chunkBytes
      (∀ d2, len = x.len k → crc64 (toLe len data) = crc → d1.writeVa p.bay a (toLe len data) = (d2, none) → d2.readVa p.bay a len = .ok (toLe len data) →
        d2.refetchOf p.bay 0x33 x.dst x.bytes = none →
        (k + 1 < x.chunks →
          Does (.chainChunkRx h p.bay p.tag x.idx k len data crc pc) s fun t => t.dev.hbm = d2.hbm
            ∧ chain t fun y => y = { x with next := k + 1, tries := 0 })
        ∧ (∀ all, k + 1 = x.chunks → d2.readVa p.bay x.dst x.bytes = .ok all → crc64 all = pc → x.crcVa = none →
          Does (.chainChunkRx h p.bay p.tag x.idx k len data crc pc) s fun t => t.dev.hbm = d2.hbm
            ∧ ∀ y, t.dev.part? p.bay p.tag = some y → y.waits.contains { kind := 4, range := x.idx } = false ∧ y.written = p.written + len))
      ∧ (len ≠ x.len k ∨ crc64 (toLe len data) ≠ crc → x.tries < 2 →
        Does (.chainChunkRx h p.bay p.tag x.idx k len data crc pc) s fun t => t.dev.hbm = s.dev.hbm
          ∧ chain t fun y => y = { x with tries := x.tries + 1 }))
    ∧ (∀ h k d1 bs all, s.dev.acceptColl h 3 = (d1, true) → x.kept = [] →
      let a := if x.pos = 0 then x.src else x.dst
      s.dev.readVa p.bay (a + k * chunkBytes) (x.len k) = .ok bs → s.dev.readVa p.bay a x.bytes = .ok all →
      Does (.chainResendRequest h p.bay p.tag x.idx k) s fun t => t.dev.hbm = s.dev.hbm ∧ t.dev.parts = s.dev.parts ∧ t.dev.chains = s.dev.chains
        ∧ ∀ r m, x.members[x.pos + 1]? = some r → p.group[r]? = some m → m.dev ≠ s.dev.self →
            ∃ f ∈ t.dev.fab.frames, f.dst = m.dev ∧ f.vc = 3 ∧ f.kind = fkChunk)
    ∧ (∀ n len data, x.conn = some n → (s.dev.conn n).st = 2 → x.next < x.chunks → 1 ≤ len → x.bufLen + len < x.len x.next →
      Does (.roceReadResponse n p.bay p.tag x.idx len data) s fun t => t.dev.hbm = s.dev.hbm
        ∧ chain t fun y => y = { x with buf := x.buf + data % 2 ^ (8 * len) * 2 ^ (8 * x.bufLen), bufLen := x.bufLen + len })
    ∧ (∀ n len data, x.conn = some n → (s.dev.conn n).st = 2 → x.stores = false → x.next + 1 < x.chunks → 1 ≤ len → x.bufLen + len = x.len x.next →
      Does (.roceReadResponse n p.bay p.tag x.idx len data) s fun t => t.dev.hbm = s.dev.hbm
        ∧ chain t fun y => y.next = x.next + 1 ∧ y.bufLen = 0 ∧ y.kept = x.kept ++ [x.buf + data % 2 ^ (8 * len) * 2 ^ (8 * x.bufLen)])
    ∧ (∀ n v c z, x.conn = some n → (s.dev.conn n).st = 2 → (s.dev.chains.filter fun y => y.conn == some n) = [x] →
      p.waits.contains { kind := 4, range := x.idx } = true → smFind s.dev.sqs p.sq = some z → z.run = some c → c.order = p.order → c.contribs = [] →
      Does (.connError n v) s fun t => (t.dev.conn n).st = 3 ∧ (t.dev.conn n).err = v % 256 ∧ Ended s t p.sq c stLinkLost 0
        ∧ ∀ y ∈ t.dev.parts, y.sq ≠ p.sq)

/-- OBJ_CREATE makes an object in T1 frames or in T3, with its attributes, and its number of pages as result; DESTROY removes it with its mappings, and
their number; QUERY writes its state record, and clears its fault where asked; OBJ_FLUSH writes the dirty granules of a range back and clears their
dirty bits (14 R401, R402, R409, R417, R418). -/
def Obligations.ObjectCommands : Prop :=
  ∀ (s : State) (q : Nat) (c : Cmd), c.bay < s.dev.bays.length → c.trapped = false →
    let id := c.at 24 8
    (∀ hint pool need vs d1 fr, Runs s q 0x60 c → c.bits 16 0 2 = 0 →
      let tier := c.bits 17 0 3
      let bk := c.bits 17 3 3
      let small := bitAt c.pkt (136 + 6)
      let page := if small = true then 0x10000 else 0x200000
      let size := c.at 32 8
      let first := c.bits 19 0 5
      let run := c.bits 20 0 4
      let ex := c.bits 18 1 2
      c.only 1 ([(16, 0, 2), (17, 0, 8), (18, 0, 3), (24, 0, 40), (32, 0, 64), (40, 0, 32)] ++ (if tier = 1 then [(19, 0, 5), (20, 0, 4)] else [])) = true →
      tier = 1 ∨ (tier = 3 ∧ bitAt c.pkt 144 = false ∧ ex = 0) → backingOk tier bk = true → ex ≠ 3 → (ex ≠ 0 ↔ c.at 40 4 ≠ 0) → id ≠ 0 →
      size % page = 0 → page ≤ size → size ≤ 2 ^ 40 → s.dev.obj? c.bay id = none → s.dev.tierShut tier (size / page) first run = false →
      (bk = 0 ∨ s.dev.tierShut bk 0 0 0 = false) → s.dev.classify c.bay tier size 0 0 (bitAt c.pkt (136 + 7)) (bk != 0) = some (pool, need) →
      (if need = 0 then some [] else s.dev.victims tier need c.order []) = some vs → evictAll s.dev vs = (d1, true) →
      (tier = 1 → d1.frames page (size / page) first run hint = some fr) →
      Does (.objCreate q hint) s fun t => Ended s t q c stOk (size / page) ∧ t.dev.hbm = d1.hbm
        ∧ ∃ o, t.dev.objs = d1.objs ++ [o] ∧ o.bay = c.bay ∧ o.id = id ∧ o.size = size ∧ o.small = small ∧ o.home = tier ∧ o.backing = bk ∧ o.pool = pool
          ∧ o.pin = bitAt c.pkt (136 + 7) ∧ o.underlay = bitAt c.pkt 144 ∧ o.exportMode = ex ∧ o.key = c.at 40 4 ∧ o.touched = s.dev.now ∧ o.dirty = []
          ∧ o.locs = if tier = 3 then [{ tier := 3 }] else [{ tier := 1, frames := fr, firstStack := first, runLog2 := run }])
    ∧ (∀ o, s.dev.obj? c.bay id = some o →
      (Runs s q 0x60 c → c.bits 16 0 2 = 1 → c.objOnly false = true → s.dev.isHeld o c.order = false → o.place = none →
        Does (.objDestroy q) s fun t => Ended s t q c stOk (s.dev.mappingsOf o) ∧ t.dev.obj? c.bay id = none
          ∧ (∀ b m, m ∈ (t.dev.bay b).maps → m.peer = none → ¬ (m.objBay = c.bay ∧ m.objId = id)))
      ∧ (∀ d1, Runs s q 0x60 c → c.bits 16 0 2 = 2 → c.objOnly true = true → s.dev.checkVa c.bay (c.at 48 8) 64 true = none →
        s.dev.writeVa c.bay (c.at 48 8) (toLe 64 (s.dev.objRecord o c.order)) = (d1, none) →
        Does (.objQuery q) s fun t => Ended s t q c stOk o.pages ∧ t.dev.hbm = d1.hbm
          ∧ (bitAt c.pkt 130 = true → ∀ x, t.dev.obj? c.bay id = some x → x.fault = false ∧ x.faults = 0 ∧ x.faultOff = none)
          ∧ (bitAt c.pkt 130 = false → t.dev.objs = d1.objs))
      ∧ (Runs s q 0x62 c → s.dev.enginesRun = true → c.only 1 [(24, 0, 40), (32, 0, 64), (40, 0, 64)] = true → o.backing ≠ 0 →
        let off := c.at 32 8
        let n := if c.at 40 8 = 0 then o.size - off else c.at 40 8
        let gs := (o.dirty.map (·.1)).filter fun g => decide (off ≤ g * 0x10000) && decide (g * 0x10000 < off + n)
        off % 0x10000 = 0 → n % 0x10000 = 0 → n ≠ 0 → off + n ≤ o.size →
        (∀ g ∈ gs, s.dev.objErr o (g * 0x10000) 0x10000 = none ∧ s.dev.flashErr o [g] = none) →
        Does (.objFlush q) s fun t => Ended s t q c stOk (min gs.length (2 ^ 32 - 1)) ∧ t.dev.obj? c.bay id = some (s.dev.writeBack o gs)
          ∧ (∀ x, t.dev.obj? c.bay id = some x → ∀ g ∈ gs, smFind x.dirty g = none) ∧ t.dev.hbm = s.dev.hbm))

/-- OBJ_PLACE of an object that lies wholly at its target completes with no tile moved, and its home, backing and pin are those asked for; of one that
does not, it begins a placement of every tile to the target. A tile that lands leaves the tiles to come, and the last one ends the placement with the
number of tiles moved (14 R406 to R408). -/
def Obligations.PlacementsOfObjects : Prop :=
  ∀ (s : State) (q : Nat) (c : Cmd) (o : Obj), c.trapped = false → Runs s q 0x61 c → s.dev.obj? c.bay (c.at 24 8) = some o →
    let tier := c.bits 16 0 3
    let bk := c.bits 16 3 3
    let first := c.bits 19 0 5
    let run := c.bits 20 0 4
    let tile := if bitAt c.pkt 134 = true then 2 ^ c.bits 17 0 5 else o.size
    let pin := if c.bits 18 0 2 = 0 then o.pin else c.bits 18 0 2 == 1
    (∀ hint pool need vs d1, o.place = none →
      c.only 1 ([(16, 0, 7), (17, 0, 5), (18, 0, 2), (24, 0, 40), (32, 0, 32)] ++ (if tier = 1 then [(19, 0, 5), (20, 0, 4)] else [])) = true →
      tier = 1 ∨ tier = 3 ∨ tier = 4 → backingOk tier bk = true → c.bits 18 0 2 ≠ 3 → (c.at 32 4 = 0xFFFFFFFF ∨ c.at 32 4 < 4096) →
      (if bitAt c.pkt 134 = true then 16 ≤ c.bits 17 0 5 ∧ c.bits 17 0 5 ≤ 28 else c.bits 17 0 5 = 0 ∧ o.size ≤ 0x10000000) →
      (o.home = 1 → tier ≠ 1 → s.dev.isHeld o c.order = false ∧ o.underlay = false) → (o.home = 3 → tier ≠ 3 → s.dev.heldRing o = false) →
      (∀ u ∈ s.dev.ulPages, u.objBay = o.bay → u.objId = o.id → u.st = 3) → s.dev.tierShut tier o.pages first run = false →
      s.dev.classify c.bay tier o.size (if o.home = tier ∧ o.pool = false then o.size else 0) (if o.home = tier ∧ o.pool = true then o.size else 0) pin
        (bk != 0) = some (pool, need) →
      (if need = 0 then some [] else s.dev.victims tier need c.order [(o.bay, o.id)]) = some vs → evictAll s.dev vs = (d1, true) →
      (∀ l, o.locs = [l] → l.is tier first run = true → o.tileAt = [] → (∃ x ∈ d1.objs, x.bay = o.bay ∧ x.id = o.id) →
        Does (.objPlace q hint) s fun t => Ended s t q c stOk 0
          ∧ ∃ x, t.dev.obj? c.bay (c.at 24 8) = some x ∧ x.place = none ∧ x.home = tier ∧ x.backing = bk ∧ x.pin = pin ∧ x.pool = pool ∧ x.locs = [l])
      ∧ (∀ l, o.locs = [l] → l.is tier first run = false → tier ≠ 1 → o.tileAt = [] → o.size % 0x10000 = 0 → o.size ≠ 0 →
        (∃ x ∈ d1.objs, x.bay = o.bay ∧ x.id = o.id) →
        Does (.objPlace q hint) s fun t => ∃ x p, t.dev.obj? c.bay (c.at 24 8) = some x ∧ x.place = some p ∧ x.locs = [l, { tier := tier }] ∧ x.home = o.home
          ∧ p.sq = q ∧ p.tier = tier ∧ p.backing = bk ∧ p.pin = pin ∧ p.target = 1 ∧ p.tileBytes = tile ∧ p.total = ceilDiv o.size tile
          ∧ p.left = upFrom 0 (ceilDiv o.size tile) ∧ p.event = c.at 32 4))
    ∧ ∀ p k, o.place = some p → p.left.contains k = true → s.dev.enginesRun = true → p.flashReads o k ++ p.flashWrites o k = [] →
      s.dev.nvmeBusy (.tile q c.order k) = false →
      (s.dev.dirtyErr o (if p.intoBacking = true then (p.granulesOf o k).filter fun g => (smFind o.dirty g).isSome else p.granulesOf o k) = none) →
      ((∃ j ∈ p.left, j ≠ k) → Does (.tileLanded q k false) s fun t => ∃ x, t.dev.obj? c.bay (c.at 24 8) = some x
          ∧ x.place = some { p with left := p.left.filter (· != k) } ∧ (∀ g ∈ p.granulesOf o k, smGet 0 x.tileAt g = p.target)
          ∧ (p.event ≠ 0xFFFFFFFF → c.bay < s.dev.bays.length → t.dev.counter c.bay p.event
              = max (s.dev.counter c.bay p.event) (landedPrefix (p.left.filter (· != k)) p.total 0) % 2 ^ 64))
      ∧ ((∀ j ∈ p.left, j = k) → Does (.tileLanded q k false) s fun t => Ended s t q c stOk (min p.moved (2 ^ 32 - 1))
          ∧ ∃ x, t.dev.obj? c.bay (c.at 24 8) = some x ∧ x.place = none ∧ x.home = p.tier ∧ x.backing = p.backing ∧ x.pin = p.pin ∧ x.pool = p.pool
            ∧ x.tileAt = [])

/-- MAP and MAP REMOTE add a mapping of the object's pages, with their number as result; a remote one needs the owner's export, its key and the quota
of T2; UNMAP removes the pages of its range and leaves every mapping outside it (14 R403, R414, R416, R418). -/
def Obligations.MappingsAreMadeAndRemoved : Prop :=
  ∀ (s : State) (q : Nat) (c : Cmd), c.bay < s.dev.bays.length → c.trapped = false →
    (∀ o, Runs s q 0x63 c → bitAt c.pkt 130 = false → s.dev.obj? c.bay (c.at 32 8) = some o → c.mapOnly false = true →
      s.dev.mapOk c o.pageSize o.size = true →
      Does (.map q) s fun t => Ended s t q c stOk (c.at 48 8 / o.pageSize) ∧ Clean s t q c
        ∧ (t.dev.bay c.bay).maps = (s.dev.bay c.bay).maps ++
            [{ va := c.at 24 8, bytes := c.at 48 8, objBay := c.bay, objId := o.id, off := c.at 40 8,
               write := bitAt c.pkt 128, prefetch := bitAt c.pkt 129, small := o.small }]
        ∧ t = { s with dev := { s.dev with regs := t.dev.regs, sqs := t.dev.sqs, cqs := t.dev.cqs, bays := t.dev.bays } })
    ∧ (∀ o, Runs s q 0x63 c → bitAt c.pkt 130 = true → c.mapOnly true = true → s.dev.ready = true →
      let page := if o.small = true then 0x10000 else 0x200000
      s.dev.mapOk c page o.size = true →
      (o.exportMode ≠ 0 → o.key = c.at 20 4 → (bitAt c.pkt 128 = true → o.exportMode = 2) → s.dev.t2Mapped c.bay + c.at 48 8 ≤ s.dev.quota c.bay 2 →
        Does (.mapRemote q (some o)) s fun t => Ended s t q c stOk (c.at 48 8 / page) ∧ Clean s t q c
          ∧ (t.dev.bay c.bay).maps = (s.dev.bay c.bay).maps ++
              [{ va := c.at 24 8, bytes := c.at 48 8, objBay := c.bay, objId := c.at 32 8, off := c.at 40 8,
                 write := bitAt c.pkt 128, prefetch := bitAt c.pkt 129, small := o.small, peer := some (c.at 18 2), key := c.at 20 4 }])
      ∧ (o.exportMode = 0 ∨ o.key ≠ c.at 20 4 ∨ (bitAt c.pkt 128 = true ∧ o.exportMode ≠ 2) →
        Does (.mapRemote q (some o)) s fun t => Ended s t q c stNoPerm 0 ∧ (t.dev.bay c.bay).maps = (s.dev.bay c.bay).maps))
    ∧ (Runs s q 0x64 c → c.only 1 [(24, 0, 64), (32, 0, 64)] = true →
      let va := c.at 24 8
      let n := c.at 32 8
      va % 0x10000 = 0 → n % 0x10000 = 0 → va + n ≤ 2 ^ 48 →
      (∀ m ∈ (s.dev.bay c.bay).maps, m.small = false → ∀ x ∈ [va, va + n], m.va < x → x < m.va + m.bytes → (x - m.va) % 0x200000 = 0) →
      s.dev.readOnly c.bay va n = false →
      (s.dev.runningAll.any fun x => x.bay == c.bay && decide (x.order < c.order) && x.uses.any fun r => overlap va n r.1 r.2) = false →
      Does (.unmap q) s fun t => Ended s t q c stOk
            (min (sumN (((s.dev.bay c.bay).maps.filter fun m => overlap va n m.va m.bytes).map fun m => m.pagesIn va n)) (2 ^ 32 - 1))
          ∧ Clean s t q c ∧ (t.dev.bay c.bay).maps = (s.dev.bay c.bay).maps.flatMap fun m => m.without va n)

/-- A peer's request is served from this module's memory under the object's export and answered; in HOLD it waits. The owner's answer brings the bytes
of an object that this module maps, or their error (14 R414 to R416; 15 R446). -/
def Obligations.PeerMemory : Prop :=
  ∀ (s : State) (h : FrameHdr) (tag op bay obj key off len data : Nat) (d1 : Dev),
    (s.dev.accept h 1 = (d1, true) →
      (s.dev.held = true → Does (.peerRequestRx h tag op bay obj key off len data) s fun t => t.dev.hbm = s.dev.hbm ∧ t.dev.objs = s.dev.objs
        ∧ t.dev.fab.heldReqs = s.dev.fab.heldReqs ++ [{ src := h.src, tag := tag, op := op, bay := bay, obj := obj, key := key, off := off, len := len, data := data }])
      ∧ (∀ o, s.dev.held = false → s.dev.obj? bay obj = some o →
        let answered (t : State) (words : List Nat) : Prop := ∃ f ∈ t.dev.fab.frames, f.dst = h.src ∧ f.vc = 2 ∧ f.kind = fkPeerResp ∧ f.words = tag :: words
        let pieces := cutPieces [{ va := 0, bytes := o.size, objBay := o.bay, objId := o.id, off := 0, write := true, prefetch := false, small := o.small }]
          (len / 0x10000 + 2) off len
        (o.exportMode = 0 ∨ o.key ≠ key ∨ (op = 1 ∧ o.exportMode ≠ 2) →
          Does (.peerRequestRx h tag op bay obj key off len data) s fun t => answered t [stNoPerm] ∧ t.dev.hbm = s.dev.hbm ∧ t.dev.objs = s.dev.objs)
        ∧ (o.exportMode ≠ 0 → o.key = key → off + len ≤ o.size →
          (∀ bs, op = 0 → readPieces s.dev pieces = (bs, none) →
            Does (.peerRequestRx h tag op bay obj key off len data) s fun t => answered t [stOk, ofLe bs] ∧ t.dev.hbm = s.dev.hbm ∧ t.dev.objs = s.dev.objs)
          ∧ (∀ p, op = 1 → o.exportMode = 2 → pieces = [some p] → s.dev.objShut p.objBay p.objId p.off p.len = false → s.dev.pieceCut p = false →
            Does (.peerRequestRx h tag op bay obj key off len data) s fun t => answered t [stOk]
              ∧ t.dev.hbm = (s.dev.writePiece p ((toLe len data).take p.len)).hbm)
          ∧ (op = 2 → Does (.peerRequestRx h tag op bay obj key off len data) s fun t =>
            answered t [stOk, o.size, if o.small = true then 1 else 0, o.exportMode, o.key]
            ∧ ∃ x, t.dev.obj? bay obj = some x ∧ (x.peers.find? fun e => e.1 == h.src)
                = some (h.src, ((o.peers.find? fun e => e.1 == h.src).map (·.2)).getD 0 + len)))))
    ∧ (s.dev.accept h 2 = (d1, true) →
      let k := peerKey h.src obj off
      Does (.peerResponseRx h obj off len data false) s (fun t => t.dev.peerMem = writeBytes s.dev.peerMem k (toLe len data) ∧ t.dev.hbm = s.dev.hbm)
      ∧ (1 ≤ len → Does (.peerResponseRx h obj off len data true) s fun t => t.dev.peerMem = s.dev.peerMem
        ∧ ∀ g, k / 64 ≤ g → g ≤ (k + len - 1) / 64 → smFind t.dev.peerBad g = some ()))

/-- SET gives a bay its ranges, grant, weight, limits and quotas, where they fit; RESET leaves the bay without queues, sequences, sheaves, objects,
handles and event counters, its Loft bytes zero, once nothing of it runs; GRANT_BASE maps a sheaf's region read-only into the bay and takes a pin,
REVOKE_BASE gives it back (13 R384 to R386; 06 R165). -/
def Obligations.BayCommands : Prop :=
  ∀ (s : State) (q : Nat) (c : Cmd) (x : Sq), s.dev.bays.length = 16 → Runs s q 0xA0 c → smFind s.dev.sqs q = some x →
    let b := c.bits 17 0 4
    (∀ d2, c.bits 16 0 2 = 0 → c.bayOnly 0 = true → s.dev.setOk c.baySet = true → s.dev.setFits c.baySet = true →
      (s.dev.rbit .bayId b 4 = true → c.baySet.enable = true) →
      (c.baySet.grant = s.dev.rd .pfstatGrant b ∨ ((s.dev.runningIn b).any fun y => y.order != c.order) = false) →
      s.dev.setQuotas c.order c.baySet = some d2 →
      Does (.bayConfig q) s fun t => Ended s t q c stOk 0 ∧ t.dev.rbit .bayId b 4 = bitAt c.pkt 144 ∧ t.dev.rbit .bayId b 5 = bitAt c.pkt 145
        ∧ t.dev.rbit .bayId b 6 = bitAt c.pkt 146 ∧ t.dev.rd .bayWeight b = c.at 19 1 ∧ t.dev.rd .baySqBase b = c.at 20 4 ∧ t.dev.rd .baySqCount b = c.at 24 4
        ∧ t.dev.rd .bayCqBase b = c.at 28 4 ∧ t.dev.rd .bayCqCount b = c.at 32 4 ∧ t.dev.rd .bayServeLimit b = c.at 40 4
        ∧ t.dev.rd .bayPrefixLimit b = c.at 44 4 ∧ t.dev.rd .pfstatGrant b = c.baySet.grant
        ∧ (∀ e ∈ quotaRegs.zip c.baySet.quotas, t.dev.rd e.1 b = e.2) ∧ t.dev.objs = d2.objs)
    ∧ (c.bits 16 0 2 = 1 → c.bayOnly 1 = true → b ≠ 0 → x.bay ≠ b → (∀ k, smFind s.dev.cqs x.cq = some k → k.bay ≠ b) →
      let d1 := s.dev.resetBegin b
      (d1.resetReady b c.order = false → Does (.bayReset q) s fun t => (t.dev.bay b).resetting = true)
      ∧ (d1.resetReady b c.order = true →
        Does (.bayReset q) s fun t => Ended s t q c stOk 0 ∧ (t.dev.bay b).resetting = false ∧ (t.dev.bay b).seqs = [] ∧ (t.dev.bay b).sheaves = []
          ∧ (t.dev.bay b).handles = [] ∧ (t.dev.bay b).counters = [] ∧ (t.dev.bay b).stats = none ∧ (∀ e ∈ t.dev.sqs, e.2.bay ≠ b)
          ∧ (∀ e ∈ t.dev.cqs, e.2.bay ≠ b) ∧ (∀ o ∈ t.dev.objs, o.bay ≠ b) ∧ t.dev.rbit .bayAdminCtrl b 0 = false ∧ t.dev.rbit .bayEvqCtrl b 0 = false
          ∧ ∀ a, (∃ r ∈ grantRanges (s.dev.rd .pfstatGrant b), r.1 ≤ a ∧ a < r.1 + r.2) → smGet 0 t.dev.loft a = 0))
    ∧ (∀ y, s.dev.sheaf? 0 (c.at 80 4) = some y →
      (c.bits 16 0 2 = 2 → c.bayOnly 2 = true → y.delta = false → 2 ≤ y.st → y.st ≤ 4 → y.pins < 0xFFFFFFFF →
        ((s.dev.bay b).maps.any fun m => overlap m.va m.bytes y.regionVa y.regionBytes) = false →
        Does (.grantBase q) s fun t => Ended s t q c stOk 0 ∧ t.dev.baseGrants = s.dev.baseGrants ++ [(y.id, b)]
          ∧ (t.dev.bay b).maps = (s.dev.bay b).maps ++ (s.dev.bay 0).maps.filterMap (fun m => m.cut y.regionVa y.regionBytes)
          ∧ (y.regionVa, y.regionBytes) ∈ (t.dev.bay b).ro ∧ t.dev.sheaf? 0 (c.at 80 4) = some { y with pins := y.pins + 1 } ∧ t.dev.hbm = s.dev.hbm)
      ∧ (c.bits 16 0 2 = 3 → c.bayOnly 3 = true → s.dev.baseGrants.contains (c.at 80 4, b) = true →
        ((s.dev.bay b).sheaves.any fun z => z.delta && z.baseBay == 0 && z.base == c.at 80 4) = false →
        Does (.revokeBase q) s fun t => Ended s t q c stOk 0 ∧ t.dev.baseGrants.contains (c.at 80 4, b) = false
          ∧ (y.st ≠ 4 → t.dev.sheaf? 0 (c.at 80 4) = some { y with pins := y.pins - 1 }) ∧ t.dev.hbm = s.dev.hbm))

/-- Functions of the host: a Function Level Reset, and VF Enable cleared, reset the bays of the functions, and the handshake waits for what still runs in
them; a function in D3hot answers nothing; the size of BAR4 is the one written (16 R454, R458). -/
def Obligations.FunctionsOfTheHost : Prop :=
  ∀ s : State, s.dev.bays.length = 16 →
    (∀ b, 1 ≤ b → b < 16 → s.dev.linkUp = true → s.dev.host.vfOff = false → (∀ y, y < 16 → (s.dev.bay y).resetting = false) → (s.dev.resetBegin b).configResets b = false →
      ((s.dev.resetBegin b).resetReady b (2 ^ 64) = false →
        Does (.vfFlr b) s fun t => (t.dev.bay b).resetting = true ∧ t.dev.host.flr.contains b = true)
      ∧ ((s.dev.resetBegin b).resetReady b (2 ^ 64) = true →
        Does (.vfFlr b) s fun t => (t.dev.bay b).resetting = false ∧ t.dev.host.flr.contains b = false ∧ (∀ e ∈ t.dev.sqs, e.2.bay ≠ b)
          ∧ (∀ o ∈ t.dev.objs, o.bay ≠ b)))
    ∧ (s.dev.linkUp = true → Does .vfDisable s fun t =>
        (∀ b, 1 ≤ b → b < 16 → (t.dev.bay b).resetting = true ∨ ∀ e ∈ t.dev.sqs, e.2.bay ≠ b)
        ∧ (t.dev.host.flr.contains 16 = true ∨ ∀ b, 1 ≤ b → b < 16 → (t.dev.bay b).resetting = false)
        ∧ (∀ fn, 1 ≤ fn → t.dev.answers fn = false))
    ∧ (∀ fn on, fn < 16 → Does (.d3hotTransition fn on) s fun t => t.dev.host.d3.contains fn = on
        ∧ t.dev.answers fn = (!on && s.dev.functionThere fn) ∧ (∀ n, n ≠ fn → t.dev.answers n = s.dev.answers n)
        ∧ (∀ n, n ≠ fn → t.dev.host.d3.contains n = s.dev.host.d3.contains n) ∧ t = { s with dev := { s.dev with host := t.dev.host } })
    ∧ (∀ n, 30 ≤ n → n ≤ 41 → Does (.resizableBarWrite n) s fun t => t.dev.fd .hostifBar4Size 0 0 6 = n
        ∧ t = { s with dev := { s.dev with regs := t.dev.regs } } ∧ RegsKept s t [(.hostifBar4Size, 0)])

/-- SET sets the clock and power limits and APEX_EN, within the variant record, and answers with the clock limit; SARKING_ENTER ends all work and the Loft's
contents; SARKING_EXIT leaves Sarking mode where every cause allows it, with the Loft zero, the array JOINED, or SPLIT before OPEN, and the clock at its limit
(00 R3; 18 R515, R518, R519; 04 R114). -/
def Obligations.LimitCommands : Prop :=
  ∀ (s : State) (q : Nat) (c : Cmd), Runs s q 0x82 c → c.nan = false → c.contribs = [] → s.dev.collIn = [] → (∀ y ∈ s.dev.runningAll, y.sq = q → y = c) →
    (let clock := if c.at 20 2 = 0 then s.lim.recClock else c.at 20 2
     let power := if c.at 22 2 = 0 then s.lim.recPower else c.at 22 2
     c.bits 16 0 2 = 0 → c.only 1 [(16, 0, 3), (20, 0, 32)] = true → clock % 50 = 0 → 500 ≤ clock → clock ≤ s.lim.recClock → 1600 ≤ power →
      power ≤ s.lim.recPower →
      Does (.setLimits q) s fun t => Ended s t q c stOk clock ∧ t.lim = { s.lim with clockLimit := clock, powerLimit := power }
        ∧ t.dev.rbit .powerLimit 0 16 = (c.bits 16 2 1 == 1) ∧ t.dev.hbm = s.dev.hbm)
    ∧ (c.bits 16 0 2 = 1 → c.only 1 [(16, 0, 2)] = true → s.dev.sarking = false →
      Does (.sarkingEnter q) s fun t => Ended s t q c stOk s.lim.clockLimit ∧ t.lim = s.lim ∧ t.dev.sarking = true ∧ t.dev.rbit .powerSts 0 11 = true
        ∧ t.dev.kernels = [] ∧ t.dev.copies = [] ∧ t.dev.steps = [] ∧ t.dev.loft = [] ∧ t.dev.bar4 = [])
    ∧ (c.bits 16 0 2 = 2 → c.only 1 [(16, 0, 2)] = true → s.dev.sarking = true → s.dev.exitAllowed = true →
      Does (.sarkingExit q) s fun t => Ended s t q c stOk s.lim.clockLimit ∧ t.lim = { s.lim with clock := s.lim.clockLimit } ∧ t.dev.powerState = 0
        ∧ t.dev.loft = [] ∧ t.dev.pow.credit = s.lim.capacity ∧ t.dev.fd .thatchArraySts 0 0 2 = if s.dev.ready = true then 1 else 2)
    ∧ (c.bits 16 0 2 = 2 → c.only 1 [(16, 0, 2)] = true → s.dev.sarking = true → s.dev.exitAllowed = false →
      Does (.sarkingExit q) s fun t => Ended s t q c stBusy s.lim.clockLimit ∧ t.lim = s.lim ∧ t.dev.powerState = s.dev.powerState)

/-- The supply: below 46 V power hold begins and is counted; above 47.5 V the resume count starts, and after 2 ms of it the engines resume; after 500 ms power
hold turns into Sarking mode with its cause. Below 42 V PGOOD falls and the dies reset; above 60 V, as with PWR_EN low, the contents are lost too
(18 R508 to R510, R518; 16 R479). -/
def Obligations.SupplyFallsAndResumes : Prop :=
  ∀ (s : State) (mv : Nat),
    (s.dev.powerState = 0 → s.dev.pgood = true → mv < 46000 →
      Does (.powerHoldEnter mv) s fun t => t.dev.powerHold = true ∧ t.dev.rd .powerHolds 0 = min (s.dev.rd .powerHolds 0 + 1) (2 ^ 32 - 1)
        ∧ t.dev.pow = { s.dev.pow with holdAt := s.dev.now, resumeAt := none } ∧ t.dev.hbm = s.dev.hbm ∧ t.dev.sqs = s.dev.sqs ∧ t.lim = s.lim)
    ∧ (s.dev.powerHold = true → 47500 < mv →
      Does (.supplyRelease mv) s fun t => t = { s with dev := { s.dev with pow := { s.dev.pow with resumeAt := some s.dev.now } } })
    ∧ (s.dev.powerHold = true → s.dev.resumeDue = true → s.dev.bar4 = [] → s.dev.collIn = [] →
      (∀ r, r = Instr.powerHoldResume ∨ (r = .powerHoldTimeout ∧ s.dev.pow.holdAt + 500000000 ≤ s.dev.now) →
        Does r s fun t => t.dev.powerState = 0 ∧ t.dev.rd .powerHoldLastUs 0 = min ((s.dev.now - s.dev.pow.holdAt) / 1000) 0xFFFFFFFF
          ∧ t.dev.pow.resumeAt = none ∧ t.dev.hbm = s.dev.hbm ∧ t.dev.sqs = s.dev.sqs))
    ∧ (s.dev.powerHold = true → s.dev.resumeDue = false → s.dev.pow.holdAt + 500000000 ≤ s.dev.now →
      Does .powerHoldTimeout s fun t => t.dev.sarking = true ∧ t.dev.rbit .powerSts 0 8 = true ∧ t.dev.kernels = [] ∧ t.dev.loft = [])
    ∧ (mv < 42000 → s.dev.pgood = true →
      Does (.supplyReset mv) s fun t => t.dev.pgood = false ∧ t.lim = {} ∧ t.dev.hbm = [] ∧ t.dev.loft = [] ∧ t.dev.sqs = [] ∧ t.dev.objs = []
        ∧ t.dev.hostMem = s.dev.hostMem ∧ (∀ x ∈ t.dev.ulSets, x ∈ s.dev.ulSets ∧ x.st = 2))
    ∧ (∀ r, (r = Instr.supplyOvervoltage mv ∧ 60000 < mv) ∨ r = .pwrEnLow →
      Does r s fun t => t.dev.pgood = false ∧ t.lim = {} ∧ t.dev.hbm = [] ∧ t.dev.loft = [] ∧ t.dev.sqs = [] ∧ t.dev.objs = [] ∧ t.dev.ulSets = []
        ∧ t.dev.hostMem = s.dev.hostMem ∧ (r = .pwrEnLow → t.dev.rbit .hostifSideband 0 0 = false))

/-- The governor (18 R511, R512). A sample is shown and accounted: input energy, the thermal credit and the samples above H in the trailing 100 ms. Where
power exceeds the ceiling (the current limit, or the apex ceiling), or the clock its limit, the clock goes down a step of 50 MHz, never below 500 MHz, where
arithmetic issue is withheld instead; else it stays. Once power has been below 98 % of the ceiling for 100 µs it is raised a step, up to its limit. The used
electrical window and the exhausted thermal credit are shown, the latter with its event. Nothing else changes. -/
def Obligations.GovernorMovesTheClock : Prop :=
  ∀ (s : State) (mv da w : Nat), s.dev.governs = true →
    (mv < 2 ^ 16 → da < 2 ^ 16 → w < 2 ^ 16 →
      Does (.governorSample mv da w) s fun t => t.dev.rd .powerVin 0 = mv ∧ t.dev.rd .powerIin 0 = da ∧ t.dev.rd .powerPin 0 = w
        ∧ t.dev.rbit .powerSts 0 3 = decide (s.thermNum < w * s.lim.recPower)
        ∧ t.dev.pow.energy = s.dev.pow.energy + 10 * w
        ∧ t.dev.pow.credit = (if s.lim.powerLimit < w then s.dev.pow.credit - 20 * s.lim.recPower * (w - s.lim.powerLimit)
            else min s.lim.capacity (s.dev.pow.credit + 5 * (s.lim.powerLimit * s.lim.recTherm - s.lim.powerLimit * s.lim.recPower)))
        ∧ t.dev.pow.elec = (s.dev.pow.elec.filter fun x => decide (s.dev.now < x + 100000000))
            ++ (if s.thermNum < w * s.lim.recPower then [s.dev.now] else [])
        ∧ (let above := ({ t with lim := s.lim } : State).above mv w 100
           (120 * mv < 1000 * w → above = true)
           ∧ t.lim = { s.lim with clock := if s.dev.sarking = false ∧ (above = true ∨ s.lim.clockLimit < s.lim.clock) ∧ 550 ≤ s.lim.clock then s.lim.clock - 50
                                           else s.lim.clock }
           ∧ (s.dev.sarking = false → above = true → s.lim.clock < 550 → t.dev.pow.withheld = true))
        ∧ t = { s with lim := t.lim, dev := { s.dev with regs := t.dev.regs, pow := t.dev.pow } }
        ∧ RegsKept s t [(.powerVin, 0), (.powerIin, 0), (.powerPin, 0), (.powerSts, 0)])
    ∧ (∀ since, s.dev.sarking = false → s.dev.pow.belowSince = some since → since + 100000 ≤ s.dev.now → s.dev.pow.steps = 0 →
      s.lim.clock < s.lim.clockLimit →
      Does .governorRaise s fun t => t = { s with lim := { s.lim with clock := min s.lim.clockLimit (s.lim.clock + 50) }
                                                  dev := { s.dev with pow := { s.dev.pow with belowSince := some s.dev.now } } })
    ∧ (∀ since, s.dev.pow.belowSince = some since → s.dev.now < since + 100000 → Does .governorRaise s fun t => t = s)
    ∧ (2000 ≤ (s.dev.pow.elec.filter fun x => decide (s.dev.now < x + 100000000)).length →
      Does .elecWindowUsed s fun t => t = { s with dev := { s.dev with pow := { s.dev.pow with elecUsed := true } } })
    ∧ (s.dev.pow.credit = 0 → s.lim.capacity ≠ 0 → s.dev.rbit .powerSts 0 4 = false →
      Does .apexExhausted s fun t => t.dev.rbit .powerSts 0 4 = true
        ∧ t.dev.rd .powerExhausted 0 = min (s.dev.rd .powerExhausted 0 + 1) (2 ^ 32 - 1)
        ∧ t = { s with dev := { s.dev with regs := t.dev.regs, hostMem := t.dev.hostMem, bays := t.dev.bays } })

/-- Heat: a sample is shown; from 95 °C at a junction or 90 °C at a stack the module throttles a step for each sample, from 105 °C or 100 °C it trips, and so it
does when the inlet has been above 45 °C for 10 s; a trip is Sarking mode with its cause, and it is cleared once every sensor has cooled (18 R513, R514,
R518; the order of throttling and its end is log 60). -/
def Obligations.HeatThrottlesAndTrips : Prop :=
  ∀ (s : State),
    (∀ j k n sensor, s.dev.governs = true → j < 256 → k < 256 → n < 256 →
      (j < 210 → k < 200 → s.dev.sarking = false → 190 ≤ j ∨ 180 ≤ k → 550 ≤ s.lim.clock →
        Does (.thermalSample j k n sensor) s fun t => t.lim = { s.lim with clock := s.lim.clock - 50 } ∧ t.dev.rbit .powerSts 0 2 = true
          ∧ t.dev.fd .powerTemp 0 0 8 = j ∧ t.dev.fd .powerTemp 0 8 8 = k ∧ t.dev.fd .powerTemp 0 16 8 = n ∧ t.dev.pow.steps = s.dev.pow.steps + 1
          ∧ t.dev.pow.inletSince = (if 90 < n then some (s.dev.pow.inletSince.getD s.dev.now) else none)
          ∧ t.dev.hbm = s.dev.hbm ∧ (190 ≤ j → t.dev.rbit .hostifSideband 0 3 = false))
      ∧ (j < 186 → k < 176 → s.dev.sarking = false → s.dev.pow.steps = 0 →
        Does (.thermalSample j k n sensor) s fun t => t.lim = s.lim ∧ t.dev.rbit .powerSts 0 2 = false ∧ t.dev.fd .powerTemp 0 0 8 = j
          ∧ t.dev.pow.inletSince = (if 90 < n then some (s.dev.pow.inletSince.getD s.dev.now) else none) ∧ t.dev.hbm = s.dev.hbm)
      ∧ (210 ≤ j ∨ 200 ≤ k → Does (.thermalSample j k n sensor) s fun t => t.dev.sarking = true ∧ t.dev.rbit .powerSts 0 9 = true ∧ t.dev.pow.tripped = true
          ∧ t.dev.rbit .hostifSideband 0 3 = false))
    ∧ (∀ since, s.dev.governs = true → s.dev.pow.inletSince = some since → since + 10000000000 ≤ s.dev.now →
      Does .inletTripTimer s fun t => t.dev.sarking = true ∧ t.dev.rbit .powerSts 0 9 = true ∧ t.dev.pow.tripped = true)
    ∧ (∀ v, HostUp s [0] → bitAt v 0 = true → s.dev.fd .powerTemp 0 0 8 < 170 → s.dev.fd .powerTemp 0 8 8 < 160 → s.dev.fd .powerTemp 0 16 8 ≤ 80 →
      Does (.tripClear v) s fun t => t.dev.pow = { s.dev.pow with tripped := false } ∧ t.dev.rbit .hostifSideband 0 3 = true
        ∧ t = { s with dev := { s.dev with regs := t.dev.regs, pow := t.dev.pow } })

/-- Ports and connections (15 R423, R424, R426, R429, R437 to R439, R451): a port that trained is UP on its lanes with the round trip measured; without flits
for 1 µs, with fewer than four lanes or after sixteen replays it is DOWN; RETRAIN takes it down and trains it; a flit in sequence with a right CRC advances
the link, one with a wrong CRC does not; DISCOVER is sent again until the partner's has come. A connection goes from FREE to INIT to RTS and back; a
congestion notification lowers its rate; FASCIA's Ethernet link is up only where it is enabled and ETHERNET has run. -/
def Obligations.PortsAndConnections : Prop :=
  ∀ (s : State) (p : Nat), p < 18 →
    let x := s.dev.rport p
    let st := s.dev.portState p
    let lanes := popCount 8 x.lock
    (∀ rtt, st ≤ 1 → s.dev.rbit .reedlinePortCtrl p 0 = true → s.dev.fabricStarted = true → 4 ≤ lanes →
      Does (.portUp p rtt) s fun t => t.dev.portState p = 2 ∧ t.dev.fd .reedlinePortSts p 2 4 = lanes ∧ t.dev.rd .reedlinePortRtt p = min rtt 0xFFFF
        ∧ (t.dev.rport p).discAt = s.dev.now ∧ (t.dev.rport p).lock = x.lock ∧ t.dev.hbm = s.dev.hbm)
    ∧ (st = 2 ∨ st = 3 → x.lastFlit + 1000 ≤ s.dev.now ∨ lanes < 4 ∨ 16 ≤ x.fails →
      Does (.portDown p) s fun t => t.dev.portState p = 0 ∧ t.dev.rd .reedlinePortPartner p = 0 ∧ (t.dev.rport p).lock = x.lock
        ∧ t.dev.rd .reedlinePortDowns p = min (s.dev.rd .reedlinePortDowns p + 1) (2 ^ 32 - 1)
        ∧ t = { s with dev := { s.dev with regs := t.dev.regs, fab := t.dev.fab } })
    ∧ (∀ v, HostUp s [0] → bitAt v 1 = true →
      Does (.portRetrain p v) s fun t => t.dev.portState p = (if bitAt v 0 = true ∧ s.dev.fabricStarted = true then 1 else 0)
        ∧ t.dev.rbit .reedlinePortCtrl p 0 = bitAt v 0 ∧ t = { s with dev := { s.dev with regs := t.dev.regs, fab := t.dev.fab } })
    ∧ (∀ lane lock, lane < 8 →
      let m := setFld x.lock lane 1 (if lock = true then 1 else 0)
      Does (.laneBlockLock p lane lock) s fun t => (t.dev.rport p).lock = m
        ∧ (if 2 ≤ st ∧ popCount 8 m < 4 then t.dev.portState p = 0 else t.dev.portState p = st ∧ t.dev.fd .reedlinePortSts p 2 4 = popCount 8 m))
    ∧ (∀ flit corr uncorr nack, st = 2 ∨ st = 3 →
      let seq := fld flit 4 12
      Does (.flitRx p flit corr uncorr nack) s fun t => (t.dev.rport p).lastFlit = s.dev.now ∧ t.dev.portState p = st
        ∧ t.dev.rd .reedlinePortFecCorr p = (s.dev.rd .reedlinePortFecCorr p + corr) % 2 ^ 64
        ∧ t.dev.rd .reedlinePortFecUncorr p = (s.dev.rd .reedlinePortFecUncorr p + uncorr) % 2 ^ 64
        ∧ (crc64 (toLe 248 flit) = bytesAt flit 248 8 → seq = x.rxSeq → (t.dev.rport p).rxSeq = (seq + 1) % 4096)
        ∧ (crc64 (toLe 248 flit) ≠ bytesAt flit 248 8 ∨ seq ≠ x.rxSeq → (t.dev.rport p).rxSeq = x.rxSeq ∧ (t.dev.rport p).unacked = x.unacked))
    ∧ (st = 2 → x.disc = none → x.discAt + 10000 ≤ s.dev.now →
      Does (.discoverResend p) s fun t => (t.dev.rport p).discAt = s.dev.now ∧ t.dev.portState p = 2 ∧ t.dev.hbm = s.dev.hbm)
    ∧ (∀ v, HostUp s [0] →
      let c := s.dev.conn s.dev.connSel
      (fld v 0 2 = 1 → c.st = 0 → Does (.connAlloc v) s fun t => (∃ n, t.dev.conn s.dev.connSel = { st := 1, lqpn := n } ∧ n < 2 ^ 24)
          ∧ t = { s with dev := { s.dev with regs := t.dev.regs, fab := t.dev.fab, free := t.dev.free } })
      ∧ (fld v 0 2 = 2 → c.st = 1 → Does (.connConnect v) s fun t => t.dev.conn s.dev.connSel = { c with st := 2 }
          ∧ t = { s with dev := { s.dev with regs := t.dev.regs, fab := t.dev.fab } })
      ∧ (fld v 0 2 = 3 → s.dev.chains = [] → Does (.connDestroy v) s fun t => t.dev.conn s.dev.connSel = {}
          ∧ t = { s with dev := { s.dev with regs := t.dev.regs, fab := t.dev.fab } }))
    ∧ (∀ e c psn, e < 4 → s.dev.rbit .ethPortSts e 0 = true →
      (Does (.rocePacketRx e c psn false) s fun t => t = { s with dev := { s.dev with sent := s.dev.sent ++ [⟨.ethernet, 2, [e, psn]⟩], regs := t.dev.regs, free := t.dev.free } }
          ∧ RegsKept s t [(.ethPortTxBytes, e)])
      ∧ ((s.dev.conn c).st = 2 → Does (.rocePacketRx e c psn true) s fun t => t.dev.conn c = { s.dev.conn c with cuts := (s.dev.conn c).cuts + 1 }
          ∧ t = { s with dev := { s.dev with regs := t.dev.regs, fab := t.dev.fab } } ∧ RegsKept s t [(.ethPortCnpRx, e)]))
    ∧ (∀ e, e < 4 → (Does (.ethLinkChange e false) s fun t => t.dev.rbit .ethPortSts e 0 = false)
      ∧ (s.dev.rbit .ethPortCtrl e 0 = true → (s.dev.rbit .bringStepRun 0 10 || s.dev.stepDone 10) = true → Does (.ethLinkChange e true) s fun t => t.dev.rbit .ethPortSts e 0 = true
        ∧ t = { s with dev := { s.dev with regs := t.dev.regs } } ∧ RegsKept s t [(.ethPortSts, e)]))

/-- Peers and routes (15 R429 to R431, R434, R435): a DISCOVER that passes makes its link's module LIVE, one that fails refuses the link with its reason;
heartbeats leave every 10 µs and keep a peer LIVE; a peer unheard for 30 µs, or named by a notice of its INCARNATION, is LOST and its mappings answer no
more; bay 0 adds and removes peers and writes routes. -/
def Obligations.PeersAndRoutes : Prop :=
  ∀ s : State,
    (∀ p f via, p < 18 → (s.dev.portState p = 2 ∨ s.dev.portState p = 3) → fld f 0 8 = 1 →
      (∀ r, s.dev.refusal f = some r → Does (.discoverRx p f via) s fun t => t.dev.portState p = 3 ∧ t.dev.fd .reedlinePortSts p 6 2 = r
        ∧ t.dev.fd .reedlinePortPartner p 0 15 = fld f 48 15 ∧ t.dev.fab.peers = s.dev.fab.peers)
      ∧ (s.dev.refusal f = none → via = false → s.dev.peer? (fld f 48 15) = none → s.dev.fab.peers.length < 1024 →
        Does (.discoverRx p f via) s fun t => t.dev.portState p = 2 ∧ t.dev.fd .reedlinePortPartner p 0 15 = fld f 48 15
          ∧ ∃ x, t.dev.peer? (fld f 48 15) = some x ∧ x.st = 1 ∧ x.direct = true ∧ x.inc = fld f 96 32 ∧ x.serial = fld f 128 64 ∧ x.level = fld f 16 16
            ∧ x.floor = fld f 32 16 ∧ x.domain = fld f 64 10 ∧ x.lastRx = s.dev.now))
    ∧ (s.dev.fabricStarted = true → s.dev.fab.hbAt + 10000 ≤ s.dev.now →
      Does .heartbeatTimer s fun t => t.dev.fab.hbAt = s.dev.now ∧ t.dev.fab.peers = s.dev.fab.peers ∧ t.dev.hbm = s.dev.hbm)
    ∧ (∀ p f x, s.dev.portUp? p = true → fld f 0 8 = 2 → s.dev.peer? (fld f 48 15) = some x → x.st = 1 → x.inc = fld f 96 32 → s.dev.refusal f = none →
      Does (.heartbeatRx p f) s fun t => ∃ y, t.dev.peer? (fld f 48 15) = some y ∧ y.st = 1 ∧ y.lastRx = s.dev.now ∧ y.level = fld f 16 16
        ∧ y.floor = fld f 32 16 ∧ y.hops = fld f 192 8)
    ∧ (∀ dev x, s.dev.peer? dev = some x → x.st = 1 →
      let lost (t : State) : Prop := (∃ y, t.dev.peer? dev = some y ∧ y.st = 2) ∧ (∀ b m, m ∈ (t.dev.bay b).maps → m.peer = some dev → m.lost = true)
        ∧ t.dev.rd .reedlineLost 0 = min (s.dev.rd .reedlineLost 0 + 1) (2 ^ 32 - 1)
      (x.lastRx + 30000 ≤ s.dev.now → Does (.peerLossTimeout dev) s lost)
      ∧ ∀ h d1, s.dev.accept h 0 = (d1, true) → Does (.lossNoticeRx h dev x.inc) s lost)
    ∧ (∀ v, HostUp s [0] →
      let dev := fld v 0 15
      (fld v 16 2 = 1 → s.dev.peer? dev = none → dev ≠ s.dev.self → s.dev.fab.peers.length < 1024 →
        (∀ e ∈ s.dev.fab.ports, ∀ f, e.2.disc = some f → fld f 48 15 ≠ dev) →
        Does (.peerAdd v) s fun t => t.dev.fab.peers = s.dev.fab.peers ++ [{ dev := dev }])
      ∧ (∀ x, fld v 16 2 = 2 → s.dev.peer? dev = some x → Does (.peerRemove v) s fun t => t.dev.peer? dev = none
          ∧ ∀ y, y ≠ dev → t.dev.peer? y = s.dev.peer? y)
      ∧ ((∀ p ∈ entryPorts v, p < 18 ∨ p = 31) → Does (.routeWrite v) s fun t =>
          t.dev.routeEntry (s.dev.fd .reedlineRouteSel 0 0 15) = Nat.land v 0x1F1F1F1F
          ∧ ∀ y, y ≠ s.dev.fd .reedlineRouteSel 0 0 15 → t.dev.routeEntry y = s.dev.routeEntry y))

/-- Frames and time (15 R427, R433, R440 to R443): an acknowledgement ends a frame; after 50 µs a frame is sent again, and fails after the fourth sending; the
requests for time leave every 125 µs and are answered; an answer gives the offset θ, and a step of time before VALID or a slew after it; without one for
1 ms the follower is in HOLDOVER; the master's time is set before READY, and a PPS edge is recorded and followed. -/
def Obligations.FramesAndTime : Prop :=
  ∀ s : State,
    (∀ h vc seq, s.dev.portUp? h.port = true → s.dev.ulSets = [] → Does (.e2eAckRx h vc seq) s fun t =>
      t.dev.fab.frames = s.dev.fab.frames.filter fun f => !(f.dst == h.src && f.vc == vc && f.seq == seq))
    ∧ (∀ f, (s.dev.fab.frames.find? fun g => g.dst == f.dst && g.vc == f.vc && g.seq == f.seq) = some f → f.sentAt + 50000 ≤ s.dev.now →
      s.dev.vcOpen f.vc = true → f.waiting = false → f.kind ≠ 18 →
      (4 ≤ f.sends → f.cmd = none → Does (.frameResendTimeout f.dst f.vc f.seq) s fun t =>
        t.dev.fab.frames = s.dev.fab.frames.filter (fun g => !(g.dst == f.dst && g.vc == f.vc && g.seq == f.seq)) ∧ t.dev.parts = s.dev.parts)
      ∧ (f.sends < 4 → s.dev.routePort f.dst = none → Does (.frameResendTimeout f.dst f.vc f.seq) s fun t =>
        { f with waiting := true, sentAt := s.dev.now } ∈ t.dev.fab.frames ∧ t.dev.parts = s.dev.parts))
    ∧ (∀ t1, s.dev.rbit .purlinCtrl 0 0 = false → s.dev.portUp? (s.dev.fd .purlinCtrl 0 4 5) = true →
      (s.dev.fab.time.t1 = none ∨ s.dev.fab.time.reqAt + 125000 ≤ s.dev.now) →
      Does (.timeReqTimer t1) s fun t => t.dev.fab.time = { s.dev.fab.time with reqAt := s.dev.now, t1 := some (t1 : Int) } ∧ t.dev.now = s.dev.now)
    ∧ (∀ h t2 t3 corr, s.dev.portUp? h.port = true → (s.dev.rport h.port).queue = [] → 1 ≤ smGet 0 (s.dev.rport h.port).credits 0 →
      Does (.timeReqRx h t2 t3 corr) s fun t => t.dev.sent = s.dev.sent ++ [⟨.reedline, fkTimeResp, [h.port, 0, t2, t3, unsigned 64 corr]⟩]
        ∧ t.dev.now = s.dev.now ∧ t.dev.fab.time = s.dev.fab.time)
    ∧ (∀ (h : FrameHdr) (t1 : Int) (t2 t3 t4 : Nat) (cReq cResp : Int), s.dev.fab.time.t1 = some t1 → s.dev.rbit .purlinCtrl 0 0 = false → h.port = s.dev.fd .purlinCtrl 0 4 5 →
      s.dev.portUp? h.port = true →
      let th := theta t1 t2 t3 t4 cReq cResp (signed 16 (s.dev.rd .reedlinePortAsym h.port))
      Does (.timeRespRx h t2 t3 t4 cReq cResp) s fun t => t.dev.rd .purlinOffset 0 = unsigned 32 th ∧ t.dev.fab.time.okAt = s.dev.now
        ∧ (s.dev.rbit .purlinSts 0 2 = true → t.dev.now = s.dev.now ∧ t.dev.fab.time.slew = th ∧ t.dev.rbit .purlinSts 0 2 = true)
        ∧ (s.dev.rbit .purlinSts 0 2 = false → s.dev.fab.time.close < 7 → s.dev.fd .purlinSts 0 0 2 ≠ 2 → th ≠ 0 →
            t.dev.now = ((16 * (s.dev.now : Int) + th) / 16 / 4 * 4).toNat ∧ t.dev.fd .purlinSts 0 0 2 = 1
            ∧ t.dev.rd .purlinSteps 0 = min (s.dev.rd .purlinSteps 0 + 1) (2 ^ 32 - 1)))
    ∧ (s.dev.rbit .purlinCtrl 0 0 = false → s.dev.fd .purlinSts 0 0 2 = 1 ∨ s.dev.fd .purlinSts 0 0 2 = 2 → s.dev.fab.time.okAt + 1000000 ≤ s.dev.now →
      Does .purlinHoldover s fun t => t.dev.fd .purlinSts 0 0 2 = 3 ∧ t.dev.fab.time = { s.dev.fab.time with close := 0 }
        ∧ t = { s with dev := { s.dev with regs := t.dev.regs, fab := t.dev.fab } } ∧ RegsKept s t [(.purlinSts, 0)])
    ∧ (∀ v, HostUp s [0] → s.dev.rbit .purlinCtrl 0 0 = true → s.dev.ready = false →
      Does (.purlinSet v) s fun t => t.dev.now = v / 4 * 4 ∧ t = { s with dev := { s.dev with regs := t.dev.regs, now := t.dev.now } })
    ∧ (s.dev.stepDone 1 = true → Does .ppsEdge s fun t => t.dev.rd .purlinPpsLast 0 = s.dev.now % 2 ^ 64 ∧ RegsKept s t [(.purlinPpsLast, 0)]
        ∧ (s.dev.rbit .purlinCtrl 0 0 = true → s.dev.rbit .purlinCtrl 0 1 = true →
            let r : Int := (s.dev.now : Int) % 1000000000
            t.dev.fab.time.slew = 16 * (if r < 500000000 then -r else 1000000000 - r)))

/-- HOLD (15 R445 to R448): the pin holds the module in the same beat and is answered, and its release ends that hold; a hold of bay 0 is spread and
scheduled, and its release sets its end; a hold that comes from the fabric is forwarded once and scheduled; its start holds the module, its end releases it. -/
def Obligations.HoldsStartAndEnd : Prop :=
  ∀ s : State, (∀ y ∈ s.dev.parts, y.opcode ≠ 0x70) →
    (s.dev.pgood = true → Does .holdPinAssert s fun t => t.dev.held = true ∧ t.dev.rbit .purlinHoldSts 0 1 = true ∧ t.dev.rbit .hostifSideband 0 5 = false
      ∧ t.dev.hbm = s.dev.hbm
      ∧ (s.dev.held = false → t.dev.rd .purlinHoldCount 0 = min (s.dev.rd .purlinHoldCount 0 + 1) (2 ^ 32 - 1)
          ∧ t.dev.rd .purlinHoldLast 0 = s.dev.now % 2 ^ 64))
    ∧ (s.dev.pgood = true → (s.dev.fab.holds.any (·.active)) = false → s.dev.fab.heldReqs = [] → s.dev.bar4 = [] →
      Does .holdPinRelease s fun t => t.dev.held = false ∧ t.dev.rbit .purlinHoldSts 0 1 = false ∧ t.dev.rbit .hostifSideband 0 5 = true
        ∧ t.dev.hbm = s.dev.hbm)
    ∧ (∀ v, HostUp s [0] → 1 ≤ fld v 2 2 → fld v 2 2 ≤ 2 →
      (bitAt v 0 = true → s.dev.rd .purlinHoldEnd 0 = 0 → Does (.holdGo v) s fun t => ∃ n, t.dev.fab.lastHold = some n
          ∧ (∃ x ∈ t.dev.fab.holds, x.id = n ∧ x.origin = s.dev.self ∧ x.start = s.dev.rd .purlinHoldStart 0 ∧ x.stop = 0
            ∧ x.active = decide (x.start ≤ s.dev.now)) ∧ t.dev.fab.seenHolds = s.dev.fab.seenHolds ++ [(n, 0)]
          ∧ (s.dev.rd .purlinHoldStart 0 ≤ s.dev.now → t.dev.held = true))
      ∧ (∀ n, bitAt v 1 = true → s.dev.fab.lastHold = some n → Does (.holdRelease v) s fun t => t.dev.fab.seenHolds = s.dev.fab.seenHolds ++ [(n, 1)]
          ∧ ∀ x ∈ t.dev.fab.holds, x.id = n → x.stop = s.dev.rd .purlinHoldEnd 0 ∧ (x.stop = 0 ∨ s.dev.now < x.stop)))
    ∧ (∀ h id origin scope domain start stop d1, s.dev.accept h 0 = (d1, true) → scope = 2 ∨ (scope = 1 ∧ domain = s.dev.domain) →
      (s.dev.fab.seenHolds.contains (id, 0) = false → stop = 0 ∨ s.dev.now < stop →
        Does (.holdFrameRx h id origin scope domain start stop false) s fun t => t.dev.fab.seenHolds = s.dev.fab.seenHolds ++ [(id, 0)]
          ∧ { id := id, origin := origin, start := start, stop := stop, active := decide (start ≤ s.dev.now) } ∈ t.dev.fab.holds
          ∧ (start ≤ s.dev.now → t.dev.held = true))
      ∧ (s.dev.fab.seenHolds.contains (id, 1) = false →
        Does (.holdFrameRx h id origin scope domain start stop true) s fun t => t.dev.fab.seenHolds = s.dev.fab.seenHolds ++ [(id, 1)]
          ∧ ∀ x ∈ t.dev.fab.holds, x.id = id → x.stop = stop ∧ (x.stop = 0 ∨ s.dev.now < x.stop)))
    ∧ (∀ x, x ∈ s.dev.fab.holds → x.start ≤ s.dev.now → Does (.fabricHoldStart x.id) s fun t => t.dev.held = true
      ∧ t.dev.rbit .purlinHoldSts 0 2 = true ∧ { x with active := true } ∈ t.dev.fab.holds)
    ∧ (∀ id, s.dev.fab.heldReqs = [] → s.dev.bar4 = [] → s.dev.rbit .purlinHoldSts 0 1 = false →
      (∀ x ∈ s.dev.fab.holds, x.active = true → x.id = id ∧ x.stop ≠ 0 ∧ x.stop ≤ s.dev.now) →
      Does (.fabricHoldEnd id) s fun t => t.dev.held = false
        ∧ t.dev.fab.holds = s.dev.fab.holds.filter fun x => !(x.id == id && x.stop != 0 && decide (x.stop ≤ s.dev.now)))

/-- Every bring-up step is a write to BRING_CMD: one that may not start sets CMD_REJECTED and does nothing else; one that may start runs from now, but where
the image, the identity, the defects or the caps are at fault: then it ends FAILED with its code. LOAD_GABLE takes the image in the window, FLASHING maps spares,
MEM_INIT empties the Loft, FABRIC and ETHERNET train the enabled ports, and LIMITS applies the caps (17 R486, R488 to R490, R493, R494; 16 R473, R475; log 62). -/
def Obligations.BringUpSteps : Prop :=
  ∀ (s : State), s.dev.linkUp = true → s.dev.host.d3.contains 0 = false →
    let started (n : Nat) (t : State) : Prop := t.dev.stepRuns n = true ∧ smGet 0 t.dev.bring.started n = s.dev.now
    let failed (n code : Nat) (again : Bool) (t : State) : Prop := t.dev.stepRuns n = false ∧ t.dev.stepDone n = s.dev.stepDone n ∧ t.dev.failed = true
      ∧ t.dev.failStep = n ∧ t.dev.fd .bringSts 0 16 8 = code ∧ t.dev.rbit .bringSts 0 5 = again
    (∀ n r, (n, r) ∈ [(1, Instr.loadGable), (2, .identify), (3, .dieTest), (4, .flashing), (5, .memTrain), (6, .memInit), (7, .bringCalibrate), (8, .pegLoad)
        , (9, .fabric), (10, .ethernet), (11, .limits), (12, .openStep)] → s.dev.stepMayStart n = false →
      Does r s fun t => t.lim = s.lim ∧ t.dev.rbit .bringSts 0 3 = true ∧ RegsKept s t [(.bringSts, 0), (.hostifRxBytes, 0)] ∧ MemoryKept s t
        ∧ (∀ k, k < 32 → k ≠ 3 → t.dev.rbit .bringSts 0 k = s.dev.rbit .bringSts 0 k)
        ∧ t = { s with dev := { s.dev with regs := t.dev.regs } })
    ∧ (∀ n r, (n, r) ∈ [(3, Instr.dieTest), (5, .memTrain), (6, .memInit), (7, .bringCalibrate), (8, .pegLoad)] → s.dev.stepMayStart n = true →
      Does r s fun t => started n t ∧ RegsKept s t [(.bringStepRun, 0), (.hostifRxBytes, 0)] ∧ t.lim = s.lim
        ∧ (∀ k, k < 32 → k ≠ n → t.dev.rbit .bringStepRun 0 k = s.dev.rbit .bringStepRun 0 k)
        ∧ (∀ a, smGet 0 t.dev.loft a = if n = 6 then 0 else smGet 0 s.dev.loft a)
        ∧ t = { s with dev := { s.dev with regs := t.dev.regs, bring := t.dev.bring, loft := t.dev.loft, loftBad := t.dev.loftBad, loftSoft := t.dev.loftSoft } })
    ∧ (s.dev.stepMayStart 1 = true → Does .loadGable s fun t => t.lim = s.lim ∧ t.dev.stage = s.dev.stage
      ∧ (s.dev.image? = none → failed 1 0x01 true t ∧ t.dev.rbit .bringStageSts 0 0 = false)
      ∧ ∀ m, s.dev.image? = some m → started 1 t ∧ t.dev.bring.image = some ⟨m.level, m.floor, m.build, s.dev.imageHash m, s.dev.pegHash m⟩
        ∧ t.dev.rbit .bringStageSts 0 0 = true ∧ t.dev.fd .bringStageSts 0 16 16 = m.level ∧ t.dev.rd .bringStageFloor 0 = m.floor)
    ∧ (s.dev.stepMayStart 2 = true → Does .identify s fun t => t.lim = s.lim
      ∧ (identifyFails = none → started 2 t) ∧ ∀ code, identifyFails = some code → failed 2 code false t)
    ∧ (s.dev.stepMayStart 4 = true → Does .flashing s fun t => t.lim = s.lim ∧ t.dev.rbit .bringFactorySts 0 0 = factoryRecord.isSome
      ∧ ∃ us : List Nat, (∀ u : Nat, u ∈ us ↔ (u ∈ s.dev.bring.defects.map (·.1) ∨ u ∈ (factoryRecord.getD []).map fun u => setFld u 12 1 1)
          ∧ ¬ (s.dev.bring.gd1Out = true ∧ fld u 0 8 = 0x13))
        ∧ ((∃ x ∈ sites, ∃ k ∈ siteClasses x, k.2.2 - k.2.1 < (defectsOf us x k.1).length) → failed 4 0x30 false t)
        ∧ ((∀ x ∈ sites, ∀ k ∈ siteClasses x, (defectsOf us x k.1).length ≤ k.2.2 - k.2.1) → started 4 t
          ∧ ∀ x ∈ sites, ∀ k ∈ siteClasses x, ∀ e ∈ sparesOf (defectsOf us x k.1) k.2.1 k.2.2, ∃ j, (j, e.2) ∈ sparesOf (defectsOf us x k.1) k.2.1 k.2.2
            ∧ smFind t.dev.bring.flash (unitId x k.1 e.2) = some (setFld (unitId x k.1 (k.2.1 + j)) 12 1 1)))
    ∧ (s.dev.stepMayStart 9 = true → Does .fabric s fun t => started 9 t ∧ t.lim = s.lim ∧ t.dev.rd .reedlineIncarnation 0 ≠ 0
      ∧ ∀ p, p < 18 → t.dev.portState p = if s.dev.rbit .reedlinePortCtrl p 0 = true ∧ s.dev.portState p = 0 then 1 else s.dev.portState p)
    ∧ (s.dev.stepMayStart 10 = true → Does .ethernet s fun t => started 10 t ∧ t.lim = s.lim
      ∧ ∀ p, p < 4 → s.dev.rbit .nvmePortCtrl p 0 = true → t.dev.fd .nvmePortSts p 0 2 = 1)
    ∧ (s.dev.stepMayStart 11 = true →
      let mhz := s.dev.fd .bringLimitMhz 0 0 16
      let w := s.dev.fd .bringLimitW 0 0 16
      ((mhz ≠ 0 ∧ mhz < 500) ∨ (w ≠ 0 ∧ w < 1600) → Does .limits s fun t => t.lim = s.lim ∧ failed 11 0xB0 true t)
      ∧ ((mhz = 0 ∨ 500 ≤ mhz) → (w = 0 ∨ 1600 ≤ w) → Does .limits s fun t => started 11 t
        ∧ t.lim.powerLimit = min (if w = 0 then s.lim.recPower else w) s.lim.recPower ∧ t.lim.recClock = s.lim.recClock ∧ t.lim.recPower = s.lim.recPower
        ∧ t.lim.clockLimit = min s.lim.recClock (if mhz = 0 then s.lim.recClock else mhz) / 50 * 50 ∧ t.lim.clock = t.lim.clockLimit))
    ∧ (s.dev.stepMayStart 12 = true → s.dev.fd .thatchArraySts 0 0 2 = 2 → s.dev.rbit .thatchArraySts 0 2 = false → s.dev.rbit .thatchArraySts 0 3 = false →
      Does .openStep s fun t => started 12 t ∧ t.lim = s.lim ∧ t.dev.ready = false ∧ t.dev.rbit .thatchArraySts 0 2 = true ∧ t.dev.arr.target = 1)

/-- RELOAD is refused before READY, while one runs, or where the image in the window is not valid or its LEVEL not in reach; else the module reloads, and with
nothing running the stacks enter self-refresh at once; it ends with the ports training again. Where an order of it fails, or it lasts over 8 s, the HBM contents are lost,
READY clears, and the module ends FAILED with FAIL_STEP 0x0D and FAIL_CODE 0xF0, which no retry mends (17 R503; and of R500 to R502). -/
def Obligations.ReloadsRunOrLose : Prop :=
  ∀ (s : State), s.dev.linkUp = true → s.dev.host.d3.contains 0 = false →
    (let cur := s.dev.fd .reedlineLevel 0 0 16
     let floor := s.dev.fd .reedlineLevel 0 16 16
     Does .reload s fun t => t.lim = s.lim
      ∧ (s.dev.ready = false ∨ s.dev.stepRuns 13 = true ∨ s.dev.image? = none ∨ (∃ m, s.dev.image? = some m ∧ (m.level < floor ∨ cur + 1 < m.level)) →
          t.dev.rbit .bringSts 0 3 = true ∧ t.dev.stepRuns 13 = s.dev.stepRuns 13 ∧ t.dev.reloading = s.dev.reloading ∧ t.dev.sqs = s.dev.sqs
            ∧ MemoryKept s t)
      ∧ ∀ m, s.dev.image? = some m → s.dev.ready = true → s.dev.stepRuns 13 = false → floor ≤ m.level → m.level ≤ cur + 1 → s.dev.runningAll = [] →
          t.dev.reloading = true ∧ t.dev.stepRuns 13 = true ∧ t.dev.bring.image.map (·.level) = some m.level ∧ t.dev.sqs = s.dev.sqs ∧ t.dev.hbm = s.dev.hbm
          ∧ (s.dev.cqs.all (fun e => e.2.waiting.isEmpty) = true → s.dev.refreshing = false → t.dev.bring.selfRefresh = some s.dev.now ∧ t.dev.loft = []))
    ∧ (∀ since m, s.dev.bring.selfRefresh = some since → s.dev.bring.image = some m → s.dev.stepRuns 13 = true → s.dev.now ≤ since + 8000000000 →
      (s.dev.fab.conns.all fun e => e.2.st != 1 && e.2.st != 2) = true → s.dev.collIn = [] →
      Does .reloadEnd s fun t => t.dev.reloading = false ∧ t.dev.stepRuns 13 = false ∧ t.dev.refreshing = false ∧ t.dev.stepRuns 9 = true
        ∧ t.dev.stepDone 9 = false ∧ t.dev.stepDone 10 = false ∧ t.dev.rd .gableImageBuild 0 = m.build % 2 ^ 64 ∧ t.lim = s.lim
        ∧ t.dev.rd .bringReloads 0 = min (s.dev.rd .bringReloads 0 + 1) (2 ^ 32 - 1) ∧ ∀ p ∈ t.dev.fab.peers, p.st = 0)
    ∧ (∀ since bad, s.dev.bring.selfRefresh = some since → s.dev.stepRuns 13 = true → bad = true ∨ since + 8000000000 < s.dev.now →
      Does (.reloadTimeout bad) s fun t => t.dev.hbm = [] ∧ t.dev.refreshing = false ∧ t.dev.ready = false ∧ t.dev.reloading = false
        ∧ t.dev.stepRuns 13 = false ∧ t.dev.failed = true ∧ t.dev.failStep = 13 ∧ t.dev.fd .bringSts 0 16 8 = 0xF0
        ∧ t.dev.rbit .bringSts 0 5 = false)

/-- Bring-up work: a running step becomes DONE when its work is over (MEM_INIT with every stack ready, PEG_LOAD with every acknowledgement, FABRIC and ETHERNET
once their ports have settled), and FAILED with TIMEOUT after its bound; LOAD_GABLE starts Purlin time at 0, IDENTIFY applies the variant record, ETHERNET forms
the stripe set; a step fails with a code of its own; a stack that is filled reads as zero and is ready, and EARLY sets with four of them and a Lath die that
has its microcode (16 R467, R474; 17 R488 to R490, R494 to R496; log 62). -/
def Obligations.BringUpWork : Prop :=
  ∀ (s : State),
    let ended (n : Nat) (t : State) : Prop := t.dev.stepRuns n = false ∧ t.dev.stepDone n = true
      ∧ t.dev.failed = (s.dev.failed && !(s.dev.failStep == n))
    let failed (n code : Nat) (t : State) : Prop := t.dev.stepRuns n = false ∧ t.dev.stepDone n = s.dev.stepDone n ∧ t.dev.failed = true
      ∧ (s.dev.failed = false ∨ s.dev.rbit .bringSts 0 5 = true → t.dev.failStep = n ∧ t.dev.fd .bringSts 0 16 8 = code)
    (∀ n w, n < 12 → s.dev.stepRuns n = true →
      (s.dev.stepLate n = true → Does (.bringStepDone n w) s fun t => failed n 0xF0 t ∧ t.lim = s.lim)
      ∧ (s.dev.stepLate n = false →
        (n = 1 ∨ n = 2 ∨ n = 4 ∨ n = 7 ∨ n = 11 ∨ (n = 6 ∧ s.dev.allReady = true) ∨ (n = 8 ∧ s.dev.pegsDone = true) ∨ (n = 9 ∧ s.dev.fabricOver = true)
            ∨ (n = 10 ∧ s.dev.ethOver = true) →
          Does (.bringStepDone n w) s fun t => ended n t ∧ (n ≠ 2 → t.lim = s.lim) ∧ (n ≠ 1 → t.dev.now = s.dev.now) ∧ MemoryKept s t
            ∧ (n = 1 → ∀ m, s.dev.bring.image = some m → t.dev.now = 0 ∧ t.dev.rd .gableSts 0 = 3 ∧ t.dev.rd .gableImageBuild 0 = m.build % 2 ^ 64
                ∧ t.dev.bring.gd1Out = !w.gd1)
            ∧ (n = 2 → t.lim.recClock = bytesAt variantRecord 4 2 ∧ t.lim.recPower = bytesAt variantRecord 6 2 ∧ t.lim.clockLimit = t.lim.recClock
                ∧ t.lim.powerLimit = t.lim.recPower ∧ t.dev.rd .identClock 0 = t.lim.recClock ∧ t.dev.rd .identPower 0 = t.lim.recPower
                ∧ t.dev.rd .identSerial 0 = bytesAt variantRecord 16 8)
            ∧ (n = 7 → t.dev.pow.credit = s.lim.capacity)
            ∧ (n = 9 → s.dev.ready = true → t.dev.stepRuns 10 = true)
            ∧ (n = 10 → s.dev.ready = false → ∀ p, p < 4 → t.dev.rbit .tierT4Ssds 0 p = (s.dev.rbit .nvmePortCtrl p 0
                && match w.ssds[p]? with | some x => ssdJoins x | none => false)))
        ∧ (n = 3 → w.defects.length ≤ 4096 → (w.defects.all fun u => fld u 8 4 != 0) = true →
          Does (.bringStepDone n w) s fun t => ended n t ∧ t.lim = s.lim ∧ MemoryKept s t ∧ ∀ u, u ∈ t.dev.bring.defects.map (·.1) ↔
            (u ∈ w.defects.map fun u => setFld u 12 1 1) ∧ ¬ (s.dev.bring.gd1Out = true ∧ fld u 0 8 = 0x13))
        ∧ (n = 5 → (w.lanes.any fun l => (upFrom 0 32).any fun i => fld l (2 * i) 2 == 3) = false →
          Does (.bringStepDone n w) s fun t => ended n t ∧ t.lim = s.lim ∧ MemoryKept s t ∧ t.dev.rd .bringStacksTrained 0 = 2 ^ 32 - 1
            ∧ ∀ k, k < 32 → t.dev.rd .eaveLaneSpares k = w.lanes.getD k 0 % 2 ^ 64)
        ∧ ((n = 6 ∧ s.dev.allReady = false) ∨ (n = 8 ∧ s.dev.pegsDone = false) ∨ (n = 9 ∧ s.dev.fabricOver = false) ∨ (n = 10 ∧ s.dev.ethOver = false) →
          Does (.bringStepDone n w) s fun t => t = s)))
    ∧ (∀ n code, n ≤ 12 → s.dev.stepRuns n = true → workFails n = some code ∨ (code = 0xF0 ∧ (n = 1 ∨ s.dev.stepLate n = true)) →
      Does (.bringStepFailed n code) s fun t => failed n code t ∧ t.lim = s.lim ∧ MemoryKept s t)
    ∧ (∀ n code, s.dev.stepRuns n = false → Does (.bringStepFailed n code) s fun t => t = s)
    ∧ (∀ k, k < 32 → s.dev.stepRuns 6 = true → s.dev.rbit .bringStacksReady 0 k = false →
      Does (.stackReady k) s fun t => t.dev.rbit .bringStacksReady 0 k = true ∧ RegsKept s t [(.bringStacksReady, 0), (.bringSts, 0)] ∧ t.lim = s.lim
        ∧ (∀ a, smGet 0 t.dev.hbm a = if k * 2 ^ 36 ≤ a ∧ a < (k + 1) * 2 ^ 36 then 0 else smGet 0 s.dev.hbm a)
        ∧ t.dev.early = (s.dev.early || (!s.dev.ready && decide (4 ≤ popCount 32 (t.dev.rd .bringStacksReady 0)) && s.dev.fd .bringPegDone 0 12 4 != 0)))
    ∧ (∀ n, s.dev.stepRuns 8 = true →
      (n < 18 → Does (.pegAck false n) s fun t => t.dev.rbit .bringPegDone 0 n = true ∧ RegsKept s t [(.bringPegDone, 0), (.bringSts, 0)] ∧ MemoryKept s t
        ∧ t.lim = s.lim ∧ t.dev.early = (s.dev.early || (!s.dev.ready && decide (4 ≤ popCount 32 (s.dev.rd .bringStacksReady 0))
            && t.dev.fd .bringPegDone 0 12 4 != 0)))
      ∧ (n < 32 → s.dev.rbit .bringStacksReady 0 n = true →
        Does (.pegAck true n) s fun t => t.dev.rbit .bringPegStacks 0 n = true ∧ RegsKept s t [(.bringPegStacks, 0)] ∧ MemoryKept s t ∧ t.lim = s.lim))

/-- FW_COMMIT raises FLOOR at its COMMIT_TIME, or now where that has passed, and answers with the number of peers that it lost; a floor above LEVEL or below
FLOOR is BAD_PARAM. The Gable dies check each other: a missed check is counted and shown by the other die; after five the other die serves alone, and when it is
lost too the module enters Sarking mode. A Batten link that loses modules runs narrower and is recorded, and its failure is Sarking mode (01 R20, R21; 13 R394;
15 R436; 17 R491, R504, R505; 18 R518). -/
def Obligations.FloorAndGable : Prop :=
  ∀ (s : State),
    (∀ (q : Nat) (c : Cmd), Runs s q 0xB0 c →
      let floor := c.at 16 2
      let cur := s.dev.fd .reedlineLevel 0 16 16
      let rises (r : Instr) : Prop := Does r s fun t => Ended s t q c stOk (s.dev.livePeers.length - t.dev.livePeers.length)
        ∧ t.dev.fd .reedlineLevel 0 16 16 = max floor cur ∧ t.dev.fd .reedlineLevel 0 0 16 = s.dev.fd .reedlineLevel 0 0 16 ∧ t.lim = s.lim
      (s.dev.bring.commits.contains (q, c.order) = false →
        (c.only 1 [(16, 0, 16), (24, 0, 64)] = false ∨ s.dev.fd .reedlineLevel 0 0 16 < floor ∨ floor < cur →
          Does (.fwCommit q) s fun t => Ended s t q c stBadParam 0 ∧ Clean s t q c ∧ MemoryKept s t)
        ∧ (c.only 1 [(16, 0, 16), (24, 0, 64)] = true → cur ≤ floor → floor ≤ s.dev.fd .reedlineLevel 0 0 16 →
          (s.dev.reloading = true → Does (.fwCommit q) s fun t => Ended s t q c stBusy 0 ∧ Clean s t q c ∧ MemoryKept s t)
          ∧ (s.dev.reloading = false → floor = cur → Does (.fwCommit q) s fun t => Ended s t q c stOk 0 ∧ Clean s t q c ∧ MemoryKept s t)
          ∧ (s.dev.reloading = false → cur < floor → c.at 24 8 ≤ s.dev.now → rises (.fwCommit q))
          ∧ (s.dev.reloading = false → cur < floor → s.dev.now < c.at 24 8 → Does (.fwCommit q) s fun t =>
              t = { s with dev := { s.dev with bring := { s.dev.bring with commits := s.dev.bring.commits ++ [(q, c.order)] } } })))
      ∧ (s.dev.bring.commits.contains (q, c.order) = true → c.at 24 8 ≤ s.dev.now → rises (.floorRise q)))
    ∧ (∀ die ok, die < 2 → s.dev.bothServe = true →
      Does (.gableCheck die ok) s fun t => t.dev.misses0 = (if die = 0 then if ok then 0 else s.dev.misses0 + 1 else s.dev.misses0)
        ∧ t.dev.misses1 = (if die = 1 then if ok then 0 else s.dev.misses1 + 1 else s.dev.misses1)
        ∧ t.dev.rbit .gableErr (1 - die) 2 = (s.dev.rbit .gableErr (1 - die) 2 || !ok)
        ∧ RegsKept s t [(.gableErr, 1 - die)] ∧ t = { s with dev := { s.dev with misses0 := t.dev.misses0, misses1 := t.dev.misses1, regs := t.dev.regs } })
    ∧ (∀ die, s.dev.bothServe = true → (die = 0 ∧ 5 ≤ s.dev.misses0) ∨ (die = 1 ∧ s.dev.misses0 < 5 ∧ 5 ≤ s.dev.misses1) →
      Does .gableTakeover s fun t => t.lim = s.lim ∧ t.dev.rd .queueGableSts 0 = (if die = 1 then 5 else 10)
        ∧ t.dev.rd .queueTakeoverTime 0 = s.dev.now % 2 ^ 64 ∧ t.dev.rd .gableSts die = 4 ∧ t.dev.now = s.dev.now)
    ∧ (s.dev.stepDone 1 = true → s.dev.fd .queueGableSts 0 0 2 ≠ 0 → s.dev.fd .queueGableSts 0 2 2 ≠ 0 →
      Does .gableLoss s fun t => t.lim = s.lim ∧ t.dev.fd .queueGableSts 0 0 2 = 0 ∧ t.dev.sarking = true ∧ t.dev.rbit .powerSts 0 10 = true)
    ∧ (∀ die link far, (dieLinks die)[link]? = some far → s.dev.stepDone 1 = true → 1 ≤ s.dev.linkWorking die far →
      let narrow : Bool := 18 ≤ die || 18 ≤ far
      let working := s.dev.linkWorking die far - 1
      let dropped (t : State) : Prop := t.dev.linkWorking die far = working ∧ ∀ a b, linkKey a b ≠ linkKey die far → t.dev.linkWorking a b = s.dev.linkWorking a b
      ((if narrow then 1 else 12) ≤ working →
        Does (.battenModuleFault die link working) s fun t => t.lim = s.lim ∧ dropped t ∧ t.dev.rd .errlogSeq 0 = (s.dev.rd .errlogSeq 0 + 1) % 2 ^ 64
          ∧ fld (smGet 0 t.dev.errRing (s.dev.rd .errlogSeq 0 % 64)) 128 16 = 0x10 ∧ RegsKept s t [(.errlogSeq, 0), (.errlogUncorr, 0)]
          ∧ t = { s with dev := { s.dev with regs := t.dev.regs, errRing := t.dev.errRing, linkDropped := t.dev.linkDropped } })
      ∧ (working < (if narrow then 1 else 12) →
        Does (.battenModuleFault die link working) s fun t => t.lim = s.lim ∧ dropped t ∧ t.dev.sarking = true ∧ t.dev.rbit .powerSts 0 12 = true
          ∧ fld (smGet 0 t.dev.errRing (s.dev.rd .errlogSeq 0 % 64)) 128 16 = 0x11
          ∧ fld (smGet 0 t.dev.errRing (s.dev.rd .errlogSeq 0 % 64)) 160 32 = unitId die 9 link))

/-- SELFTEST runs the named test on its unit and counts the defects found, each an error record; a FULL test of a unit that works is BUSY or deferred, and a
deferred one runs after a turn with its outcome in records only. CALIBRATE of the monitors completes; of a stack's PHY it answers with the spare lanes that the
retrain needs, shown until READY, and is UNCORRECTABLE where a channel needs more than two (19 R540 to R542; 01 R26). -/
def Obligations.TestsOfUnits : Prop :=
  ∀ (s : State) (q : Nat) (c : Cmd),
    (∀ found, Runs s q 0x90 c →
      let test := c.bits 16 0 3
      let u := c.at 20 4
      let good : Bool := c.only 1 [(16, 0, 4), (20, 0, 40)] && unitOk u && testAllows test u
      (good = false → Does (.selftest q found) s fun t => Ended s t q c stBadParam 0 ∧ Clean s t q c ∧ MemoryKept s t)
      ∧ (good = true → c.trapped = false → s.dev.enginesRun = true →
        (test ≠ 4 ∨ s.dev.targetBusy u = false →
          Does (.selftest q found) s fun t => Ended s t q c stOk found.length ∧ MemoryKept s t ∧ t.lim = s.lim
            ∧ (∀ p, p ≠ q → smFind t.dev.sqs p = smFind s.dev.sqs p) ∧ t.dev.rd .errlogSeq 0 % 2 ^ 64 = (s.dev.rd .errlogSeq 0 + found.length) % 2 ^ 64
            ∧ RegsKept s t [(.bayCmdsDone, c.bay), (.errlogSeq, 0), (.errlogUncorr, 0)])
        ∧ (test = 4 → s.dev.targetBusy u = true →
          (c.bits 16 3 1 = 0 → Does (.selftest q found) s fun t => Ended s t q c stBusy 0 ∧ Clean s t q c ∧ MemoryKept s t)
          ∧ (c.bits 16 3 1 = 1 → Does (.selftest q found) s fun t => Ended s t q c stDeferred 0 ∧ Clean s t q c ∧ MemoryKept s t
            ∧ t.dev.deferredTests = s.dev.deferredTests ++ [(q, c.bay, c.tag, u)]))))
    ∧ (∀ found x, s.dev.deferredTests.find? (fun x => x.1 == q) = some x → s.dev.turnEnded = true → s.dev.enginesRun = true →
      Does (.deferredSelftest q found) s fun t => t.dev.deferredTests = s.dev.deferredTests.erase x ∧ t.dev.turnEnded = !t.dev.deferredTests.isEmpty
        ∧ t.dev.rd .errlogSeq 0 % 2 ^ 64 = (s.dev.rd .errlogSeq 0 + found.length) % 2 ^ 64 ∧ RegsKept s t [(.errlogSeq, 0), (.errlogUncorr, 0)]
        ∧ t = { s with dev := { s.dev with deferredTests := t.dev.deferredTests, turnEnded := t.dev.turnEnded, regs := t.dev.regs, errRing := t.dev.errRing } })
    ∧ (∀ lanes worst, Runs s q 0x91 c →
      let target := c.bits 16 0 2
      let u := c.at 20 4
      let k := fld u 0 8 - 0x20
      let used := (upFrom 0 32).map fun i => fld lanes (2 * i) 2
      (c.only 1 [(16, 0, 2)] = true → target = 1 ∨ target = 2 → c.trapped = false →
        Does (.calibrate q lanes worst) s fun t => Ended s t q c stOk 0 ∧ Clean s t q c ∧ MemoryKept s t)
      ∧ (c.only 1 [(16, 0, 2), (20, 0, 32)] = true → target = 3 → (unitOk u && inRange 0x20 0x3F (fld u 0 8) && fld u 8 4 == 0) = true →
          c.trapped = false → s.dev.enginesRun = true →
        (worst ≤ 2 → used.all (fun n => n != 3) = true → lanes < 2 ^ 64 →
          Does (.calibrate q lanes worst) s fun t => Ended s t q c stOk (sumN used) ∧ t.dev.rd .eaveLaneSpares k = (if s.dev.ready = true then s.dev.rd .eaveLaneSpares k else lanes) ∧ MemoryKept s t ∧ t.lim = s.lim
            ∧ RegsKept s t [(.bayCmdsDone, c.bay), (.eaveLaneSpares, k)])
        ∧ (2 < worst ∨ used.all (fun n => n != 3) = false →
          Does (.calibrate q lanes worst) s fun t => Ended s t q c stUncorr 0 ∧ MemoryKept s t ∧ t.lim = s.lim
            ∧ fld (smGet 0 t.dev.errRing (s.dev.rd .errlogSeq 0 % 64)) 128 16 = 0x21)))

/-- The host's accesses. A request that no function answers, that lies outside its BAR or that breaks R6 is an Unsupported Request, counted in HOSTIF_ERR. A
write of a register whose meaning is only its fields stores them by their types, all or, where one is out of its range, none; the lower half of a 64-bit register
waits for the upper; a block that does not answer yet ignores writes. A read answers the value shown, clears RC fields, and of a low half keeps the upper half
for the next read. BAR4 accesses reach bay 0's space, wait in a hold, and are answered with ones and counted where no page serves them. The window takes its
bytes, with VALID 0 from then on (00 R6, R7, R9, R546, Table 0-5; 16 R454, R456, R460, R462, R463; 17 R487). -/
def Obligations.HostAccesses : Prop :=
  ∀ (s : State), s.dev.linkUp = true →
    let refused (t : State) : Prop := t.dev.rbit .hostifErr 0 2 = true ∧ RegsKept s t [(.hostifErr, 0)] ∧ t.dev.sent = s.dev.sent ++ [⟨.host, 3, []⟩]
      ∧ t = { s with dev := { s.dev with regs := t.dev.regs, sent := t.dev.sent } }
    let stored (r : Reg) (i x : Nat) (t : State) : Prop := ∀ f ∈ r.fields, t.dev.fd r i f.lo f.w = match f.ty with
      | .rw => fld x f.lo f.w
      | .rwl => if s.dev.ready then s.dev.fd r i f.lo f.w else fld x f.lo f.w
      | .rw1c => if fld x f.lo f.w = 0 then s.dev.fd r i f.lo f.w else 0
      | _ => s.dev.fd r i f.lo f.w
    let allowed (r : Reg) (x : Nat) : Bool := r.fields.all fun f => (f.ty != .rw && f.ty != .rwl) || f.allows (fld x f.lo f.w)
    let answers (fn off : Nat) (r : Reg) (i : Nat) (hi : Bool) (o : Nat) : Prop := s.dev.answers fn = true ∧ off < barSize fn
      ∧ pfOffset fn off = some o ∧ findReg o = some (r, i, hi) ∧ (o < 0x10000 ∨ 0x20000 ≤ o) ∧ (o < 0x51000 ∨ 0x52000 ≤ o) ∧ o < 0x1000000
      ∧ (s.dev.stepDone 1 = true ∨ early0 o = true)
    Does .unsupportedRequest s refused
    ∧ (∀ fn off size v, s.dev.answers fn = false ∨ barSize fn ≤ off →
      Does (.registerWrite fn off size v) s refused ∧ Does (.registerReadClear fn off) s refused ∧ Does (.registerLowHalfRead fn off) s refused)
    ∧ (∀ fn off size v o, s.dev.answers fn = true → off < barSize fn → pfOffset fn off = some o →
      (breaksR6 o size = true → Does (.registerWrite fn off size v) s refused)
      ∧ (breaksR6 o 4 = true → Does (.registerLowHalfRead fn off) s refused)
      ∧ (breaksR6 o size = false → s.dev.stepDone 1 = false → early0 o = false →
        Does (.registerWrite fn off size v) s fun t => RegsKept s t [(.hostifRxBytes, 0)] ∧ t = { s with dev := { s.dev with regs := t.dev.regs } }))
    ∧ (∀ fn off v o r i, answers fn off r i false o → r ∉ [.bringCmd, .bayTrapCtrl, .numstatCtrl, .pfstatCtrl, .thatchArrayCtrl, .bayAdminCtrl, .bayAdminSqAddr
        , .bayAdminCqAddr, .bayAdminHeadAddr, .bayEvqCtrl, .eaveHotThresh, .bayEvqHead, .queueInspectSel, .tierT4Bytes, .reedlineRouteData, .reedlinePeerOp
        , .reedlinePortCtrl, .ethConnCtrl, .ethConnCfg, .ethConnRemoteQpn, .ethConnPsn, .ethConnGidLo, .ethConnGidHi, .ethPortCtrl, .purlinCtrl, .purlinSet
        , .purlinHoldCtrl, .hostifLinkCtrl, .hostifBar4Base, .hostifErr, .powerTripCtrl, .hostifRxBytes] →
      (let size := r.place.bits / 8
       breaksR6 o size = false → Does (.registerWrite fn off size v) s fun t => (allowed r v = true → stored r i v t)
        ∧ (allowed r v = false → t.dev.rd r i = s.dev.rd r i) ∧ RegsKept s t [(r, i), (.hostifRxBytes, 0)]
        ∧ t = { s with dev := { s.dev with regs := t.dev.regs } })
      ∧ (r.place.bits = 64 → breaksR6 o 4 = false → Does (.registerWrite fn off 4 v) s fun t => smFind t.dev.writeLatch (r.addr i) = some (v % 2 ^ 32)
        ∧ RegsKept s t [(.hostifRxBytes, 0)] ∧ t = { s with dev := { s.dev with regs := t.dev.regs, writeLatch := t.dev.writeLatch } })
      ∧ ∀ low, smFind s.dev.writeLatch (r.addr i) = some low → low < 2 ^ 32 → answers fn (off + 4) r i true (o + 4) → breaksR6 (o + 4) 4 = false →
        Does (.registerWrite fn (off + 4) 4 v) s fun t => (allowed r (low + v % 2 ^ 32 * 2 ^ 32) = true → stored r i (low + v % 2 ^ 32 * 2 ^ 32) t)
          ∧ smFind t.dev.writeLatch (r.addr i) = none ∧ RegsKept s t [(r, i), (.hostifRxBytes, 0)])
    ∧ (∀ fn off o r i, answers fn off r i false o → r ≠ .hostifTxBytes →
      (breaksR6 o (r.place.bits / 8) = false → Does (.registerReadClear fn off) s fun t => t.dev.reply = [s.regView r i % 2 ^ r.place.bits] ∧ t.lim = s.lim
        ∧ (∀ f ∈ r.fields, t.dev.fd r i f.lo f.w = if f.ty = .rc then 0 else s.dev.fd r i f.lo f.w)
        ∧ RegsKept s t [(r, i), (.hostifTxBytes, 0)] ∧ MemoryKept s t)
      ∧ (r.place.bits = 64 → breaksR6 o 4 = false → Does (.registerLowHalfRead fn off) s fun t => t.dev.reply = [s.regView r i % 2 ^ 32] ∧ t.lim = s.lim
        ∧ smFind t.dev.readLatch (r.addr i) = some (s.regView r i / 2 ^ 32) ∧ RegsKept s t [(r, i), (.hostifTxBytes, 0)] ∧ MemoryKept s t)
      ∧ ∀ up, smFind s.dev.readLatch (r.addr i) = some up → r.place.bits = 64 → answers fn (off + 4) r i true (o + 4) → breaksR6 (o + 4) 4 = false →
        Does (.registerLowHalfRead fn (off + 4)) s fun t => t.dev.reply = [up] ∧ t.lim = s.lim ∧ smFind t.dev.readLatch (r.addr i) = none ∧ MemoryKept s t)
    ∧ (s.dev.host.d3.contains 0 = false →
      (let size := 2 ^ s.dev.fd .hostifBar4Size 0 0 6
       ∀ off n v, (n = 0 ∨ size < off + n → Does (.bar4Read off n) s refused ∧ Does (.bar4Write off n v) s refused)
          ∧ (n ≠ 0 → off + n ≤ size →
            let va := s.dev.rd .hostifBar4Base 0 + off
            (s.dev.bar4Open = true → s.dev.held = true ∨ s.dev.powerHold = true →
              Does (.bar4Read off n) s (fun t => t = { s with dev := { s.dev with bar4 := s.dev.bar4 ++ [(va, n, none)] } })
              ∧ Does (.bar4Write off n v) s (fun t => t.dev.bar4 = s.dev.bar4 ++ [(va, n, some v)] ∧ RegsKept s t [(.hostifRxBytes, 0)] ∧ MemoryKept s t))
            ∧ (s.dev.bar4Open = true → s.dev.held = false → s.dev.powerHold = false →
              (∀ bs, (s.dev.pieces 0 va n).all (fun p => s.dev.bar4Serves p false) = true → s.dev.readVa 0 va n = .ok bs →
                Does (.bar4Read off n) s fun t => t.dev.reply = [ofLe bs] ∧ RegsKept s t [(.hostifTxBytes, 0)] ∧ MemoryKept s t ∧ t.lim = s.lim)
              ∧ ((s.dev.pieces 0 va n).all (fun p => s.dev.bar4Serves p true) = true →
                Does (.bar4Write off n v) s fun t => t = { s with dev := ((s.dev.rx n).writeVa 0 va (toLe n v)).1 })
              ∧ ((s.dev.pieces 0 va n).all (fun p => s.dev.bar4Serves p false) = false → Does (.bar4Read off n) s fun t => t.dev.reply = [2 ^ (8 * n) - 1]
                ∧ t.dev.rd .hostifBar4Faults 0 = min (s.dev.rd .hostifBar4Faults 0 + 1) (2 ^ 32 - 1) ∧ MemoryKept s t)
              ∧ ((s.dev.pieces 0 va n).all (fun p => s.dev.bar4Serves p true) = false → Does (.bar4Write off n v) s fun t => MemoryKept s t
                ∧ t.dev.rd .hostifBar4Faults 0 = min (s.dev.rd .hostifBar4Faults 0 + 1) (2 ^ 32 - 1)))))
      ∧ (∀ off n data, off + n ≤ stageSize → n ≠ 0 → Does (.stageWrite off n data) s fun t => t.dev.rbit .bringStageSts 0 0 = false ∧ t.lim = s.lim
        ∧ RegsKept s t [(.bringStageSts, 0), (.bringStageFloor, 0), (.hostifRxBytes, 0)]
        ∧ (∀ a, a < off ∨ off + n ≤ a → smGet 0 t.dev.stage a = smGet 0 s.dev.stage a)
        ∧ (s.dev.stageBusy = false → ∀ j, j < n → smGet 0 t.dev.stage (off + j) = BitVec.ofNat 8 (bytesAt data j 1)))
      ∧ (∀ v, inRange 1 6 (fld v 1 3) = true → Does (.hostLinkRetrain v) s fun t => t.dev.fd .hostifLinkCtrl 0 1 3 = fld v 1 3
        ∧ RegsKept s t [(.hostifLinkCtrl, 0), (.hostifLinkSts, 0), (.hostifRxBytes, 0)] ∧ MemoryKept s t ∧ t.dev.linkUp = true
        ∧ t.dev.fd .hostifLinkSts 0 0 3 = (if bitAt v 0 = true then min s.dev.host.common (fld v 1 3) else s.dev.fd .hostifLinkSts 0 0 3)))

/-- The host's link and the module's power: with PWR_EN high and the rails good the module starts from reset with its slot and PGOOD, and answers HOLD; PERST_N
low resets every die whatever runs, and its release trains the link at the highest common speed. A link that is down for 1 ms is HOST_LOSS: bit 3 of HOSTIF_ERR.
A host access that fails ends the command that made it UNCORRECTABLE, and puts a queue whose ring is in host memory into ERROR (13 R371; 16 R453, R456, R457,
R477 to R479; 19 R538). -/
def Obligations.HostLink : Prop :=
  ∀ (s : State),
    let reset (t : State) : Prop := t.lim = {} ∧ t.dev.hbm = [] ∧ t.dev.loft = [] ∧ t.dev.sqs = [] ∧ t.dev.cqs = [] ∧ t.dev.objs = [] ∧ t.dev.now = 0
      ∧ t.dev.stage = [] ∧ t.dev.linkUp = false ∧ t.dev.rd .bringStepDone 0 = 0 ∧ t.dev.hostMem = s.dev.hostMem
      ∧ ∀ x, x ∈ t.dev.ulSets ↔ x ∈ s.dev.ulSets ∧ x.st = 2
    (Does .pwrEnHigh s fun t => t.dev.rbit .hostifSideband 0 0 = true ∧ RegsKept s t [(.hostifSideband, 0)]
      ∧ t = { s with dev := { s.dev with regs := t.dev.regs } })
    ∧ (∀ slot, s.dev.rbit .hostifSideband 0 0 = true → s.dev.pgood = false → Does (.railsGood slot) s fun t => reset t ∧ t.dev.pgood = true
      ∧ t.dev.rd .identSlot 0 = slot % 64 ∧ t.dev.held = !s.dev.rbit .hostifSideband 0 4 ∧ t.dev.rbit .hostifSideband 0 5 = s.dev.rbit .hostifSideband 0 4)
    ∧ (s.dev.pgood = true → Does .railFailure s fun t => t.dev.pgood = false ∧ RegsKept s t [(.hostifSideband, 0)]
      ∧ t = { s with dev := { s.dev with regs := t.dev.regs } })
    ∧ (s.dev.pgood = true → Does .perstAssert s fun t => reset t ∧ t.dev.pgood = true ∧ t.dev.rbit .hostifSideband 0 2 = false
      ∧ t.dev.rd .identSlot 0 = s.dev.rd .identSlot 0 % 2 ^ 32 ∧ t.dev.held = !s.dev.rbit .hostifSideband 0 4)
    ∧ (∀ speed width, 1 ≤ speed → speed ≤ 6 → width ∈ [4, 8, 16] →
      let trained (t : State) : Prop := t.dev.linkUp = true ∧ t.dev.fd .hostifLinkSts 0 0 3 = speed ∧ t.dev.fd .hostifLinkSts 0 3 5 = width
        ∧ t.dev.rbit .hostifLinkSts 0 8 = decide (speed = 6)
      (s.dev.pgood = true → s.dev.rbit .hostifSideband 0 2 = false → Does (.perstRelease speed width) s fun t => trained t
        ∧ t.dev.rbit .hostifSideband 0 2 = true ∧ RegsKept s t [(.hostifSideband, 0), (.hostifLinkSts, 0)]
        ∧ t = { s with dev := { s.dev with regs := t.dev.regs, host := { s.dev.host with common := speed } } })
      ∧ (∀ since, s.dev.host.downAt = some since → Does (.hostLinkUp speed width) s fun t => trained t ∧ RegsKept s t [(.hostifLinkSts, 0)]
        ∧ t = { s with dev := { s.dev with regs := t.dev.regs, host := { s.dev.host with downAt := none, common := max s.dev.host.common speed } } }))
    ∧ (s.dev.linkUp = true → Does .hostLinkDown s fun t => t.dev.linkUp = false ∧ RegsKept s t [(.hostifLinkSts, 0)]
      ∧ t = { s with dev := { s.dev with regs := t.dev.regs, host := { s.dev.host with downAt := some s.dev.now } } })
    ∧ (∀ since, s.dev.host.downAt = some since → s.dev.rbit .hostifErr 0 3 = false → s.dev.stepDone 1 = false ∨ since + 1000000 ≤ s.dev.now →
      Does .hostLoss s fun t => t.lim = s.lim ∧ t.dev.rbit .hostifErr 0 3 = true ∧ ((∀ c ∈ s.dev.runningAll, c.opcode ≠ 0x21) →
        t.dev.cqs = s.dev.cqs ∧ MemoryKept s t ∧ ∀ q x, smFind s.dev.sqs q = some x →
          smFind t.dev.sqs q = some (if s.dev.hostRing x = true then x else { x with stopTail := some x.tail })))
    ∧ (∀ q n, s.dev.linkUp = true → Does (.hostCompletionRx q n false) s fun t => t.dev.rd .hostifRxBytes 0 = (s.dev.rd .hostifRxBytes 0 + n) % 2 ^ 64
      ∧ RegsKept s t [(.hostifRxBytes, 0)] ∧ t = { s with dev := { s.dev with regs := t.dev.regs } })
    ∧ ∀ q x r bit n, smFind s.dev.sqs q = some x → (r = Instr.hostCplTimeout q ∧ bit = 1) ∨ (r = .hostCompletionRx q n true ∧ bit = 0 ∧ s.dev.linkUp = true) →
      Does r s fun t => t.lim = s.lim ∧ t.dev.rbit .hostifErr 0 bit = true
        ∧ (∀ c, x.run = some c → c.sq = q → (s.dev.parts.any fun p => p.sq == q) = false → (s.dev.steps.any fun p => p.sq == q) = false →
            Ended s t q c stUncorr 0)
        ∧ (x.run = none → x.st = 1 → s.dev.hostRing x = true → (smFind t.dev.sqs q).map (fun y => (y.st, y.cause)) = some (2, 3))

/-- Management. On each of its two bindings the module answers MCTP control and PLDM from PGOOD on: it takes and shows its EIDs, names its message types, and its
numeric sensors report initializing until CALIBRATE has ended. SPDM answers the negotiation, and after IDENTIFY, digests, parts of the chain of slot 0, challenges
(counted and signed) and the measurements; before, Busy. ENTDAA gives the I3C address. The TAP answers IDCODE, samples the pins, and while READY is set EXTEST,
CLAMP and HIGHZ are BYPASS. Nothing else of the module changes (16 R469 to R472, R476; the codes are the family's: logs 70 to 72). -/
def Obligations.ManagementAnswers : Prop :=
  ∀ (s : State), s.dev.pgood = true →
    (∀ i3c : Bool, (if i3c = true then s.dev.fd .fasciaMctpEid 0 16 7 ≠ 0 else s.dev.linkUp = true) →
      let after (d : Dev) (words : List Nat) : State :=
        { s with dev := { d with sent := s.dev.sent ++ [⟨.management, if i3c = true then 1 else 0, words⟩], reply := words } }
      let tells (r : Instr) (words : List Nat) : Prop := Does r s fun t => t = after s.dev words
      let asked (r : Instr) (step : Nat) (words : List Nat) : Prop :=
        Does r s fun t => t = after { s.dev with host := { s.dev.host with spdm := step } } words
      (∀ eid, (1 ≤ eid → eid ≤ 0xFE → Does (.setEndpointId i3c eid) s fun t => t.dev.fd .fasciaMctpEid 0 (if i3c = true then 8 else 0) 8 = eid
            ∧ t.dev.fd .fasciaMctpEid 0 (if i3c = true then 0 else 8) 8 = s.dev.fd .fasciaMctpEid 0 (if i3c = true then 0 else 8) 8
            ∧ RegsKept s t [(.fasciaMctpEid, 0)] ∧ t = after { s.dev with regs := t.dev.regs } [0, 0, eid])
          ∧ (eid = 0 ∨ 0xFF ≤ eid → tells (.setEndpointId i3c eid) [2]))
      ∧ tells (.getEndpointId i3c) [0, s.dev.fd .fasciaMctpEid 0 (if i3c = true then 8 else 0) 8]
      ∧ (∀ ty, tells (.getMctpVersionSupport i3c ty) (if ty = 0xFF ∨ ty = 0 ∨ ty = 1 ∨ ty = 5 then 0 :: Config.mctpVersions ty else [0x80]))
      ∧ tells (.getMessageTypeSupport i3c) [0, 3, 0x00, 0x01, 0x05]
      ∧ tells (.getEndpointUuid i3c) [0, Config.uuid]
      ∧ asked (.getVersion i3c) 1 [0x04, 0x12]
      ∧ (s.dev.host.spdm = 0 → tells (.getCapabilities i3c) [0x7F, 4])
      ∧ (s.dev.host.spdm ≠ 0 → asked (.getCapabilities i3c) 2 [0x61, 0x16])
      ∧ (∀ asym hash, (s.dev.host.spdm < 2 → tells (.negotiateAlgorithms i3c asym hash) [0x7F, 4])
        ∧ (2 ≤ s.dev.host.spdm → bitAt asym 4 = true → bitAt hash 0 = true → asked (.negotiateAlgorithms i3c asym hash) 3 [0x63, 0x10, 0x01])
        ∧ (2 ≤ s.dev.host.spdm → bitAt asym 4 = false ∨ bitAt hash 0 = false → tells (.negotiateAlgorithms i3c asym hash) [0x7F, 1]))
      ∧ (∀ slot off len nonce index sign, s.dev.rbit .fasciaSpdmSts 0 0 = false ∨ s.dev.host.spdm < 3 →
        ∀ r ∈ [Instr.getDigests i3c, .getCertificate i3c slot off len, .challenge i3c slot nonce, .getMeasurements i3c index sign nonce],
          tells r [0x7F, if s.dev.rbit .fasciaSpdmSts 0 0 = true then 4 else 3])
      ∧ (s.dev.rbit .fasciaSpdmSts 0 0 = true → 3 ≤ s.dev.host.spdm →
        tells (.getDigests i3c) [0x01, 1, sha256 spdmChain]
        ∧ (∀ slot off len, tells (.getCertificate i3c slot off len) (if slot ≠ 0 ∨ spdmChain.length ≤ off then [0x7F, 1] else
            [0x02, min len (spdmChain.length - off), spdmChain.length - off - min len (spdmChain.length - off), ofLe ((spdmChain.drop off).take len)]))
        ∧ (∀ slot nonce, (slot ≠ 0 → tells (.challenge i3c slot nonce) [0x7F, 1])
          ∧ (slot = 0 → Does (.challenge i3c slot nonce) s fun t =>
            let said := [0x03, sha256 spdmChain, nonce]
            t.dev.rd .fasciaSpdmChallenges 0 = min (s.dev.rd .fasciaSpdmChallenges 0 + 1) (2 ^ 32 - 1) ∧ RegsKept s t [(.fasciaSpdmChallenges, 0)]
              ∧ t = after { s.dev with regs := t.dev.regs, free := s.dev.free + 1 } (said ++ [Config.sign s.dev.free said])))
        ∧ ∀ index nonce, (5 < index → index ≠ 0xFF → ∀ sign, tells (.getMeasurements i3c index sign nonce) [0x7F, 1])
          ∧ (index ≤ 5 ∨ index = 0xFF →
            let said : List Nat := 0x60 :: (if index = 0 then [5] else if index = 0xFF then s.dev.measurements else [s.dev.measurements.getD (index - 1) 0])
            tells (.getMeasurements i3c index false nonce) said
            ∧ Does (.getMeasurements i3c index true nonce) s fun t =>
                t = after { s.dev with free := s.dev.free + 1 } (said ++ [nonce, Config.sign s.dev.free (said ++ [nonce])])))
      ∧ tells (.getPdrRepositoryInfo i3c) (0 :: Config.pdrInfo)
      ∧ (∀ n, tells (.getPdr i3c n) (if Config.pdr n = [] then [0x82] else [0, (Config.pdr n).length, ofLe (Config.pdr n)]))
      ∧ (∀ id, tells (.getSensorReading i3c id) (if inRange 1 9 id = false then [0x80] else if s.dev.stepDone 7 = false then [0, 5] else
          [0, 0, s.dev.host.sensors.getD (id - 1) 0]))
      ∧ ∀ id, tells (.getStateSensorReadings i3c id) (if id ≠ 10 then [0x80] else
          [0, if s.dev.sarking then 4 else if s.dev.reloading then 5 else if s.dev.powerHold then 3 else if s.dev.ready then 2 else 1]))
    ∧ (∀ readings, Does (.sensorRefresh readings) s fun t => t = { s with dev := { s.dev with host := { s.dev.host with sensors := readings.take 9 } } })
    ∧ (∀ a, 1 ≤ a → a ≤ 127 → s.dev.fd .fasciaMctpEid 0 16 7 = 0 → Does (.entdaa a) s fun t => t.dev.fd .fasciaMctpEid 0 16 7 = a
      ∧ t.dev.reply = [Config.mipi, s.dev.rd .identSlot 0] ∧ RegsKept s t [(.fasciaMctpEid, 0)] ∧ MemoryKept s t)
    ∧ let tap (n : Nat) (words : List Nat) (boundary : Nat) : State := { s with dev := { s.dev with
        host := { s.dev.host with jtag := n, boundary := boundary }, sent := s.dev.sent ++ [⟨.jtag, n, words⟩], reply := words } }
      let b := s.dev.host.boundary
      (Does .bypass s fun t => t = tap 0 [] b)
      ∧ (Does .idcode s fun t => t = tap 1 t.dev.reply b ∧ ∃ w, t.dev.reply = [w] ∧ fld w 12 16 = 0x2032 ∧ fld w 0 1 = 1
          ∧ fld w 28 4 = Config.stepping % 16 ∧ fld w 1 11 = Config.jedec % 2048)
      ∧ (∀ bits, Does (.samplePreload bits) s fun t => t = tap 2 [s.dev.rd .hostifSideband 0] bits)
      ∧ (s.dev.ready = true → ∀ r ∈ [Instr.extest, .clamp, .highz], Does r s fun t => t = tap 0 [] b)
      ∧ (s.dev.ready = false → (Does .extest s fun t => t = tap 3 [b] b) ∧ (Does .clamp s fun t => t = tap 4 [b] b) ∧ Does .highz s fun t => t = tap 5 [] b)

/-- The register map: a register instance's offset in PF BAR0 finds that register and that instance, so no two of the spec's registers share a place; a register
reads as it was last written, and no other register changes (R6, R9, Table 0-5; the offsets are those of the files' register tables). -/
def Obligations.RegisterMap : Prop :=
  (∀ (r : Reg) (i : Nat), i < r.instances → findReg (r.addr i) = some (r, i, false) ∧ (r.place.bits = 64 → findReg (r.addr i + 4) = some (r, i, true)))
  ∧ ∀ (d : Dev) (r q : Reg) (i j v : Nat), (d.wr r i v).rd r i = v % 2 ^ r.place.bits ∧ (q.addr j ≠ r.addr i → (d.wr r i v).rd q j = d.rd q j)

/-- Underlay sets: TAKE joins its agreement and is ready with its BLOCKED and DUE; QUERY writes the set records of its bay in ascending UNDERLAY_ID; DISCARD gives
up a set that is not WRITING. The cut beat of a commit with cut holds the module and begins a set, keeping of its bay's own sets the newest COMPLETE one only;
then every page of every UNDERLAY object is protected, sealed as it was at the cut, its uncommitted KV slots as zero, and stored, and with the last one the set is COMPLETE; a write to a protected page finds
its bytes copied; a page that cannot be read or stored ends the set (19 R521 to R524, R526, R527). -/
def Obligations.UnderlaySetsAreTakenAndStored : Prop :=
  ∀ (s : State),
    (∀ (q : Nat) (c : Cmd) (g : List Member) (rank : Nat), Runs s q 0x70 c → c.contribs = [] →
      let id := c.at 20 4
      let op := c.bits 16 0 2
      (op = 0 → (∀ p ∈ s.dev.parts, p.sq ≠ q) → (∀ t ∈ s.dev.turns, t.sq ≠ q) → (∀ x ∈ s.dev.chains, x.sq ≠ q) →
        let maxLost := c.bits 28 0 10
        let good : Bool := c.takeOnly 0 && id != 0 && !(s.dev.ulSets.any fun x => x.bay == c.bay && x.id == id) && inRange 1 1000 maxLost
          && inRange 1 maxLost (c.bits 30 0 10) && inRange 1000 100000 (c.at 36 4)
        (good = false → Does (.underlayTake q) s fun t => Ended s t q c stBadParam 0 ∧ MemoryKept s t ∧ (c.at 48 8 = 0 → Clean s t q c))
        ∧ (good = true → c.trapped = false → s.dev.enginesRun = true → s.dev.part? c.bay (c.at 32 4) = none → s.dev.ulGroup c (c.at 48 8) = .ok (g, rank) →
          (bitAt c.pkt 463 = true → c.bits 56 0 15 < g.length ∧ c.bits 56 0 15 ≠ rank) → s.dev.cutFits c.bay = true → s.dev.rbit .hostifErr 0 3 = false →
          s.dev.now + 1000 * c.at 36 4 ≤ c.at 40 8 → s.dev.memberBad g = none → s.dev.collIn = [] → s.dev.collReports = [] → s.dev.readyIn = [] →
          s.dev.decisionIn = [] →
          let joins (dec : Option (Bool × Nat × Nat)) (t : State) : Prop :=
            (∃ y, t.dev.part? c.bay (c.at 32 4) = some y ∧ y.sq = q ∧ y.opcode = 0x70 ∧ y.group = g ∧ y.rank = rank)
            ∧ ∃ y ∈ t.dev.turns, y.sq = q ∧ y.sheaf = id ∧ y.time = c.at 40 8 ∧ y.guard = c.at 36 4 ∧ y.crc = c.at 24 4 ∧ y.ready = true ∧ y.decision = dec
              ∧ y.force = (c.bits 16 2 1 == 1) ∧ y.blocked = (s.dev.writingSet c.bay).isSome ∧ y.due = s.dev.cutDue c
          (2 ≤ g.length → Does (.underlayTake q) s (joins none))
          ∧ (c.at 48 8 = 0 → c.bits 16 2 1 = 1 ∨ (s.dev.writingSet c.bay = none ∧ s.dev.cutDue c = true) →
            Does (.underlayTake q) s fun t => joins (some (true, 1, s.dev.now)) t
              ∧ ∃ x ∈ t.dev.fab.holds, x.start = c.at 40 8 ∧ x.stop = c.at 40 8 + 1000 * s.dev.rd .errlogUlCutWindowUs 0)))
      ∧ (op = 1 → c.takeOnly 1 = true → c.trapped = false → ∀ d1,
        let ss := (s.dev.ulSets.filter fun s => s.bay == c.bay).foldl
          (fun l x => let i := l.findIdx fun (y : UlSet) => decide (x.id < y.id); l.take i ++ [x] ++ l.drop i) []
        s.dev.writeVa c.bay (c.at 64 8) (ss.flatMap fun x => toLe 64 x.record) = (d1, none) →
        Does (.underlayQuery q) s fun t => Ended s t q c stOk ss.length ∧ t.dev.hbm = d1.hbm ∧ t.dev.ulSets = s.dev.ulSets)
      ∧ (op = 2 → c.takeOnly 2 = true → c.trapped = false → ∀ x, s.dev.ulSets.find? (fun x => x.bay == c.bay && x.id == id) = some x →
        (x.st ≠ 1 → Does (.underlayDiscard q) s fun t => Ended s t q c stOk 0 ∧ MemoryKept s t ∧ RegsKept s t [(.bayCmdsDone, c.bay), (.errlogUlStaged, 0)]
          ∧ t.dev.ulSets = s.dev.ulSets.filter (fun y => y.serial != x.serial) ∧ t.dev.ulPages = s.dev.ulPages.filter fun u => u.set != x.serial)
        ∧ (x.st = 1 → Does (.underlayDiscard q) s fun t => Ended s t q c stBusy 0 ∧ Clean s t q c ∧ MemoryKept s t ∧ t.dev.ulSets = s.dev.ulSets))
      ∧ (op = 2 → s.dev.ulSets.find? (fun x => x.bay == c.bay && x.id == id) = none →
        Does (.underlayDiscard q) s fun t => Ended s t q c stBadParam 0 ∧ Clean s t q c ∧ MemoryKept s t ∧ t.dev.ulSets = s.dev.ulSets))
    ∧ (∀ q p c u, s.dev.takes.find? (fun x => x.1.sq == q) = some (p, c, true, false) → s.dev.turn? p = some u → alignUp u.time 4 ≤ s.dev.now →
      s.dev.rbit .hostifErr 0 3 = false →
      Does (.underlayCut q) s fun t => t.dev.held = true
        ∧ (∃ z ∈ t.dev.ulSets, z.serial = s.dev.ulSerial ∧ z.bay = p.bay ∧ z.id = u.sheaf ∧ z.rank = p.rank ∧ z.st = 1 ∧ z.step = u.crc ∧ z.cut = u.time
            ∧ z.mirrored = false ∧ z.shielded = false)
        ∧ ∀ z ∈ t.dev.ulSets, z.serial = s.dev.ulSerial ∨ (z ∈ s.dev.ulSets ∧ (z.bay = p.bay → z.mirrored = false →
            ∃ y, s.dev.newestComplete p.bay = some y ∧ y.serial = z.serial)))
    ∧ (∀ q x u, s.dev.takes.find? (fun x => x.1.sq == q) = some x → s.dev.writingSet x.1.bay = some u → u.shielded = false → s.dev.bar4 = [] →
      s.dev.fab.heldReqs = [] →
      Does (.underlayProtect q) s fun t =>
        (∃ z ∈ t.dev.ulSets, z.serial = u.serial ∧ z.shielded = true ∧ z.blanks = s.dev.provisional x.1.bay
          ∧ z.objs = (s.dev.ulObjs x.1.bay).map (s.dev.ulAttr (s.dev.provisional x.1.bay))
          ∧ z.bytes = sumN ((s.dev.ulObjs x.1.bay).map fun (o : Obj) => o.size))
        ∧ ∀ o ∈ s.dev.objs, o.bay = x.1.bay → o.underlay = true → ∀ k, k < o.pages →
            ∃ y ∈ t.dev.ulPages, y.set = u.serial ∧ y.objBay = o.bay ∧ y.objId = o.id ∧ y.page = k ∧ y.st = 0)
    ∧ (∀ b x u o, s.dev.writingSet b = some x → s.dev.nextPage x = some u → s.dev.writerRuns = true → x.shielded = true → u.st = 0 →
      s.dev.obj? u.objBay u.objId = some o →
      let n := x.pageSize u.objId
      (s.dev.objErr o (u.page * n) n = none → x.mirror = none → s.dev.members ≠ [] → (s.dev.members.all fun p => !s.dev.nvmeFailed p) = true →
        Does (.underlaySeal b) s fun t => t.dev.nvmeBusy (.page x.serial u.objId u.page) = true ∧ t.dev.hbm = s.dev.hbm
          ∧ ∃ y ∈ t.dev.ulPages, y.set = u.set ∧ y.objId = u.objId ∧ y.page = u.page ∧ y.st = 2 ∧ y.data = s.dev.cutBytes o u.page u.set)
      ∧ (s.dev.objErr o (u.page * n) n ≠ none → Does (.underlaySeal b) s fun t => ∀ z ∈ t.dev.ulSets, z.serial ≠ x.serial))
    ∧ (∀ b obj off o, s.dev.obj? b obj = some o → off < o.size → Does (.firstTouchCopy b obj off) s fun t =>
      RegsKept s t [(.errlogUlTouches, 0), (.errlogUlStaged, 0)] ∧ t = { s with dev := { s.dev with regs := t.dev.regs, ulPages := t.dev.ulPages } }
        ∧ ∀ u ∈ s.dev.ulPages, if u.st = 0 ∧ u.objBay = o.bay ∧ u.objId = o.id ∧ u.page = off / o.pageSize
            then { u with st := 1, staged := some (s.dev.rd .errlogUlTouches 0), data := s.dev.cutBytes o u.page u.set } ∈ t.dev.ulPages else u ∈ t.dev.ulPages)
    ∧ ∀ b obj page x u, (s.dev.ulSets.filter fun y => y.bay == b && y.st == 1) = [x] → (s.dev.ulSets.filter fun y => y.serial == x.serial) = [x] →
      s.dev.ulPages.find? (fun u => u.set == x.serial && u.st == 2 && u.objId == obj && u.page == page) = some u →
      (s.dev.nvmeBusy (.page x.serial obj page) = false → Does (.underlayPageStored b obj page true) s fun t =>
        t.dev.rd .errlogUlWritten 0 = (s.dev.rd .errlogUlWritten 0 + x.pageSize obj) % 2 ^ 64
        ∧ (∃ y ∈ t.dev.ulPages, y.set = x.serial ∧ y.objId = obj ∧ y.page = page ∧ y.st = 3)
        ∧ (x.shielded = true → s.dev.mirrorPending x = false → (∀ w ∈ s.dev.ulPages, w.set = x.serial → w.st = 3 ∨ (w.objId = obj ∧ w.page = page)) →
            ∃ z ∈ t.dev.ulSets, z.serial = x.serial ∧ z.st = 2 ∧ (x.mirrored = false → z.doneAt = s.dev.now)))
      ∧ (x.mirrored = false → Does (.underlayPageStored b obj page false) s fun t => ∀ z ∈ t.dev.ulSets, z.serial ≠ x.serial)

/-- What rests on flash: a restore writes its objects back, discards the own sets cut after it, and here, where the module is its whole group, completes with their
number; REPLAY_CHECK records a loss with a set and compares one with it, exactly or within the tolerance; the mirror rank stores pages and records of a peer's
set and answers a read of it. An NVMe command that completes is counted; one that fails or takes too long is an error, aborted, and after a second more its
controller is reset, with every command of the port gone, and the port FAILED after three resets in a minute; a request outside the buffers is refused
(16 R465, R468, R484; 19 R527, R531, R532, R534). -/
def Obligations.RestoresAndFlash : Prop :=
  ∀ (s : State),
    (∀ (q : Nat) (c : Cmd) (hint : Nat) (x : UlSet) (d1 : Dev), Runs s q 0x71 c → (∀ p ∈ s.dev.parts, p.sq ≠ q) → (∀ p ∈ s.dev.chains, p.sq ≠ q) →
      c.only 1 [(16, 0, 1), (20, 0, 64), (32, 0, 64)] = true → bitAt c.pkt 128 = false → c.at 32 8 = 0 → s.dev.enginesRun = true →
      s.dev.part? c.bay (c.at 24 4) = none → (s.dev.objs.any fun o => o.bay == c.bay && o.place.isSome) = false →
      s.dev.collIn = [] → s.dev.collReports = [] → s.dev.readyIn = [] → s.dev.decisionIn = [] →
      let found := (s.dev.ownSets c.bay).find? fun y => y.id == c.at 20 4 && y.st == 2
      let objs := x.objs.map fun a => (a, s.dev.setObjBytes x a)
      (found = none → c.contribs = [] → Does (.underlayRestore q none hint) s fun t => Ended s t q c stBadParam 0 ∧ t.dev.ulSets = s.dev.ulSets
        ∧ t.dev.hbm = s.dev.hbm)
      ∧ (found = some x → restoreAll c hint s.dev objs = .ok d1 → s.dev.writingSet c.bay = none → c.trapped = false → s.dev.passed c = false →
        s.dev.memberBad (s.dev.alone c.bay) = none → d1.ownSets c.bay = s.dev.ownSets c.bay →
        (objs.all fun y => crc64 (readBytes y.2 0 y.1.size) == y.1.crc) = true →
        Does (.underlayRestore q none hint) s fun t => Ended s t q c stOk x.objs.length ∧ t.dev.hbm = d1.hbm
          ∧ ∀ z ∈ t.dev.ulSets, z.bay = c.bay → z.mirrored = false → z.cut ≤ x.cut))
    ∧ (∀ q c x, Runs s q 0x72 c → (s.dev.ownSets c.bay).find? (fun y => y.id == c.at 20 4) = some x → c.only 1 [(16, 0, 1), (20, 0, 32), (24, 0, 192)] = true →
      isNan .fp64 (c.at 24 8) = false → isFinite .fp64 (c.at 32 8) = true → c.at 32 8 ≤ 2 ^ 63 → x.st = 1 ∨ x.st = 2 → c.trapped = false →
      (c.bits 16 0 1 = 0 → Does (.replayRecord q) s fun t => Ended s t q c stOk 0 ∧ t.dev.hbm = s.dev.hbm
        ∧ ∃ z ∈ t.dev.ulSets, z = { x with lossValid := true, loss := c.at 24 8, tokens := c.at 40 8 })
      ∧ (c.bits 16 0 1 = 1 → x.lossValid = true →
        let near : Bool := !isZero .fp64 (c.at 32 8) && (((decode .fp64 (c.at 24 8)).add (decode .fp64 x.loss).neg).abs).le (decode .fp64 (c.at 32 8))
        (c.at 40 8 = x.tokens → c.at 24 8 = x.loss → Does (.replayCheck q) s fun t => Ended s t q c stOk 0 ∧ Clean s t q c ∧ MemoryKept s t)
        ∧ (c.at 40 8 = x.tokens → c.at 24 8 ≠ x.loss → near = true → Does (.replayCheck q) s fun t => Ended s t q c stOk 1 ∧ Clean s t q c ∧ MemoryKept s t)
        ∧ (c.at 40 8 ≠ x.tokens ∨ (c.at 24 8 ≠ x.loss ∧ near = false) → Does (.replayCheck q) s fun t => Ended s t q c stReplayMismatch 0 ∧ MemoryKept s t
          ∧ fld (smGet 0 t.dev.errRing (s.dev.rd .errlogSeq 0 % 64)) 128 16 = 0x51)))
    ∧ (∀ h b rank id d1, s.dev.accept h 3 = (d1, true) →
      let known := s.dev.ulSets.find? fun x => x.bay == b && x.mirrored && x.rank == rank && x.id == id
      (∀ step cut objs obj page data, (s.dev.ulSets.any fun x => x.bay == b && x.mirrored && x.rank == rank) = false →
        (s.dev.ulSets.filter fun x => x.bay == b).length < 4 → sumN (objs.map fun (a : UlAttr) => a.size) ≤ s.dev.ulAreaFree → s.dev.members ≠ [] →
        (s.dev.members.all fun p => !s.dev.nvmeFailed p) = true → (s.dev.ulPages.any fun y => y.set == s.dev.ulSerial) = false →
        Does (.mirrorPageRx h b rank id (.page step cut objs obj page data)) s fun t => (∃ z ∈ t.dev.ulSets, z.serial = s.dev.ulSerial ∧ z.bay = b ∧ z.id = id
            ∧ z.mirrored = true ∧ z.rank = rank ∧ z.st = 1 ∧ z.step = step ∧ z.cut = cut ∧ z.objs = objs)
          ∧ ∃ y ∈ t.dev.ulPages, y.set = s.dev.ulSerial ∧ y.objId = obj ∧ y.page = page ∧ y.st = 2)
      ∧ (∀ x done objs lv loss tokens, known = some x → (s.dev.ulSets.filter fun y => y.serial == x.serial) = [x] →
        Does (.mirrorPageRx h b rank id (.update done objs lv loss tokens)) s fun t =>
        ∃ z ∈ t.dev.ulSets, z.serial = x.serial ∧ z.doneAt = done ∧ z.objs = objs ∧ z.lossValid = lv ∧ z.loss = loss ∧ z.tokens = tokens)
      ∧ Does (.mirrorPageRx h b rank id .read) s fun t => ∃ f ∈ t.dev.fab.frames, f.dst = h.src ∧ f.kind = 18 ∧ f.vc = 3
          ∧ f.words.take 6 = match known with | none => [b, rank, id, 2] | some x => [b, rank, id, 3, x.step, x.cut])
    ∧ (∀ port id c, s.dev.nvmeCmd? port id = some c →
      let left := s.dev.nvme.filter fun x => !(x.port == port && x.id == id)
      (∀ status, c.aborted = none → status % 65536 = 0 → Does (.nvmeCompletion port id status) s fun t =>
        let n := if c.write then Reg.nvmeWrites else .nvmeReads
        let m := if c.write then Reg.nvmeWriteBytes else .nvmeReadBytes
        t.dev.rd n port = (s.dev.rd n port + 1) % 2 ^ 64 ∧ t.dev.rd m port = (s.dev.rd m port + c.bytes) % 2 ^ 64 ∧ RegsKept s t [(n, port), (m, port)]
          ∧ t = { s with dev := { s.dev with regs := t.dev.regs, nvme := left } })
      ∧ (∀ status, c.aborted = none → status % 65536 ≠ 0 → Does (.nvmeCompletion port id status) s fun t =>
        t.dev.rd .nvmeErrors port = min (s.dev.rd .nvmeErrors port + 1) (2 ^ 32 - 1) ∧ t.dev.rd .nvmeLastStatus port = status % 65536
          ∧ ∀ set obj page, c.use = .page set obj page → t.dev.nvme = left ∧ ∀ z ∈ t.dev.ulSets, z.st = 1 → z.mirrored = false →
            (∀ y ∈ s.dev.ulSets, y.serial = set → y.mirrored = false) → z.serial ≠ set)
      ∧ (c.aborted = none → c.at_ + 1000000 * s.dev.fd .nvmeTimeoutMs port 0 16 ≤ s.dev.now → Does (.nvmeTimeout port id) s fun t =>
        t.dev.rd .nvmeErrors port = min (s.dev.rd .nvmeErrors port + 1) (2 ^ 32 - 1) ∧ t.dev.rd .nvmeLastStatus port = 0xFFFF
          ∧ { c with aborted := some s.dev.now } ∈ t.dev.nvme ∧ t = { s with dev := { s.dev with regs := t.dev.regs, nvme := t.dev.nvme } })
      ∧ (∀ since, c.aborted = some since → since + 1000000000 ≤ s.dev.now → Does (.nvmeResetTimeout port id) s fun t =>
        (∀ x ∈ t.dev.nvme, x.port ≠ port) ∧ (port < 4 → 2 ≤ (s.dev.nvmeResets.filter fun r => decide (s.dev.now < r.2 + 60000000000) && r.1 == port).length →
          t.dev.fd .nvmePortSts port 0 2 = 3)))
    ∧ (∀ port pct units, port < 4 → s.dev.fd .nvmePortSts port 0 2 = 2 → Does (.nvmeSmartRefresh port pct units) s fun t =>
      t.dev.rd .nvmePctUsed port = min pct 255 ∧ t.dev.rd .nvmeUnitsWritten port = units % 2 ^ 64
        ∧ RegsKept s t [(.nvmePctUsed, port), (.nvmeUnitsWritten, port)] ∧ t = { s with dev := { s.dev with regs := t.dev.regs } })
    ∧ ∀ port inBuffer, port < 4 →
      ((inBuffer = true ∧ (s.dev.nvme.any fun c => c.port == port) = true) → Does (.ssdDmaRequest port inBuffer) s fun t => t = s)
      ∧ ((inBuffer = false ∨ (s.dev.nvme.any fun c => c.port == port) = false) → Does (.ssdDmaRequest port inBuffer) s fun t =>
        t.dev.rd .nvmeErrors port = min (s.dev.rd .nvmeErrors port + 1) (2 ^ 32 - 1) ∧ RegsKept s t [(.nvmeErrors, port)] ∧ MemoryKept s t)
end

