-- ==== Sys2Proof/Laws/Sparse.lean ====
section
/-!
SUPPORT. Laws/Sparse.lean: reading after writing for sparse data and byte memories, and the canonical form that every memory
operation keeps.
-/
namespace Sys2Proof.Machine

theorem smAbove_of_smAbove_lt {α : Type} {a b : Nat} {m : SMap α} (h : a < b) (hm : smAbove b m = true) : smAbove a m = true := by
  cases m with
  | nil => rfl
  | cons e r => simp only [smAbove, decide_eq_true_eq] at hm ⊢; omega

theorem smFind_of_smAbove {α : Type} {a : Nat} {m : SMap α} (hs : smSorted m = true) (h : smAbove a m = true) : smFind m a = none := by
  induction m with
  | nil => rfl
  | cons e r ih =>
    obtain ⟨k, v⟩ := e
    simp only [smAbove, decide_eq_true_eq, smSorted, Bool.and_eq_true] at h hs
    have : a ≠ k := by omega
    simp only [smFind, this, if_false]
    exact ih hs.2 (smAbove_of_smAbove_lt h hs.1)

theorem smWf_sorted {α : Type} [DecidableEq α] {d : α} {m : SMap α} (h : smWf d m = true) : smSorted m = true := by
  induction m with
  | nil => rfl
  | cons e r ih =>
    simp only [smWf, smSorted, Bool.and_eq_true] at h ⊢
    exact ⟨h.1.1, ih h.2⟩

@[simp] theorem smFind_smPut_same {α : Type} (m : SMap α) (a : Nat) (x : α) : smFind (smPut m a x) a = some x := by
  induction m with
  | nil => simp [smPut, smFind]
  | cons e r ih =>
    obtain ⟨k, v⟩ := e
    simp only [smPut]
    split
    · simp [smFind]
    · split
      · simp [smFind]
      · simp only [smFind]; split
        · contradiction
        · exact ih

theorem smFind_smPut_other {α : Type} (m : SMap α) {a b : Nat} (x : α) (h : b ≠ a) : smFind (smPut m a x) b = smFind m b := by
  induction m with
  | nil => simp [smPut, smFind, h]
  | cons e r ih =>
    obtain ⟨k, v⟩ := e
    simp only [smPut]
    split
    · simp [smFind, h]
    · split
      · next hk => subst hk; simp [smFind, h]
      · simp [smFind, ih]

theorem smFind_smDel_other {α : Type} (m : SMap α) {a b : Nat} (h : b ≠ a) : smFind (smDel m a) b = smFind m b := by
  induction m with
  | nil => rfl
  | cons e r ih =>
    obtain ⟨k, v⟩ := e
    simp only [smDel, List.filter_cons] at ih ⊢
    by_cases hk : k = a
    · subst hk; simp [smFind, h, ih]
    · simp [hk, smFind, ih]

theorem smFind_smDel_same {α : Type} (m : SMap α) (a : Nat) : smFind (smDel m a) a = none := by
  induction m with
  | nil => rfl
  | cons e r ih =>
    obtain ⟨k, v⟩ := e
    simp only [smDel, List.filter_cons] at ih ⊢
    by_cases hk : k = a
    · subst hk; simp [ih]
    · have : a ≠ k := fun h => hk h.symm
      simp [hk, smFind, ih, this]

theorem smAbove_smPut {α : Type} {m : SMap α} {k a : Nat} (x : α) (h : smAbove k m = true) (ha : k < a) : smAbove k (smPut m a x) = true := by
  cases m with
  | nil => simp [smPut, smAbove, ha]
  | cons e r =>
    obtain ⟨j, v⟩ := e
    simp only [smAbove, decide_eq_true_eq] at h
    simp only [smPut]
    split
    · simp [smAbove, ha]
    · split
      · simp [smAbove, ha]
      · simp [smAbove, h]

theorem smWf_smPut {α : Type} [DecidableEq α] {d : α} {m : SMap α} (a : Nat) {x : α} (h : smWf d m = true) (hx : x ≠ d) :
    smWf d (smPut m a x) = true := by
  induction m with
  | nil => simp [smPut, smWf, smAbove, hx]
  | cons e r ih =>
    obtain ⟨k, v⟩ := e
    simp only [smWf, Bool.and_eq_true, decide_eq_true_eq] at h
    simp only [smPut]
    split
    · next hk =>
      have hb : smAbove a ((k, v) :: r) = true := by simp [smAbove, hk]
      simp only [smWf, Bool.and_eq_true, decide_eq_true_eq]
      exact ⟨⟨hb, hx⟩, h⟩
    · split
      · next hk => subst hk; simp [smWf, h, hx]
      · next h1 h2 =>
        simp only [smWf, Bool.and_eq_true, decide_eq_true_eq]
        exact ⟨⟨smAbove_smPut x h.1.1 (by omega), h.1.2⟩, ih h.2⟩

theorem smWf_filter {α : Type} [DecidableEq α] {d : α} {m : SMap α} (p : Nat × α → Bool) (h : smWf d m = true) : smWf d (m.filter p) = true := by
  induction m with
  | nil => rfl
  | cons e r ih =>
    obtain ⟨k, v⟩ := e
    simp only [smWf, Bool.and_eq_true, decide_eq_true_eq] at h
    have above : ∀ (l : SMap α), smSorted l = true → smAbove k l = true → smAbove k (l.filter p) = true := by
      intro l
      induction l with
      | nil => intros; rfl
      | cons f t iht =>
        intro hs ha
        simp only [smSorted, Bool.and_eq_true] at hs
        simp only [smAbove, decide_eq_true_eq] at ha
        simp only [List.filter_cons]
        split
        · simp [smAbove, ha]
        · exact iht hs.2 (smAbove_of_smAbove_lt ha hs.1)
    simp only [List.filter_cons]
    split
    · simp only [smWf, Bool.and_eq_true, decide_eq_true_eq]
      exact ⟨⟨above r (smWf_sorted h.2) h.1.1, h.1.2⟩, ih h.2⟩
    · exact ih h.2

theorem smWf_smDel {α : Type} [DecidableEq α] {d : α} {m : SMap α} (a : Nat) (h : smWf d m = true) : smWf d (smDel m a) = true :=
  smWf_filter _ h

/-- A write keeps the canonical form. -/
theorem smWf_smSet {α : Type} [DecidableEq α] {d : α} {m : SMap α} (a : Nat) (x : α) (h : smWf d m = true) : smWf d (smSet d m a x) = true := by
  simp only [smSet]
  split
  · exact smWf_smDel a h
  · next hx => exact smWf_smPut a h hx

/-- A read after a write of the same key. -/
theorem smGet_smSet_same {α : Type} [DecidableEq α] (d : α) (m : SMap α) (a : Nat) (x : α) :
    smGet d (smSet d m a x) a = x := by
  simp only [smGet, smSet]
  split
  · next hx => subst hx; rw [smFind_smDel_same]; rfl
  · rw [smFind_smPut_same]; rfl

/-- A write leaves every other key alone. -/
theorem smGet_smSet_other {α : Type} [DecidableEq α] (d : α) (m : SMap α) {a b : Nat} (x : α) (h : b ≠ a) :
    smGet d (smSet d m a x) b = smGet d m b := by
  simp only [smGet, smSet]
  split
  · rw [smFind_smDel_other m h]
  · rw [smFind_smPut_other m x h]

/-! ## Byte memories -/

theorem wf_writeBytes {m : List Host.Cell} (a : Nat) (bs : List Byte) (h : Memory.wf m = true) : Memory.wf (writeBytes m a bs) = true := by
  induction bs generalizing m a with
  | nil => exact h
  | cons x r ih => exact ih (a + 1) (smWf_smSet a x h)

theorem wf_clearRange {m : List Host.Cell} (a n : Nat) (h : Memory.wf m = true) : Memory.wf (clearRange m a n) = true := smWf_filter _ h

theorem wf_putRange {m : List Host.Cell} (a n : Nat) (s : List Host.Cell) (h : Memory.wf m = true) : Memory.wf (putRange m a n s) = true := by
  have : ∀ (l : List Host.Cell) (x : List Host.Cell), Memory.wf x = true →
      Memory.wf (l.foldl (fun m c => smSet 0 m (a + c.1) c.2) x) = true := by
    intro l
    induction l with
    | nil => intro x hx; exact hx
    | cons c r ih => intro x hx; exact ih _ (smWf_smSet _ _ hx)
  exact this s _ (wf_clearRange a n h)

/-- A byte outside the written range reads as before. -/
theorem smGet_writeBytes_outside (m : List Host.Cell) (a : Nat) (bs : List Byte) {b : Nat} (h : b < a ∨ a + bs.length ≤ b) :
    smGet 0 (writeBytes m a bs) b = smGet 0 m b := by
  induction bs generalizing m a with
  | nil => rfl
  | cons x r ih =>
    simp only [List.length_cons] at h
    simp only [writeBytes]
    rw [ih (smSet 0 m a x) (a + 1) (by omega)]
    exact smGet_smSet_other 0 m x (by omega)

/-- Bytes read back as they were written. -/
theorem readBytes_writeBytes (m : List Host.Cell) (a : Nat) (bs : List Byte) :
    readBytes (writeBytes m a bs) a bs.length = bs := by
  induction bs generalizing m a with
  | nil => rfl
  | cons x r ih =>
    simp only [writeBytes, List.length_cons, readBytes]
    rw [ih (smSet 0 m a x) (a + 1), smGet_writeBytes_outside _ _ _ (by omega), smGet_smSet_same]

@[simp] theorem readBytes_length (m : List Host.Cell) (a n : Nat) : (readBytes m a n).length = n := by
  induction n generalizing a with
  | zero => rfl
  | succ n ih => simp [readBytes, ih]

/-- The memories of the module after reset are in canonical form. -/
theorem wf_reset : Memory.wf State.reset.dev.hbm = true ∧ Memory.wf State.reset.dev.loft = true ∧ Memory.wf State.reset.dev.hostMem = true
    ∧ Memory.wf State.reset.dev.stage = true ∧ Memory.wf State.reset.dev.peerMem = true := by decide

end Sys2Proof.Machine
end

