-- ==== Sys2Proof/Laws/Regs.lean ====
section
/-!
SUPPORT. Laws/Regs.lean: bit fields, and registers: reading one after writing it or another.
-/
namespace Sys2Proof.Machine

theorem setFld_eq (n lo w v : Nat) : setFld n lo w v = n % 2 ^ lo + 2 ^ lo * (v % 2 ^ w + 2 ^ w * (n / 2 ^ lo / 2 ^ w)) := by
  unfold setFld fld
  have h1 := Nat.div_add_mod n (2 ^ lo)
  have h2 := Nat.div_add_mod (n / 2 ^ lo) (2 ^ w)
  generalize hP : (2 : Nat) ^ lo = P at *
  generalize hW : (2 : Nat) ^ w = W at *
  generalize n / P = a at *
  generalize hq : a / W = q at *
  generalize hm : a % W = m at *
  generalize hr : n % P = r at *
  generalize v % W = x at *
  subst h1
  rw [← h2]
  rw [Nat.mul_add P (W * q) m, Nat.mul_comm P m, Nat.mul_add P x, Nat.mul_comm x P]
  omega

@[simp] theorem fld_setFld_same (n lo w v : Nat) : fld (setFld n lo w v) lo w = v % 2 ^ w := by
  rw [setFld_eq]
  unfold fld
  rw [Nat.add_mul_div_left _ _ (Nat.two_pow_pos lo), Nat.div_eq_of_lt (Nat.mod_lt _ (Nat.two_pow_pos lo)), Nat.zero_add,
    Nat.add_mul_mod_self_left, Nat.mod_mod]

theorem fld_mod {n k lo w : Nat} (h : lo + w ≤ k) : fld (n % 2 ^ k) lo w = fld n lo w := by
  unfold fld
  obtain ⟨j, rfl⟩ := Nat.le.dest h
  rw [show lo + w + j = lo + (w + j) by omega, Nat.pow_add, Nat.mod_mul_right_div_self, Nat.pow_add, Nat.mod_mul_right_mod]

theorem fld_setFld_below {n lo w v lo' w' : Nat} (h : lo' + w' ≤ lo) : fld (setFld n lo w v) lo' w' = fld n lo' w' := by
  rw [← fld_mod (n := n) h, ← fld_mod (n := setFld n lo w v) h, setFld_eq, Nat.add_mul_mod_self_left, Nat.mod_mod]

theorem fld_setFld_above {n lo w v lo' w' : Nat} (h : lo + w ≤ lo') : fld (setFld n lo w v) lo' w' = fld n lo' w' := by
  obtain ⟨j, rfl⟩ := Nat.le.dest h
  unfold fld
  have key : setFld n lo w v / 2 ^ (lo + w + j) = n / 2 ^ (lo + w + j) := by
    rw [Nat.pow_add, ← Nat.div_div_eq_div_mul, ← Nat.div_div_eq_div_mul n]
    congr 1
    rw [Nat.pow_add, ← Nat.div_div_eq_div_mul, ← Nat.div_div_eq_div_mul n, setFld_eq, Nat.add_mul_div_left _ _ (Nat.two_pow_pos lo),
      Nat.div_eq_of_lt (Nat.mod_lt _ (Nat.two_pow_pos lo)), Nat.zero_add, Nat.add_mul_div_left _ _ (Nat.two_pow_pos w),
      Nat.div_eq_of_lt (Nat.mod_lt _ (Nat.two_pow_pos w)), Nat.zero_add]
  rw [key]

theorem bitAt_eq (n i : Nat) : bitAt n i = (fld n i 1 == 1) := by simp [bitAt, fld]

@[simp] theorem bitAt_setFld_one (n i v : Nat) : bitAt (setFld n i 1 v) i = (v % 2 == 1) := by simp [bitAt_eq]

/-! ## Registers -/

/-- A register reads as it was written. -/
@[simp] theorem rd_wr_same (d : Dev) (r : Reg) (i v : Nat) : (d.wr r i v).rd r i = v % 2 ^ r.place.bits := by
  unfold Dev.rd Dev.wr
  exact smGet_smSet_same (r.reset i) d.regs (r.addr i) _

/-- A write of a register leaves the others alone. -/
theorem rd_wr_other (d : Dev) {r q : Reg} {i j : Nat} (v : Nat) (h : q.addr j ≠ r.addr i) : (d.wr r i v).rd q j = d.rd q j := by
  unfold Dev.rd Dev.wr
  simp only [smSet]
  split
  · rw [smFind_smDel_other _ h]
  · rw [smFind_smPut_other _ _ h]

theorem sf_eq (d : Dev) (r : Reg) (i lo w v : Nat) : d.sf r i lo w v = d.wr r i (setFld (d.rd r i) lo w v) := rfl
theorem sb_eq (d : Dev) (r : Reg) (i lo : Nat) (b : Bool) : d.sb r i lo b = d.wr r i (setFld (d.rd r i) lo 1 (if b then 1 else 0)) := rfl
theorem addW_eq (d : Dev) (r : Reg) (i k : Nat) : d.addW r i k = d.wr r i (addWrap r.place.bits (d.rd r i) k) := rfl
theorem addS_eq (d : Dev) (r : Reg) (i k : Nat) : d.addS r i k = d.wr r i (addSat r.place.bits (d.rd r i) k) := rfl

/-- A field reads as it was set. -/
theorem fd_sf_same (d : Dev) (r : Reg) (i v : Nat) {lo w : Nat} (h : lo + w ≤ r.place.bits) : (d.sf r i lo w v).fd r i lo w = v % 2 ^ w := by
  rw [sf_eq]; unfold Dev.fd; rw [rd_wr_same, fld_mod h, fld_setFld_same]

/-- Setting a field leaves the register's other fields alone. -/
theorem fd_sf_other (d : Dev) (r : Reg) (i v : Nat) {lo w lo' w' : Nat} (hb : lo' + w' ≤ r.place.bits) (h : lo + w ≤ lo' ∨ lo' + w' ≤ lo) :
    (d.sf r i lo w v).fd r i lo' w' = d.fd r i lo' w' := by
  rw [sf_eq]; unfold Dev.fd; rw [rd_wr_same, fld_mod hb]
  cases h with
  | inl h => exact fld_setFld_above h
  | inr h => exact fld_setFld_below h

theorem rbit_eq (d : Dev) (r : Reg) (i lo : Nat) : d.rbit r i lo = (d.fd r i lo 1 == 1) := bitAt_eq _ _

/-- A bit reads as it was set. -/
theorem rbit_sb_same (d : Dev) (r : Reg) (i : Nat) (b : Bool) {lo : Nat} (h : lo + 1 ≤ r.place.bits) : (d.sb r i lo b).rbit r i lo = b := by
  rw [rbit_eq]; unfold Dev.sb; rw [fd_sf_same d r i _ h]; cases b <;> rfl

/-- Another register's field after a register write. -/
theorem fd_wr_other (d : Dev) {r q : Reg} {i j : Nat} (v lo w : Nat) (h : q.addr j ≠ r.addr i) : (d.wr r i v).fd q j lo w = d.fd q j lo w := by
  unfold Dev.fd; rw [rd_wr_other d v h]

/-- Another register's bit after a register write. -/
theorem rbit_wr_other (d : Dev) {r q : Reg} {i j : Nat} (v lo : Nat) (h : q.addr j ≠ r.addr i) : (d.wr r i v).rbit q j lo = d.rbit q j lo := by
  unfold Dev.rbit; rw [rd_wr_other d v h]

end Sys2Proof.Machine
end

