-- ==== Sys2Proof/Laws/State.lean ====
section
/-!
SUPPORT. Laws/State.lean: what each named update of the module leaves alone, one lemma for each field; the register updates all are
`wr` (Laws/Regs.lean).
-/
namespace Sys2Proof.Machine

/-! ## wr -/

@[simp] theorem wr_now (d : Dev) (r : Reg) (i v : Nat) : (d.wr r i v).now = d.now := rfl
@[simp] theorem wr_free (d : Dev) (r : Reg) (i v : Nat) : (d.wr r i v).free = d.free := rfl
@[simp] theorem wr_readLatch (d : Dev) (r : Reg) (i v : Nat) : (d.wr r i v).readLatch = d.readLatch := rfl
@[simp] theorem wr_writeLatch (d : Dev) (r : Reg) (i v : Nat) : (d.wr r i v).writeLatch = d.writeLatch := rfl
@[simp] theorem wr_msix (d : Dev) (r : Reg) (i v : Nat) : (d.wr r i v).msix = d.msix := rfl
@[simp] theorem wr_msixPending (d : Dev) (r : Reg) (i v : Nat) : (d.wr r i v).msixPending = d.msixPending := rfl
@[simp] theorem wr_hbm (d : Dev) (r : Reg) (i v : Nat) : (d.wr r i v).hbm = d.hbm := rfl
@[simp] theorem wr_hbmBad (d : Dev) (r : Reg) (i v : Nat) : (d.wr r i v).hbmBad = d.hbmBad := rfl
@[simp] theorem wr_loft (d : Dev) (r : Reg) (i v : Nat) : (d.wr r i v).loft = d.loft := rfl
@[simp] theorem wr_loftBad (d : Dev) (r : Reg) (i v : Nat) : (d.wr r i v).loftBad = d.loftBad := rfl
@[simp] theorem wr_loftSoft (d : Dev) (r : Reg) (i v : Nat) : (d.wr r i v).loftSoft = d.loftSoft := rfl
@[simp] theorem wr_hostMem (d : Dev) (r : Reg) (i v : Nat) : (d.wr r i v).hostMem = d.hostMem := rfl
@[simp] theorem wr_hostBad (d : Dev) (r : Reg) (i v : Nat) : (d.wr r i v).hostBad = d.hostBad := rfl
@[simp] theorem wr_stage (d : Dev) (r : Reg) (i v : Nat) : (d.wr r i v).stage = d.stage := rfl
@[simp] theorem wr_objs (d : Dev) (r : Reg) (i v : Nat) : (d.wr r i v).objs = d.objs := rfl
@[simp] theorem wr_peerMem (d : Dev) (r : Reg) (i v : Nat) : (d.wr r i v).peerMem = d.peerMem := rfl
@[simp] theorem wr_bays (d : Dev) (r : Reg) (i v : Nat) : (d.wr r i v).bays = d.bays := rfl
@[simp] theorem wr_sqs (d : Dev) (r : Reg) (i v : Nat) : (d.wr r i v).sqs = d.sqs := rfl
@[simp] theorem wr_cqs (d : Dev) (r : Reg) (i v : Nat) : (d.wr r i v).cqs = d.cqs := rfl
@[simp] theorem wr_kernels (d : Dev) (r : Reg) (i v : Nat) : (d.wr r i v).kernels = d.kernels := rfl
@[simp] theorem wr_copies (d : Dev) (r : Reg) (i v : Nat) : (d.wr r i v).copies = d.copies := rfl
@[simp] theorem wr_steps (d : Dev) (r : Reg) (i v : Nat) : (d.wr r i v).steps = d.steps := rfl
@[simp] theorem wr_arr (d : Dev) (r : Reg) (i v : Nat) : (d.wr r i v).arr = d.arr := rfl
@[simp] theorem wr_sched (d : Dev) (r : Reg) (i v : Nat) : (d.wr r i v).sched = d.sched := rfl
@[simp] theorem wr_cache0 (d : Dev) (r : Reg) (i v : Nat) : (d.wr r i v).cache0 = d.cache0 := rfl
@[simp] theorem wr_cache1 (d : Dev) (r : Reg) (i v : Nat) : (d.wr r i v).cache1 = d.cache1 := rfl
@[simp] theorem wr_misses0 (d : Dev) (r : Reg) (i v : Nat) : (d.wr r i v).misses0 = d.misses0 := rfl
@[simp] theorem wr_misses1 (d : Dev) (r : Reg) (i v : Nat) : (d.wr r i v).misses1 = d.misses1 := rfl
@[simp] theorem wr_startOrder (d : Dev) (r : Reg) (i v : Nat) : (d.wr r i v).startOrder = d.startOrder := rfl
@[simp] theorem wr_errRing (d : Dev) (r : Reg) (i v : Nat) : (d.wr r i v).errRing = d.errRing := rfl
@[simp] theorem wr_corrAt (d : Dev) (r : Reg) (i v : Nat) : (d.wr r i v).corrAt = d.corrAt := rfl
@[simp] theorem wr_sent (d : Dev) (r : Reg) (i v : Nat) : (d.wr r i v).sent = d.sent := rfl
@[simp] theorem wr_reply (d : Dev) (r : Reg) (i v : Nat) : (d.wr r i v).reply = d.reply := rfl
@[simp] theorem wr_lath (d : Dev) (r : Reg) (i v : Nat) : (d.wr r i v).lath = d.lath := rfl
@[simp] theorem wr_engUpset (d : Dev) (r : Reg) (i v : Nat) : (d.wr r i v).engUpset = d.engUpset := rfl
@[simp] theorem wr_eave (d : Dev) (r : Reg) (i v : Nat) : (d.wr r i v).eave = d.eave := rfl
@[simp] theorem wr_ulPages (d : Dev) (r : Reg) (i v : Nat) : (d.wr r i v).ulPages = d.ulPages := rfl
@[simp] theorem wr_ulSets (d : Dev) (r : Reg) (i v : Nat) : (d.wr r i v).ulSets = d.ulSets := rfl
@[simp] theorem wr_ulSerial (d : Dev) (r : Reg) (i v : Nat) : (d.wr r i v).ulSerial = d.ulSerial := rfl
@[simp] theorem wr_nvme (d : Dev) (r : Reg) (i v : Nat) : (d.wr r i v).nvme = d.nvme := rfl
@[simp] theorem wr_nvmeId (d : Dev) (r : Reg) (i v : Nat) : (d.wr r i v).nvmeId = d.nvmeId := rfl
@[simp] theorem wr_nvmeResets (d : Dev) (r : Reg) (i v : Nat) : (d.wr r i v).nvmeResets = d.nvmeResets := rfl
@[simp] theorem wr_wear (d : Dev) (r : Reg) (i v : Nat) : (d.wr r i v).wear = d.wear := rfl
@[simp] theorem wr_passes (d : Dev) (r : Reg) (i v : Nat) : (d.wr r i v).passes = d.passes := rfl
@[simp] theorem wr_batten (d : Dev) (r : Reg) (i v : Nat) : (d.wr r i v).batten = d.batten := rfl
@[simp] theorem wr_delivered (d : Dev) (r : Reg) (i v : Nat) : (d.wr r i v).delivered = d.delivered := rfl
@[simp] theorem wr_linkDropped (d : Dev) (r : Reg) (i v : Nat) : (d.wr r i v).linkDropped = d.linkDropped := rfl
@[simp] theorem wr_parts (d : Dev) (r : Reg) (i v : Nat) : (d.wr r i v).parts = d.parts := rfl
@[simp] theorem wr_collIn (d : Dev) (r : Reg) (i v : Nat) : (d.wr r i v).collIn = d.collIn := rfl
@[simp] theorem wr_collReports (d : Dev) (r : Reg) (i v : Nat) : (d.wr r i v).collReports = d.collReports := rfl
@[simp] theorem wr_chains (d : Dev) (r : Reg) (i v : Nat) : (d.wr r i v).chains = d.chains := rfl
@[simp] theorem wr_turns (d : Dev) (r : Reg) (i v : Nat) : (d.wr r i v).turns = d.turns := rfl
@[simp] theorem wr_readyIn (d : Dev) (r : Reg) (i v : Nat) : (d.wr r i v).readyIn = d.readyIn := rfl
@[simp] theorem wr_decisionIn (d : Dev) (r : Reg) (i v : Nat) : (d.wr r i v).decisionIn = d.decisionIn := rfl
@[simp] theorem wr_baseGrants (d : Dev) (r : Reg) (i v : Nat) : (d.wr r i v).baseGrants = d.baseGrants := rfl
@[simp] theorem wr_turnEnded (d : Dev) (r : Reg) (i v : Nat) : (d.wr r i v).turnEnded = d.turnEnded := rfl
@[simp] theorem wr_fab (d : Dev) (r : Reg) (i v : Nat) : (d.wr r i v).fab = d.fab := rfl
@[simp] theorem wr_peerBad (d : Dev) (r : Reg) (i v : Nat) : (d.wr r i v).peerBad = d.peerBad := rfl
@[simp] theorem wr_pow (d : Dev) (r : Reg) (i v : Nat) : (d.wr r i v).pow = d.pow := rfl
@[simp] theorem wr_bar4 (d : Dev) (r : Reg) (i v : Nat) : (d.wr r i v).bar4 = d.bar4 := rfl
@[simp] theorem wr_deferredTests (d : Dev) (r : Reg) (i v : Nat) : (d.wr r i v).deferredTests = d.deferredTests := rfl
@[simp] theorem wr_host (d : Dev) (r : Reg) (i v : Nat) : (d.wr r i v).host = d.host := rfl
@[simp] theorem wr_bring (d : Dev) (r : Reg) (i v : Nat) : (d.wr r i v).bring = d.bring := rfl

/-! ## send -/

@[simp] theorem send_now (d : Dev) (p : Port) (k : Nat) (ws : List Nat) : (d.send p k ws).now = d.now := rfl
@[simp] theorem send_free (d : Dev) (p : Port) (k : Nat) (ws : List Nat) : (d.send p k ws).free = d.free := rfl
@[simp] theorem send_regs (d : Dev) (p : Port) (k : Nat) (ws : List Nat) : (d.send p k ws).regs = d.regs := rfl
@[simp] theorem send_readLatch (d : Dev) (p : Port) (k : Nat) (ws : List Nat) : (d.send p k ws).readLatch = d.readLatch := rfl
@[simp] theorem send_writeLatch (d : Dev) (p : Port) (k : Nat) (ws : List Nat) : (d.send p k ws).writeLatch = d.writeLatch := rfl
@[simp] theorem send_msix (d : Dev) (p : Port) (k : Nat) (ws : List Nat) : (d.send p k ws).msix = d.msix := rfl
@[simp] theorem send_msixPending (d : Dev) (p : Port) (k : Nat) (ws : List Nat) : (d.send p k ws).msixPending = d.msixPending := rfl
@[simp] theorem send_hbm (d : Dev) (p : Port) (k : Nat) (ws : List Nat) : (d.send p k ws).hbm = d.hbm := rfl
@[simp] theorem send_hbmBad (d : Dev) (p : Port) (k : Nat) (ws : List Nat) : (d.send p k ws).hbmBad = d.hbmBad := rfl
@[simp] theorem send_loft (d : Dev) (p : Port) (k : Nat) (ws : List Nat) : (d.send p k ws).loft = d.loft := rfl
@[simp] theorem send_loftBad (d : Dev) (p : Port) (k : Nat) (ws : List Nat) : (d.send p k ws).loftBad = d.loftBad := rfl
@[simp] theorem send_loftSoft (d : Dev) (p : Port) (k : Nat) (ws : List Nat) : (d.send p k ws).loftSoft = d.loftSoft := rfl
@[simp] theorem send_hostMem (d : Dev) (p : Port) (k : Nat) (ws : List Nat) : (d.send p k ws).hostMem = d.hostMem := rfl
@[simp] theorem send_hostBad (d : Dev) (p : Port) (k : Nat) (ws : List Nat) : (d.send p k ws).hostBad = d.hostBad := rfl
@[simp] theorem send_stage (d : Dev) (p : Port) (k : Nat) (ws : List Nat) : (d.send p k ws).stage = d.stage := rfl
@[simp] theorem send_objs (d : Dev) (p : Port) (k : Nat) (ws : List Nat) : (d.send p k ws).objs = d.objs := rfl
@[simp] theorem send_peerMem (d : Dev) (p : Port) (k : Nat) (ws : List Nat) : (d.send p k ws).peerMem = d.peerMem := rfl
@[simp] theorem send_bays (d : Dev) (p : Port) (k : Nat) (ws : List Nat) : (d.send p k ws).bays = d.bays := rfl
@[simp] theorem send_sqs (d : Dev) (p : Port) (k : Nat) (ws : List Nat) : (d.send p k ws).sqs = d.sqs := rfl
@[simp] theorem send_cqs (d : Dev) (p : Port) (k : Nat) (ws : List Nat) : (d.send p k ws).cqs = d.cqs := rfl
@[simp] theorem send_kernels (d : Dev) (p : Port) (k : Nat) (ws : List Nat) : (d.send p k ws).kernels = d.kernels := rfl
@[simp] theorem send_copies (d : Dev) (p : Port) (k : Nat) (ws : List Nat) : (d.send p k ws).copies = d.copies := rfl
@[simp] theorem send_steps (d : Dev) (p : Port) (k : Nat) (ws : List Nat) : (d.send p k ws).steps = d.steps := rfl
@[simp] theorem send_arr (d : Dev) (p : Port) (k : Nat) (ws : List Nat) : (d.send p k ws).arr = d.arr := rfl
@[simp] theorem send_sched (d : Dev) (p : Port) (k : Nat) (ws : List Nat) : (d.send p k ws).sched = d.sched := rfl
@[simp] theorem send_cache0 (d : Dev) (p : Port) (k : Nat) (ws : List Nat) : (d.send p k ws).cache0 = d.cache0 := rfl
@[simp] theorem send_cache1 (d : Dev) (p : Port) (k : Nat) (ws : List Nat) : (d.send p k ws).cache1 = d.cache1 := rfl
@[simp] theorem send_misses0 (d : Dev) (p : Port) (k : Nat) (ws : List Nat) : (d.send p k ws).misses0 = d.misses0 := rfl
@[simp] theorem send_misses1 (d : Dev) (p : Port) (k : Nat) (ws : List Nat) : (d.send p k ws).misses1 = d.misses1 := rfl
@[simp] theorem send_startOrder (d : Dev) (p : Port) (k : Nat) (ws : List Nat) : (d.send p k ws).startOrder = d.startOrder := rfl
@[simp] theorem send_errRing (d : Dev) (p : Port) (k : Nat) (ws : List Nat) : (d.send p k ws).errRing = d.errRing := rfl
@[simp] theorem send_corrAt (d : Dev) (p : Port) (k : Nat) (ws : List Nat) : (d.send p k ws).corrAt = d.corrAt := rfl
@[simp] theorem send_reply (d : Dev) (p : Port) (k : Nat) (ws : List Nat) : (d.send p k ws).reply = d.reply := rfl
@[simp] theorem send_lath (d : Dev) (p : Port) (k : Nat) (ws : List Nat) : (d.send p k ws).lath = d.lath := rfl
@[simp] theorem send_engUpset (d : Dev) (p : Port) (k : Nat) (ws : List Nat) : (d.send p k ws).engUpset = d.engUpset := rfl
@[simp] theorem send_eave (d : Dev) (p : Port) (k : Nat) (ws : List Nat) : (d.send p k ws).eave = d.eave := rfl
@[simp] theorem send_ulPages (d : Dev) (p : Port) (k : Nat) (ws : List Nat) : (d.send p k ws).ulPages = d.ulPages := rfl
@[simp] theorem send_ulSets (d : Dev) (p : Port) (k : Nat) (ws : List Nat) : (d.send p k ws).ulSets = d.ulSets := rfl
@[simp] theorem send_ulSerial (d : Dev) (p : Port) (k : Nat) (ws : List Nat) : (d.send p k ws).ulSerial = d.ulSerial := rfl
@[simp] theorem send_nvme (d : Dev) (p : Port) (k : Nat) (ws : List Nat) : (d.send p k ws).nvme = d.nvme := rfl
@[simp] theorem send_nvmeId (d : Dev) (p : Port) (k : Nat) (ws : List Nat) : (d.send p k ws).nvmeId = d.nvmeId := rfl
@[simp] theorem send_nvmeResets (d : Dev) (p : Port) (k : Nat) (ws : List Nat) : (d.send p k ws).nvmeResets = d.nvmeResets := rfl
@[simp] theorem send_wear (d : Dev) (p : Port) (k : Nat) (ws : List Nat) : (d.send p k ws).wear = d.wear := rfl
@[simp] theorem send_passes (d : Dev) (p : Port) (k : Nat) (ws : List Nat) : (d.send p k ws).passes = d.passes := rfl
@[simp] theorem send_batten (d : Dev) (p : Port) (k : Nat) (ws : List Nat) : (d.send p k ws).batten = d.batten := rfl
@[simp] theorem send_delivered (d : Dev) (p : Port) (k : Nat) (ws : List Nat) : (d.send p k ws).delivered = d.delivered := rfl
@[simp] theorem send_linkDropped (d : Dev) (p : Port) (k : Nat) (ws : List Nat) : (d.send p k ws).linkDropped = d.linkDropped := rfl
@[simp] theorem send_parts (d : Dev) (p : Port) (k : Nat) (ws : List Nat) : (d.send p k ws).parts = d.parts := rfl
@[simp] theorem send_collIn (d : Dev) (p : Port) (k : Nat) (ws : List Nat) : (d.send p k ws).collIn = d.collIn := rfl
@[simp] theorem send_collReports (d : Dev) (p : Port) (k : Nat) (ws : List Nat) : (d.send p k ws).collReports = d.collReports := rfl
@[simp] theorem send_chains (d : Dev) (p : Port) (k : Nat) (ws : List Nat) : (d.send p k ws).chains = d.chains := rfl
@[simp] theorem send_turns (d : Dev) (p : Port) (k : Nat) (ws : List Nat) : (d.send p k ws).turns = d.turns := rfl
@[simp] theorem send_readyIn (d : Dev) (p : Port) (k : Nat) (ws : List Nat) : (d.send p k ws).readyIn = d.readyIn := rfl
@[simp] theorem send_decisionIn (d : Dev) (p : Port) (k : Nat) (ws : List Nat) : (d.send p k ws).decisionIn = d.decisionIn := rfl
@[simp] theorem send_baseGrants (d : Dev) (p : Port) (k : Nat) (ws : List Nat) : (d.send p k ws).baseGrants = d.baseGrants := rfl
@[simp] theorem send_turnEnded (d : Dev) (p : Port) (k : Nat) (ws : List Nat) : (d.send p k ws).turnEnded = d.turnEnded := rfl
@[simp] theorem send_fab (d : Dev) (p : Port) (k : Nat) (ws : List Nat) : (d.send p k ws).fab = d.fab := rfl
@[simp] theorem send_peerBad (d : Dev) (p : Port) (k : Nat) (ws : List Nat) : (d.send p k ws).peerBad = d.peerBad := rfl
@[simp] theorem send_pow (d : Dev) (p : Port) (k : Nat) (ws : List Nat) : (d.send p k ws).pow = d.pow := rfl
@[simp] theorem send_bar4 (d : Dev) (p : Port) (k : Nat) (ws : List Nat) : (d.send p k ws).bar4 = d.bar4 := rfl
@[simp] theorem send_deferredTests (d : Dev) (p : Port) (k : Nat) (ws : List Nat) : (d.send p k ws).deferredTests = d.deferredTests := rfl
@[simp] theorem send_host (d : Dev) (p : Port) (k : Nat) (ws : List Nat) : (d.send p k ws).host = d.host := rfl
@[simp] theorem send_bring (d : Dev) (p : Port) (k : Nat) (ws : List Nat) : (d.send p k ws).bring = d.bring := rfl

/-! ## tick -/

@[simp] theorem tick_now (d : Dev) : (d.tick).now = d.now := rfl
@[simp] theorem tick_regs (d : Dev) : (d.tick).regs = d.regs := rfl
@[simp] theorem tick_readLatch (d : Dev) : (d.tick).readLatch = d.readLatch := rfl
@[simp] theorem tick_writeLatch (d : Dev) : (d.tick).writeLatch = d.writeLatch := rfl
@[simp] theorem tick_msix (d : Dev) : (d.tick).msix = d.msix := rfl
@[simp] theorem tick_msixPending (d : Dev) : (d.tick).msixPending = d.msixPending := rfl
@[simp] theorem tick_hbm (d : Dev) : (d.tick).hbm = d.hbm := rfl
@[simp] theorem tick_hbmBad (d : Dev) : (d.tick).hbmBad = d.hbmBad := rfl
@[simp] theorem tick_loft (d : Dev) : (d.tick).loft = d.loft := rfl
@[simp] theorem tick_loftBad (d : Dev) : (d.tick).loftBad = d.loftBad := rfl
@[simp] theorem tick_loftSoft (d : Dev) : (d.tick).loftSoft = d.loftSoft := rfl
@[simp] theorem tick_hostMem (d : Dev) : (d.tick).hostMem = d.hostMem := rfl
@[simp] theorem tick_hostBad (d : Dev) : (d.tick).hostBad = d.hostBad := rfl
@[simp] theorem tick_stage (d : Dev) : (d.tick).stage = d.stage := rfl
@[simp] theorem tick_objs (d : Dev) : (d.tick).objs = d.objs := rfl
@[simp] theorem tick_peerMem (d : Dev) : (d.tick).peerMem = d.peerMem := rfl
@[simp] theorem tick_bays (d : Dev) : (d.tick).bays = d.bays := rfl
@[simp] theorem tick_sqs (d : Dev) : (d.tick).sqs = d.sqs := rfl
@[simp] theorem tick_cqs (d : Dev) : (d.tick).cqs = d.cqs := rfl
@[simp] theorem tick_kernels (d : Dev) : (d.tick).kernels = d.kernels := rfl
@[simp] theorem tick_copies (d : Dev) : (d.tick).copies = d.copies := rfl
@[simp] theorem tick_steps (d : Dev) : (d.tick).steps = d.steps := rfl
@[simp] theorem tick_arr (d : Dev) : (d.tick).arr = d.arr := rfl
@[simp] theorem tick_sched (d : Dev) : (d.tick).sched = d.sched := rfl
@[simp] theorem tick_cache0 (d : Dev) : (d.tick).cache0 = d.cache0 := rfl
@[simp] theorem tick_cache1 (d : Dev) : (d.tick).cache1 = d.cache1 := rfl
@[simp] theorem tick_misses0 (d : Dev) : (d.tick).misses0 = d.misses0 := rfl
@[simp] theorem tick_misses1 (d : Dev) : (d.tick).misses1 = d.misses1 := rfl
@[simp] theorem tick_startOrder (d : Dev) : (d.tick).startOrder = d.startOrder := rfl
@[simp] theorem tick_errRing (d : Dev) : (d.tick).errRing = d.errRing := rfl
@[simp] theorem tick_corrAt (d : Dev) : (d.tick).corrAt = d.corrAt := rfl
@[simp] theorem tick_sent (d : Dev) : (d.tick).sent = d.sent := rfl
@[simp] theorem tick_reply (d : Dev) : (d.tick).reply = d.reply := rfl
@[simp] theorem tick_lath (d : Dev) : (d.tick).lath = d.lath := rfl
@[simp] theorem tick_engUpset (d : Dev) : (d.tick).engUpset = d.engUpset := rfl
@[simp] theorem tick_eave (d : Dev) : (d.tick).eave = d.eave := rfl
@[simp] theorem tick_ulPages (d : Dev) : (d.tick).ulPages = d.ulPages := rfl
@[simp] theorem tick_ulSets (d : Dev) : (d.tick).ulSets = d.ulSets := rfl
@[simp] theorem tick_ulSerial (d : Dev) : (d.tick).ulSerial = d.ulSerial := rfl
@[simp] theorem tick_nvme (d : Dev) : (d.tick).nvme = d.nvme := rfl
@[simp] theorem tick_nvmeId (d : Dev) : (d.tick).nvmeId = d.nvmeId := rfl
@[simp] theorem tick_nvmeResets (d : Dev) : (d.tick).nvmeResets = d.nvmeResets := rfl
@[simp] theorem tick_wear (d : Dev) : (d.tick).wear = d.wear := rfl
@[simp] theorem tick_passes (d : Dev) : (d.tick).passes = d.passes := rfl
@[simp] theorem tick_batten (d : Dev) : (d.tick).batten = d.batten := rfl
@[simp] theorem tick_delivered (d : Dev) : (d.tick).delivered = d.delivered := rfl
@[simp] theorem tick_linkDropped (d : Dev) : (d.tick).linkDropped = d.linkDropped := rfl
@[simp] theorem tick_parts (d : Dev) : (d.tick).parts = d.parts := rfl
@[simp] theorem tick_collIn (d : Dev) : (d.tick).collIn = d.collIn := rfl
@[simp] theorem tick_collReports (d : Dev) : (d.tick).collReports = d.collReports := rfl
@[simp] theorem tick_chains (d : Dev) : (d.tick).chains = d.chains := rfl
@[simp] theorem tick_turns (d : Dev) : (d.tick).turns = d.turns := rfl
@[simp] theorem tick_readyIn (d : Dev) : (d.tick).readyIn = d.readyIn := rfl
@[simp] theorem tick_decisionIn (d : Dev) : (d.tick).decisionIn = d.decisionIn := rfl
@[simp] theorem tick_baseGrants (d : Dev) : (d.tick).baseGrants = d.baseGrants := rfl
@[simp] theorem tick_turnEnded (d : Dev) : (d.tick).turnEnded = d.turnEnded := rfl
@[simp] theorem tick_fab (d : Dev) : (d.tick).fab = d.fab := rfl
@[simp] theorem tick_peerBad (d : Dev) : (d.tick).peerBad = d.peerBad := rfl
@[simp] theorem tick_pow (d : Dev) : (d.tick).pow = d.pow := rfl
@[simp] theorem tick_bar4 (d : Dev) : (d.tick).bar4 = d.bar4 := rfl
@[simp] theorem tick_deferredTests (d : Dev) : (d.tick).deferredTests = d.deferredTests := rfl
@[simp] theorem tick_host (d : Dev) : (d.tick).host = d.host := rfl
@[simp] theorem tick_bring (d : Dev) : (d.tick).bring = d.bring := rfl

/-! ## modBay -/

@[simp] theorem modBay_now (d : Dev) (b : Nat) (f : Bay → Bay) : (d.modBay b f).now = d.now := rfl
@[simp] theorem modBay_free (d : Dev) (b : Nat) (f : Bay → Bay) : (d.modBay b f).free = d.free := rfl
@[simp] theorem modBay_regs (d : Dev) (b : Nat) (f : Bay → Bay) : (d.modBay b f).regs = d.regs := rfl
@[simp] theorem modBay_readLatch (d : Dev) (b : Nat) (f : Bay → Bay) : (d.modBay b f).readLatch = d.readLatch := rfl
@[simp] theorem modBay_writeLatch (d : Dev) (b : Nat) (f : Bay → Bay) : (d.modBay b f).writeLatch = d.writeLatch := rfl
@[simp] theorem modBay_msix (d : Dev) (b : Nat) (f : Bay → Bay) : (d.modBay b f).msix = d.msix := rfl
@[simp] theorem modBay_msixPending (d : Dev) (b : Nat) (f : Bay → Bay) : (d.modBay b f).msixPending = d.msixPending := rfl
@[simp] theorem modBay_hbm (d : Dev) (b : Nat) (f : Bay → Bay) : (d.modBay b f).hbm = d.hbm := rfl
@[simp] theorem modBay_hbmBad (d : Dev) (b : Nat) (f : Bay → Bay) : (d.modBay b f).hbmBad = d.hbmBad := rfl
@[simp] theorem modBay_loft (d : Dev) (b : Nat) (f : Bay → Bay) : (d.modBay b f).loft = d.loft := rfl
@[simp] theorem modBay_loftBad (d : Dev) (b : Nat) (f : Bay → Bay) : (d.modBay b f).loftBad = d.loftBad := rfl
@[simp] theorem modBay_loftSoft (d : Dev) (b : Nat) (f : Bay → Bay) : (d.modBay b f).loftSoft = d.loftSoft := rfl
@[simp] theorem modBay_hostMem (d : Dev) (b : Nat) (f : Bay → Bay) : (d.modBay b f).hostMem = d.hostMem := rfl
@[simp] theorem modBay_hostBad (d : Dev) (b : Nat) (f : Bay → Bay) : (d.modBay b f).hostBad = d.hostBad := rfl
@[simp] theorem modBay_stage (d : Dev) (b : Nat) (f : Bay → Bay) : (d.modBay b f).stage = d.stage := rfl
@[simp] theorem modBay_objs (d : Dev) (b : Nat) (f : Bay → Bay) : (d.modBay b f).objs = d.objs := rfl
@[simp] theorem modBay_peerMem (d : Dev) (b : Nat) (f : Bay → Bay) : (d.modBay b f).peerMem = d.peerMem := rfl
@[simp] theorem modBay_sqs (d : Dev) (b : Nat) (f : Bay → Bay) : (d.modBay b f).sqs = d.sqs := rfl
@[simp] theorem modBay_cqs (d : Dev) (b : Nat) (f : Bay → Bay) : (d.modBay b f).cqs = d.cqs := rfl
@[simp] theorem modBay_kernels (d : Dev) (b : Nat) (f : Bay → Bay) : (d.modBay b f).kernels = d.kernels := rfl
@[simp] theorem modBay_copies (d : Dev) (b : Nat) (f : Bay → Bay) : (d.modBay b f).copies = d.copies := rfl
@[simp] theorem modBay_steps (d : Dev) (b : Nat) (f : Bay → Bay) : (d.modBay b f).steps = d.steps := rfl
@[simp] theorem modBay_arr (d : Dev) (b : Nat) (f : Bay → Bay) : (d.modBay b f).arr = d.arr := rfl
@[simp] theorem modBay_sched (d : Dev) (b : Nat) (f : Bay → Bay) : (d.modBay b f).sched = d.sched := rfl
@[simp] theorem modBay_cache0 (d : Dev) (b : Nat) (f : Bay → Bay) : (d.modBay b f).cache0 = d.cache0 := rfl
@[simp] theorem modBay_cache1 (d : Dev) (b : Nat) (f : Bay → Bay) : (d.modBay b f).cache1 = d.cache1 := rfl
@[simp] theorem modBay_misses0 (d : Dev) (b : Nat) (f : Bay → Bay) : (d.modBay b f).misses0 = d.misses0 := rfl
@[simp] theorem modBay_misses1 (d : Dev) (b : Nat) (f : Bay → Bay) : (d.modBay b f).misses1 = d.misses1 := rfl
@[simp] theorem modBay_startOrder (d : Dev) (b : Nat) (f : Bay → Bay) : (d.modBay b f).startOrder = d.startOrder := rfl
@[simp] theorem modBay_errRing (d : Dev) (b : Nat) (f : Bay → Bay) : (d.modBay b f).errRing = d.errRing := rfl
@[simp] theorem modBay_corrAt (d : Dev) (b : Nat) (f : Bay → Bay) : (d.modBay b f).corrAt = d.corrAt := rfl
@[simp] theorem modBay_sent (d : Dev) (b : Nat) (f : Bay → Bay) : (d.modBay b f).sent = d.sent := rfl
@[simp] theorem modBay_reply (d : Dev) (b : Nat) (f : Bay → Bay) : (d.modBay b f).reply = d.reply := rfl
@[simp] theorem modBay_lath (d : Dev) (b : Nat) (f : Bay → Bay) : (d.modBay b f).lath = d.lath := rfl
@[simp] theorem modBay_engUpset (d : Dev) (b : Nat) (f : Bay → Bay) : (d.modBay b f).engUpset = d.engUpset := rfl
@[simp] theorem modBay_eave (d : Dev) (b : Nat) (f : Bay → Bay) : (d.modBay b f).eave = d.eave := rfl
@[simp] theorem modBay_ulPages (d : Dev) (b : Nat) (f : Bay → Bay) : (d.modBay b f).ulPages = d.ulPages := rfl
@[simp] theorem modBay_ulSets (d : Dev) (b : Nat) (f : Bay → Bay) : (d.modBay b f).ulSets = d.ulSets := rfl
@[simp] theorem modBay_ulSerial (d : Dev) (b : Nat) (f : Bay → Bay) : (d.modBay b f).ulSerial = d.ulSerial := rfl
@[simp] theorem modBay_nvme (d : Dev) (b : Nat) (f : Bay → Bay) : (d.modBay b f).nvme = d.nvme := rfl
@[simp] theorem modBay_nvmeId (d : Dev) (b : Nat) (f : Bay → Bay) : (d.modBay b f).nvmeId = d.nvmeId := rfl
@[simp] theorem modBay_nvmeResets (d : Dev) (b : Nat) (f : Bay → Bay) : (d.modBay b f).nvmeResets = d.nvmeResets := rfl
@[simp] theorem modBay_wear (d : Dev) (b : Nat) (f : Bay → Bay) : (d.modBay b f).wear = d.wear := rfl
@[simp] theorem modBay_passes (d : Dev) (b : Nat) (f : Bay → Bay) : (d.modBay b f).passes = d.passes := rfl
@[simp] theorem modBay_batten (d : Dev) (b : Nat) (f : Bay → Bay) : (d.modBay b f).batten = d.batten := rfl
@[simp] theorem modBay_delivered (d : Dev) (b : Nat) (f : Bay → Bay) : (d.modBay b f).delivered = d.delivered := rfl
@[simp] theorem modBay_linkDropped (d : Dev) (b : Nat) (f : Bay → Bay) : (d.modBay b f).linkDropped = d.linkDropped := rfl
@[simp] theorem modBay_parts (d : Dev) (b : Nat) (f : Bay → Bay) : (d.modBay b f).parts = d.parts := rfl
@[simp] theorem modBay_collIn (d : Dev) (b : Nat) (f : Bay → Bay) : (d.modBay b f).collIn = d.collIn := rfl
@[simp] theorem modBay_collReports (d : Dev) (b : Nat) (f : Bay → Bay) : (d.modBay b f).collReports = d.collReports := rfl
@[simp] theorem modBay_chains (d : Dev) (b : Nat) (f : Bay → Bay) : (d.modBay b f).chains = d.chains := rfl
@[simp] theorem modBay_turns (d : Dev) (b : Nat) (f : Bay → Bay) : (d.modBay b f).turns = d.turns := rfl
@[simp] theorem modBay_readyIn (d : Dev) (b : Nat) (f : Bay → Bay) : (d.modBay b f).readyIn = d.readyIn := rfl
@[simp] theorem modBay_decisionIn (d : Dev) (b : Nat) (f : Bay → Bay) : (d.modBay b f).decisionIn = d.decisionIn := rfl
@[simp] theorem modBay_baseGrants (d : Dev) (b : Nat) (f : Bay → Bay) : (d.modBay b f).baseGrants = d.baseGrants := rfl
@[simp] theorem modBay_turnEnded (d : Dev) (b : Nat) (f : Bay → Bay) : (d.modBay b f).turnEnded = d.turnEnded := rfl
@[simp] theorem modBay_fab (d : Dev) (b : Nat) (f : Bay → Bay) : (d.modBay b f).fab = d.fab := rfl
@[simp] theorem modBay_peerBad (d : Dev) (b : Nat) (f : Bay → Bay) : (d.modBay b f).peerBad = d.peerBad := rfl
@[simp] theorem modBay_pow (d : Dev) (b : Nat) (f : Bay → Bay) : (d.modBay b f).pow = d.pow := rfl
@[simp] theorem modBay_bar4 (d : Dev) (b : Nat) (f : Bay → Bay) : (d.modBay b f).bar4 = d.bar4 := rfl
@[simp] theorem modBay_deferredTests (d : Dev) (b : Nat) (f : Bay → Bay) : (d.modBay b f).deferredTests = d.deferredTests := rfl
@[simp] theorem modBay_host (d : Dev) (b : Nat) (f : Bay → Bay) : (d.modBay b f).host = d.host := rfl
@[simp] theorem modBay_bring (d : Dev) (b : Nat) (f : Bay → Bay) : (d.modBay b f).bring = d.bring := rfl

/-! ## modObj -/

@[simp] theorem modObj_now (d : Dev) (b id : Nat) (f : Obj → Obj) : (d.modObj b id f).now = d.now := rfl
@[simp] theorem modObj_free (d : Dev) (b id : Nat) (f : Obj → Obj) : (d.modObj b id f).free = d.free := rfl
@[simp] theorem modObj_regs (d : Dev) (b id : Nat) (f : Obj → Obj) : (d.modObj b id f).regs = d.regs := rfl
@[simp] theorem modObj_readLatch (d : Dev) (b id : Nat) (f : Obj → Obj) : (d.modObj b id f).readLatch = d.readLatch := rfl
@[simp] theorem modObj_writeLatch (d : Dev) (b id : Nat) (f : Obj → Obj) : (d.modObj b id f).writeLatch = d.writeLatch := rfl
@[simp] theorem modObj_msix (d : Dev) (b id : Nat) (f : Obj → Obj) : (d.modObj b id f).msix = d.msix := rfl
@[simp] theorem modObj_msixPending (d : Dev) (b id : Nat) (f : Obj → Obj) : (d.modObj b id f).msixPending = d.msixPending := rfl
@[simp] theorem modObj_hbm (d : Dev) (b id : Nat) (f : Obj → Obj) : (d.modObj b id f).hbm = d.hbm := rfl
@[simp] theorem modObj_hbmBad (d : Dev) (b id : Nat) (f : Obj → Obj) : (d.modObj b id f).hbmBad = d.hbmBad := rfl
@[simp] theorem modObj_loft (d : Dev) (b id : Nat) (f : Obj → Obj) : (d.modObj b id f).loft = d.loft := rfl
@[simp] theorem modObj_loftBad (d : Dev) (b id : Nat) (f : Obj → Obj) : (d.modObj b id f).loftBad = d.loftBad := rfl
@[simp] theorem modObj_loftSoft (d : Dev) (b id : Nat) (f : Obj → Obj) : (d.modObj b id f).loftSoft = d.loftSoft := rfl
@[simp] theorem modObj_hostMem (d : Dev) (b id : Nat) (f : Obj → Obj) : (d.modObj b id f).hostMem = d.hostMem := rfl
@[simp] theorem modObj_hostBad (d : Dev) (b id : Nat) (f : Obj → Obj) : (d.modObj b id f).hostBad = d.hostBad := rfl
@[simp] theorem modObj_stage (d : Dev) (b id : Nat) (f : Obj → Obj) : (d.modObj b id f).stage = d.stage := rfl
@[simp] theorem modObj_peerMem (d : Dev) (b id : Nat) (f : Obj → Obj) : (d.modObj b id f).peerMem = d.peerMem := rfl
@[simp] theorem modObj_bays (d : Dev) (b id : Nat) (f : Obj → Obj) : (d.modObj b id f).bays = d.bays := rfl
@[simp] theorem modObj_sqs (d : Dev) (b id : Nat) (f : Obj → Obj) : (d.modObj b id f).sqs = d.sqs := rfl
@[simp] theorem modObj_cqs (d : Dev) (b id : Nat) (f : Obj → Obj) : (d.modObj b id f).cqs = d.cqs := rfl
@[simp] theorem modObj_kernels (d : Dev) (b id : Nat) (f : Obj → Obj) : (d.modObj b id f).kernels = d.kernels := rfl
@[simp] theorem modObj_copies (d : Dev) (b id : Nat) (f : Obj → Obj) : (d.modObj b id f).copies = d.copies := rfl
@[simp] theorem modObj_steps (d : Dev) (b id : Nat) (f : Obj → Obj) : (d.modObj b id f).steps = d.steps := rfl
@[simp] theorem modObj_arr (d : Dev) (b id : Nat) (f : Obj → Obj) : (d.modObj b id f).arr = d.arr := rfl
@[simp] theorem modObj_sched (d : Dev) (b id : Nat) (f : Obj → Obj) : (d.modObj b id f).sched = d.sched := rfl
@[simp] theorem modObj_cache0 (d : Dev) (b id : Nat) (f : Obj → Obj) : (d.modObj b id f).cache0 = d.cache0 := rfl
@[simp] theorem modObj_cache1 (d : Dev) (b id : Nat) (f : Obj → Obj) : (d.modObj b id f).cache1 = d.cache1 := rfl
@[simp] theorem modObj_misses0 (d : Dev) (b id : Nat) (f : Obj → Obj) : (d.modObj b id f).misses0 = d.misses0 := rfl
@[simp] theorem modObj_misses1 (d : Dev) (b id : Nat) (f : Obj → Obj) : (d.modObj b id f).misses1 = d.misses1 := rfl
@[simp] theorem modObj_startOrder (d : Dev) (b id : Nat) (f : Obj → Obj) : (d.modObj b id f).startOrder = d.startOrder := rfl
@[simp] theorem modObj_errRing (d : Dev) (b id : Nat) (f : Obj → Obj) : (d.modObj b id f).errRing = d.errRing := rfl
@[simp] theorem modObj_corrAt (d : Dev) (b id : Nat) (f : Obj → Obj) : (d.modObj b id f).corrAt = d.corrAt := rfl
@[simp] theorem modObj_sent (d : Dev) (b id : Nat) (f : Obj → Obj) : (d.modObj b id f).sent = d.sent := rfl
@[simp] theorem modObj_reply (d : Dev) (b id : Nat) (f : Obj → Obj) : (d.modObj b id f).reply = d.reply := rfl
@[simp] theorem modObj_lath (d : Dev) (b id : Nat) (f : Obj → Obj) : (d.modObj b id f).lath = d.lath := rfl
@[simp] theorem modObj_engUpset (d : Dev) (b id : Nat) (f : Obj → Obj) : (d.modObj b id f).engUpset = d.engUpset := rfl
@[simp] theorem modObj_eave (d : Dev) (b id : Nat) (f : Obj → Obj) : (d.modObj b id f).eave = d.eave := rfl
@[simp] theorem modObj_ulPages (d : Dev) (b id : Nat) (f : Obj → Obj) : (d.modObj b id f).ulPages = d.ulPages := rfl
@[simp] theorem modObj_ulSets (d : Dev) (b id : Nat) (f : Obj → Obj) : (d.modObj b id f).ulSets = d.ulSets := rfl
@[simp] theorem modObj_ulSerial (d : Dev) (b id : Nat) (f : Obj → Obj) : (d.modObj b id f).ulSerial = d.ulSerial := rfl
@[simp] theorem modObj_nvme (d : Dev) (b id : Nat) (f : Obj → Obj) : (d.modObj b id f).nvme = d.nvme := rfl
@[simp] theorem modObj_nvmeId (d : Dev) (b id : Nat) (f : Obj → Obj) : (d.modObj b id f).nvmeId = d.nvmeId := rfl
@[simp] theorem modObj_nvmeResets (d : Dev) (b id : Nat) (f : Obj → Obj) : (d.modObj b id f).nvmeResets = d.nvmeResets := rfl
@[simp] theorem modObj_wear (d : Dev) (b id : Nat) (f : Obj → Obj) : (d.modObj b id f).wear = d.wear := rfl
@[simp] theorem modObj_passes (d : Dev) (b id : Nat) (f : Obj → Obj) : (d.modObj b id f).passes = d.passes := rfl
@[simp] theorem modObj_batten (d : Dev) (b id : Nat) (f : Obj → Obj) : (d.modObj b id f).batten = d.batten := rfl
@[simp] theorem modObj_delivered (d : Dev) (b id : Nat) (f : Obj → Obj) : (d.modObj b id f).delivered = d.delivered := rfl
@[simp] theorem modObj_linkDropped (d : Dev) (b id : Nat) (f : Obj → Obj) : (d.modObj b id f).linkDropped = d.linkDropped := rfl
@[simp] theorem modObj_parts (d : Dev) (b id : Nat) (f : Obj → Obj) : (d.modObj b id f).parts = d.parts := rfl
@[simp] theorem modObj_collIn (d : Dev) (b id : Nat) (f : Obj → Obj) : (d.modObj b id f).collIn = d.collIn := rfl
@[simp] theorem modObj_collReports (d : Dev) (b id : Nat) (f : Obj → Obj) : (d.modObj b id f).collReports = d.collReports := rfl
@[simp] theorem modObj_chains (d : Dev) (b id : Nat) (f : Obj → Obj) : (d.modObj b id f).chains = d.chains := rfl
@[simp] theorem modObj_turns (d : Dev) (b id : Nat) (f : Obj → Obj) : (d.modObj b id f).turns = d.turns := rfl
@[simp] theorem modObj_readyIn (d : Dev) (b id : Nat) (f : Obj → Obj) : (d.modObj b id f).readyIn = d.readyIn := rfl
@[simp] theorem modObj_decisionIn (d : Dev) (b id : Nat) (f : Obj → Obj) : (d.modObj b id f).decisionIn = d.decisionIn := rfl
@[simp] theorem modObj_baseGrants (d : Dev) (b id : Nat) (f : Obj → Obj) : (d.modObj b id f).baseGrants = d.baseGrants := rfl
@[simp] theorem modObj_turnEnded (d : Dev) (b id : Nat) (f : Obj → Obj) : (d.modObj b id f).turnEnded = d.turnEnded := rfl
@[simp] theorem modObj_fab (d : Dev) (b id : Nat) (f : Obj → Obj) : (d.modObj b id f).fab = d.fab := rfl
@[simp] theorem modObj_peerBad (d : Dev) (b id : Nat) (f : Obj → Obj) : (d.modObj b id f).peerBad = d.peerBad := rfl
@[simp] theorem modObj_pow (d : Dev) (b id : Nat) (f : Obj → Obj) : (d.modObj b id f).pow = d.pow := rfl
@[simp] theorem modObj_bar4 (d : Dev) (b id : Nat) (f : Obj → Obj) : (d.modObj b id f).bar4 = d.bar4 := rfl
@[simp] theorem modObj_deferredTests (d : Dev) (b id : Nat) (f : Obj → Obj) : (d.modObj b id f).deferredTests = d.deferredTests := rfl
@[simp] theorem modObj_host (d : Dev) (b id : Nat) (f : Obj → Obj) : (d.modObj b id f).host = d.host := rfl
@[simp] theorem modObj_bring (d : Dev) (b id : Nat) (f : Obj → Obj) : (d.modObj b id f).bring = d.bring := rfl

/-! ## modCmd -/

@[simp] theorem modCmd_now (d : Dev) (q : Nat) (f : Cmd → Cmd) : (d.modCmd q f).now = d.now := rfl
@[simp] theorem modCmd_free (d : Dev) (q : Nat) (f : Cmd → Cmd) : (d.modCmd q f).free = d.free := rfl
@[simp] theorem modCmd_regs (d : Dev) (q : Nat) (f : Cmd → Cmd) : (d.modCmd q f).regs = d.regs := rfl
@[simp] theorem modCmd_readLatch (d : Dev) (q : Nat) (f : Cmd → Cmd) : (d.modCmd q f).readLatch = d.readLatch := rfl
@[simp] theorem modCmd_writeLatch (d : Dev) (q : Nat) (f : Cmd → Cmd) : (d.modCmd q f).writeLatch = d.writeLatch := rfl
@[simp] theorem modCmd_msix (d : Dev) (q : Nat) (f : Cmd → Cmd) : (d.modCmd q f).msix = d.msix := rfl
@[simp] theorem modCmd_msixPending (d : Dev) (q : Nat) (f : Cmd → Cmd) : (d.modCmd q f).msixPending = d.msixPending := rfl
@[simp] theorem modCmd_hbm (d : Dev) (q : Nat) (f : Cmd → Cmd) : (d.modCmd q f).hbm = d.hbm := rfl
@[simp] theorem modCmd_hbmBad (d : Dev) (q : Nat) (f : Cmd → Cmd) : (d.modCmd q f).hbmBad = d.hbmBad := rfl
@[simp] theorem modCmd_loft (d : Dev) (q : Nat) (f : Cmd → Cmd) : (d.modCmd q f).loft = d.loft := rfl
@[simp] theorem modCmd_loftBad (d : Dev) (q : Nat) (f : Cmd → Cmd) : (d.modCmd q f).loftBad = d.loftBad := rfl
@[simp] theorem modCmd_loftSoft (d : Dev) (q : Nat) (f : Cmd → Cmd) : (d.modCmd q f).loftSoft = d.loftSoft := rfl
@[simp] theorem modCmd_hostMem (d : Dev) (q : Nat) (f : Cmd → Cmd) : (d.modCmd q f).hostMem = d.hostMem := rfl
@[simp] theorem modCmd_hostBad (d : Dev) (q : Nat) (f : Cmd → Cmd) : (d.modCmd q f).hostBad = d.hostBad := rfl
@[simp] theorem modCmd_stage (d : Dev) (q : Nat) (f : Cmd → Cmd) : (d.modCmd q f).stage = d.stage := rfl
@[simp] theorem modCmd_objs (d : Dev) (q : Nat) (f : Cmd → Cmd) : (d.modCmd q f).objs = d.objs := rfl
@[simp] theorem modCmd_peerMem (d : Dev) (q : Nat) (f : Cmd → Cmd) : (d.modCmd q f).peerMem = d.peerMem := rfl
@[simp] theorem modCmd_bays (d : Dev) (q : Nat) (f : Cmd → Cmd) : (d.modCmd q f).bays = d.bays := rfl
@[simp] theorem modCmd_cqs (d : Dev) (q : Nat) (f : Cmd → Cmd) : (d.modCmd q f).cqs = d.cqs := rfl
@[simp] theorem modCmd_kernels (d : Dev) (q : Nat) (f : Cmd → Cmd) : (d.modCmd q f).kernels = d.kernels := rfl
@[simp] theorem modCmd_copies (d : Dev) (q : Nat) (f : Cmd → Cmd) : (d.modCmd q f).copies = d.copies := rfl
@[simp] theorem modCmd_steps (d : Dev) (q : Nat) (f : Cmd → Cmd) : (d.modCmd q f).steps = d.steps := rfl
@[simp] theorem modCmd_arr (d : Dev) (q : Nat) (f : Cmd → Cmd) : (d.modCmd q f).arr = d.arr := rfl
@[simp] theorem modCmd_sched (d : Dev) (q : Nat) (f : Cmd → Cmd) : (d.modCmd q f).sched = d.sched := rfl
@[simp] theorem modCmd_cache0 (d : Dev) (q : Nat) (f : Cmd → Cmd) : (d.modCmd q f).cache0 = d.cache0 := rfl
@[simp] theorem modCmd_cache1 (d : Dev) (q : Nat) (f : Cmd → Cmd) : (d.modCmd q f).cache1 = d.cache1 := rfl
@[simp] theorem modCmd_misses0 (d : Dev) (q : Nat) (f : Cmd → Cmd) : (d.modCmd q f).misses0 = d.misses0 := rfl
@[simp] theorem modCmd_misses1 (d : Dev) (q : Nat) (f : Cmd → Cmd) : (d.modCmd q f).misses1 = d.misses1 := rfl
@[simp] theorem modCmd_startOrder (d : Dev) (q : Nat) (f : Cmd → Cmd) : (d.modCmd q f).startOrder = d.startOrder := rfl
@[simp] theorem modCmd_errRing (d : Dev) (q : Nat) (f : Cmd → Cmd) : (d.modCmd q f).errRing = d.errRing := rfl
@[simp] theorem modCmd_corrAt (d : Dev) (q : Nat) (f : Cmd → Cmd) : (d.modCmd q f).corrAt = d.corrAt := rfl
@[simp] theorem modCmd_sent (d : Dev) (q : Nat) (f : Cmd → Cmd) : (d.modCmd q f).sent = d.sent := rfl
@[simp] theorem modCmd_reply (d : Dev) (q : Nat) (f : Cmd → Cmd) : (d.modCmd q f).reply = d.reply := rfl
@[simp] theorem modCmd_lath (d : Dev) (q : Nat) (f : Cmd → Cmd) : (d.modCmd q f).lath = d.lath := rfl
@[simp] theorem modCmd_engUpset (d : Dev) (q : Nat) (f : Cmd → Cmd) : (d.modCmd q f).engUpset = d.engUpset := rfl
@[simp] theorem modCmd_eave (d : Dev) (q : Nat) (f : Cmd → Cmd) : (d.modCmd q f).eave = d.eave := rfl
@[simp] theorem modCmd_ulPages (d : Dev) (q : Nat) (f : Cmd → Cmd) : (d.modCmd q f).ulPages = d.ulPages := rfl
@[simp] theorem modCmd_ulSets (d : Dev) (q : Nat) (f : Cmd → Cmd) : (d.modCmd q f).ulSets = d.ulSets := rfl
@[simp] theorem modCmd_ulSerial (d : Dev) (q : Nat) (f : Cmd → Cmd) : (d.modCmd q f).ulSerial = d.ulSerial := rfl
@[simp] theorem modCmd_nvme (d : Dev) (q : Nat) (f : Cmd → Cmd) : (d.modCmd q f).nvme = d.nvme := rfl
@[simp] theorem modCmd_nvmeId (d : Dev) (q : Nat) (f : Cmd → Cmd) : (d.modCmd q f).nvmeId = d.nvmeId := rfl
@[simp] theorem modCmd_nvmeResets (d : Dev) (q : Nat) (f : Cmd → Cmd) : (d.modCmd q f).nvmeResets = d.nvmeResets := rfl
@[simp] theorem modCmd_wear (d : Dev) (q : Nat) (f : Cmd → Cmd) : (d.modCmd q f).wear = d.wear := rfl
@[simp] theorem modCmd_passes (d : Dev) (q : Nat) (f : Cmd → Cmd) : (d.modCmd q f).passes = d.passes := rfl
@[simp] theorem modCmd_batten (d : Dev) (q : Nat) (f : Cmd → Cmd) : (d.modCmd q f).batten = d.batten := rfl
@[simp] theorem modCmd_delivered (d : Dev) (q : Nat) (f : Cmd → Cmd) : (d.modCmd q f).delivered = d.delivered := rfl
@[simp] theorem modCmd_linkDropped (d : Dev) (q : Nat) (f : Cmd → Cmd) : (d.modCmd q f).linkDropped = d.linkDropped := rfl
@[simp] theorem modCmd_parts (d : Dev) (q : Nat) (f : Cmd → Cmd) : (d.modCmd q f).parts = d.parts := rfl
@[simp] theorem modCmd_collIn (d : Dev) (q : Nat) (f : Cmd → Cmd) : (d.modCmd q f).collIn = d.collIn := rfl
@[simp] theorem modCmd_collReports (d : Dev) (q : Nat) (f : Cmd → Cmd) : (d.modCmd q f).collReports = d.collReports := rfl
@[simp] theorem modCmd_chains (d : Dev) (q : Nat) (f : Cmd → Cmd) : (d.modCmd q f).chains = d.chains := rfl
@[simp] theorem modCmd_turns (d : Dev) (q : Nat) (f : Cmd → Cmd) : (d.modCmd q f).turns = d.turns := rfl
@[simp] theorem modCmd_readyIn (d : Dev) (q : Nat) (f : Cmd → Cmd) : (d.modCmd q f).readyIn = d.readyIn := rfl
@[simp] theorem modCmd_decisionIn (d : Dev) (q : Nat) (f : Cmd → Cmd) : (d.modCmd q f).decisionIn = d.decisionIn := rfl
@[simp] theorem modCmd_baseGrants (d : Dev) (q : Nat) (f : Cmd → Cmd) : (d.modCmd q f).baseGrants = d.baseGrants := rfl
@[simp] theorem modCmd_turnEnded (d : Dev) (q : Nat) (f : Cmd → Cmd) : (d.modCmd q f).turnEnded = d.turnEnded := rfl
@[simp] theorem modCmd_fab (d : Dev) (q : Nat) (f : Cmd → Cmd) : (d.modCmd q f).fab = d.fab := rfl
@[simp] theorem modCmd_peerBad (d : Dev) (q : Nat) (f : Cmd → Cmd) : (d.modCmd q f).peerBad = d.peerBad := rfl
@[simp] theorem modCmd_pow (d : Dev) (q : Nat) (f : Cmd → Cmd) : (d.modCmd q f).pow = d.pow := rfl
@[simp] theorem modCmd_bar4 (d : Dev) (q : Nat) (f : Cmd → Cmd) : (d.modCmd q f).bar4 = d.bar4 := rfl
@[simp] theorem modCmd_deferredTests (d : Dev) (q : Nat) (f : Cmd → Cmd) : (d.modCmd q f).deferredTests = d.deferredTests := rfl
@[simp] theorem modCmd_host (d : Dev) (q : Nat) (f : Cmd → Cmd) : (d.modCmd q f).host = d.host := rfl
@[simp] theorem modCmd_bring (d : Dev) (q : Nat) (f : Cmd → Cmd) : (d.modCmd q f).bring = d.bring := rfl

/-! ## modFab -/

@[simp] theorem modFab_now (d : Dev) (f : Fabric → Fabric) : (d.modFab f).now = d.now := rfl
@[simp] theorem modFab_free (d : Dev) (f : Fabric → Fabric) : (d.modFab f).free = d.free := rfl
@[simp] theorem modFab_regs (d : Dev) (f : Fabric → Fabric) : (d.modFab f).regs = d.regs := rfl
@[simp] theorem modFab_readLatch (d : Dev) (f : Fabric → Fabric) : (d.modFab f).readLatch = d.readLatch := rfl
@[simp] theorem modFab_writeLatch (d : Dev) (f : Fabric → Fabric) : (d.modFab f).writeLatch = d.writeLatch := rfl
@[simp] theorem modFab_msix (d : Dev) (f : Fabric → Fabric) : (d.modFab f).msix = d.msix := rfl
@[simp] theorem modFab_msixPending (d : Dev) (f : Fabric → Fabric) : (d.modFab f).msixPending = d.msixPending := rfl
@[simp] theorem modFab_hbm (d : Dev) (f : Fabric → Fabric) : (d.modFab f).hbm = d.hbm := rfl
@[simp] theorem modFab_hbmBad (d : Dev) (f : Fabric → Fabric) : (d.modFab f).hbmBad = d.hbmBad := rfl
@[simp] theorem modFab_loft (d : Dev) (f : Fabric → Fabric) : (d.modFab f).loft = d.loft := rfl
@[simp] theorem modFab_loftBad (d : Dev) (f : Fabric → Fabric) : (d.modFab f).loftBad = d.loftBad := rfl
@[simp] theorem modFab_loftSoft (d : Dev) (f : Fabric → Fabric) : (d.modFab f).loftSoft = d.loftSoft := rfl
@[simp] theorem modFab_hostMem (d : Dev) (f : Fabric → Fabric) : (d.modFab f).hostMem = d.hostMem := rfl
@[simp] theorem modFab_hostBad (d : Dev) (f : Fabric → Fabric) : (d.modFab f).hostBad = d.hostBad := rfl
@[simp] theorem modFab_stage (d : Dev) (f : Fabric → Fabric) : (d.modFab f).stage = d.stage := rfl
@[simp] theorem modFab_objs (d : Dev) (f : Fabric → Fabric) : (d.modFab f).objs = d.objs := rfl
@[simp] theorem modFab_peerMem (d : Dev) (f : Fabric → Fabric) : (d.modFab f).peerMem = d.peerMem := rfl
@[simp] theorem modFab_bays (d : Dev) (f : Fabric → Fabric) : (d.modFab f).bays = d.bays := rfl
@[simp] theorem modFab_sqs (d : Dev) (f : Fabric → Fabric) : (d.modFab f).sqs = d.sqs := rfl
@[simp] theorem modFab_cqs (d : Dev) (f : Fabric → Fabric) : (d.modFab f).cqs = d.cqs := rfl
@[simp] theorem modFab_kernels (d : Dev) (f : Fabric → Fabric) : (d.modFab f).kernels = d.kernels := rfl
@[simp] theorem modFab_copies (d : Dev) (f : Fabric → Fabric) : (d.modFab f).copies = d.copies := rfl
@[simp] theorem modFab_steps (d : Dev) (f : Fabric → Fabric) : (d.modFab f).steps = d.steps := rfl
@[simp] theorem modFab_arr (d : Dev) (f : Fabric → Fabric) : (d.modFab f).arr = d.arr := rfl
@[simp] theorem modFab_sched (d : Dev) (f : Fabric → Fabric) : (d.modFab f).sched = d.sched := rfl
@[simp] theorem modFab_cache0 (d : Dev) (f : Fabric → Fabric) : (d.modFab f).cache0 = d.cache0 := rfl
@[simp] theorem modFab_cache1 (d : Dev) (f : Fabric → Fabric) : (d.modFab f).cache1 = d.cache1 := rfl
@[simp] theorem modFab_misses0 (d : Dev) (f : Fabric → Fabric) : (d.modFab f).misses0 = d.misses0 := rfl
@[simp] theorem modFab_misses1 (d : Dev) (f : Fabric → Fabric) : (d.modFab f).misses1 = d.misses1 := rfl
@[simp] theorem modFab_startOrder (d : Dev) (f : Fabric → Fabric) : (d.modFab f).startOrder = d.startOrder := rfl
@[simp] theorem modFab_errRing (d : Dev) (f : Fabric → Fabric) : (d.modFab f).errRing = d.errRing := rfl
@[simp] theorem modFab_corrAt (d : Dev) (f : Fabric → Fabric) : (d.modFab f).corrAt = d.corrAt := rfl
@[simp] theorem modFab_sent (d : Dev) (f : Fabric → Fabric) : (d.modFab f).sent = d.sent := rfl
@[simp] theorem modFab_reply (d : Dev) (f : Fabric → Fabric) : (d.modFab f).reply = d.reply := rfl
@[simp] theorem modFab_lath (d : Dev) (f : Fabric → Fabric) : (d.modFab f).lath = d.lath := rfl
@[simp] theorem modFab_engUpset (d : Dev) (f : Fabric → Fabric) : (d.modFab f).engUpset = d.engUpset := rfl
@[simp] theorem modFab_eave (d : Dev) (f : Fabric → Fabric) : (d.modFab f).eave = d.eave := rfl
@[simp] theorem modFab_ulPages (d : Dev) (f : Fabric → Fabric) : (d.modFab f).ulPages = d.ulPages := rfl
@[simp] theorem modFab_ulSets (d : Dev) (f : Fabric → Fabric) : (d.modFab f).ulSets = d.ulSets := rfl
@[simp] theorem modFab_ulSerial (d : Dev) (f : Fabric → Fabric) : (d.modFab f).ulSerial = d.ulSerial := rfl
@[simp] theorem modFab_nvme (d : Dev) (f : Fabric → Fabric) : (d.modFab f).nvme = d.nvme := rfl
@[simp] theorem modFab_nvmeId (d : Dev) (f : Fabric → Fabric) : (d.modFab f).nvmeId = d.nvmeId := rfl
@[simp] theorem modFab_nvmeResets (d : Dev) (f : Fabric → Fabric) : (d.modFab f).nvmeResets = d.nvmeResets := rfl
@[simp] theorem modFab_wear (d : Dev) (f : Fabric → Fabric) : (d.modFab f).wear = d.wear := rfl
@[simp] theorem modFab_passes (d : Dev) (f : Fabric → Fabric) : (d.modFab f).passes = d.passes := rfl
@[simp] theorem modFab_batten (d : Dev) (f : Fabric → Fabric) : (d.modFab f).batten = d.batten := rfl
@[simp] theorem modFab_delivered (d : Dev) (f : Fabric → Fabric) : (d.modFab f).delivered = d.delivered := rfl
@[simp] theorem modFab_linkDropped (d : Dev) (f : Fabric → Fabric) : (d.modFab f).linkDropped = d.linkDropped := rfl
@[simp] theorem modFab_parts (d : Dev) (f : Fabric → Fabric) : (d.modFab f).parts = d.parts := rfl
@[simp] theorem modFab_collIn (d : Dev) (f : Fabric → Fabric) : (d.modFab f).collIn = d.collIn := rfl
@[simp] theorem modFab_collReports (d : Dev) (f : Fabric → Fabric) : (d.modFab f).collReports = d.collReports := rfl
@[simp] theorem modFab_chains (d : Dev) (f : Fabric → Fabric) : (d.modFab f).chains = d.chains := rfl
@[simp] theorem modFab_turns (d : Dev) (f : Fabric → Fabric) : (d.modFab f).turns = d.turns := rfl
@[simp] theorem modFab_readyIn (d : Dev) (f : Fabric → Fabric) : (d.modFab f).readyIn = d.readyIn := rfl
@[simp] theorem modFab_decisionIn (d : Dev) (f : Fabric → Fabric) : (d.modFab f).decisionIn = d.decisionIn := rfl
@[simp] theorem modFab_baseGrants (d : Dev) (f : Fabric → Fabric) : (d.modFab f).baseGrants = d.baseGrants := rfl
@[simp] theorem modFab_turnEnded (d : Dev) (f : Fabric → Fabric) : (d.modFab f).turnEnded = d.turnEnded := rfl
@[simp] theorem modFab_peerBad (d : Dev) (f : Fabric → Fabric) : (d.modFab f).peerBad = d.peerBad := rfl
@[simp] theorem modFab_pow (d : Dev) (f : Fabric → Fabric) : (d.modFab f).pow = d.pow := rfl
@[simp] theorem modFab_bar4 (d : Dev) (f : Fabric → Fabric) : (d.modFab f).bar4 = d.bar4 := rfl
@[simp] theorem modFab_deferredTests (d : Dev) (f : Fabric → Fabric) : (d.modFab f).deferredTests = d.deferredTests := rfl
@[simp] theorem modFab_host (d : Dev) (f : Fabric → Fabric) : (d.modFab f).host = d.host := rfl
@[simp] theorem modFab_bring (d : Dev) (f : Fabric → Fabric) : (d.modFab f).bring = d.bring := rfl

/-! ## modPow -/

@[simp] theorem modPow_now (d : Dev) (f : PowerSt → PowerSt) : (d.modPow f).now = d.now := rfl
@[simp] theorem modPow_free (d : Dev) (f : PowerSt → PowerSt) : (d.modPow f).free = d.free := rfl
@[simp] theorem modPow_regs (d : Dev) (f : PowerSt → PowerSt) : (d.modPow f).regs = d.regs := rfl
@[simp] theorem modPow_readLatch (d : Dev) (f : PowerSt → PowerSt) : (d.modPow f).readLatch = d.readLatch := rfl
@[simp] theorem modPow_writeLatch (d : Dev) (f : PowerSt → PowerSt) : (d.modPow f).writeLatch = d.writeLatch := rfl
@[simp] theorem modPow_msix (d : Dev) (f : PowerSt → PowerSt) : (d.modPow f).msix = d.msix := rfl
@[simp] theorem modPow_msixPending (d : Dev) (f : PowerSt → PowerSt) : (d.modPow f).msixPending = d.msixPending := rfl
@[simp] theorem modPow_hbm (d : Dev) (f : PowerSt → PowerSt) : (d.modPow f).hbm = d.hbm := rfl
@[simp] theorem modPow_hbmBad (d : Dev) (f : PowerSt → PowerSt) : (d.modPow f).hbmBad = d.hbmBad := rfl
@[simp] theorem modPow_loft (d : Dev) (f : PowerSt → PowerSt) : (d.modPow f).loft = d.loft := rfl
@[simp] theorem modPow_loftBad (d : Dev) (f : PowerSt → PowerSt) : (d.modPow f).loftBad = d.loftBad := rfl
@[simp] theorem modPow_loftSoft (d : Dev) (f : PowerSt → PowerSt) : (d.modPow f).loftSoft = d.loftSoft := rfl
@[simp] theorem modPow_hostMem (d : Dev) (f : PowerSt → PowerSt) : (d.modPow f).hostMem = d.hostMem := rfl
@[simp] theorem modPow_hostBad (d : Dev) (f : PowerSt → PowerSt) : (d.modPow f).hostBad = d.hostBad := rfl
@[simp] theorem modPow_stage (d : Dev) (f : PowerSt → PowerSt) : (d.modPow f).stage = d.stage := rfl
@[simp] theorem modPow_objs (d : Dev) (f : PowerSt → PowerSt) : (d.modPow f).objs = d.objs := rfl
@[simp] theorem modPow_peerMem (d : Dev) (f : PowerSt → PowerSt) : (d.modPow f).peerMem = d.peerMem := rfl
@[simp] theorem modPow_bays (d : Dev) (f : PowerSt → PowerSt) : (d.modPow f).bays = d.bays := rfl
@[simp] theorem modPow_sqs (d : Dev) (f : PowerSt → PowerSt) : (d.modPow f).sqs = d.sqs := rfl
@[simp] theorem modPow_cqs (d : Dev) (f : PowerSt → PowerSt) : (d.modPow f).cqs = d.cqs := rfl
@[simp] theorem modPow_kernels (d : Dev) (f : PowerSt → PowerSt) : (d.modPow f).kernels = d.kernels := rfl
@[simp] theorem modPow_copies (d : Dev) (f : PowerSt → PowerSt) : (d.modPow f).copies = d.copies := rfl
@[simp] theorem modPow_steps (d : Dev) (f : PowerSt → PowerSt) : (d.modPow f).steps = d.steps := rfl
@[simp] theorem modPow_arr (d : Dev) (f : PowerSt → PowerSt) : (d.modPow f).arr = d.arr := rfl
@[simp] theorem modPow_sched (d : Dev) (f : PowerSt → PowerSt) : (d.modPow f).sched = d.sched := rfl
@[simp] theorem modPow_cache0 (d : Dev) (f : PowerSt → PowerSt) : (d.modPow f).cache0 = d.cache0 := rfl
@[simp] theorem modPow_cache1 (d : Dev) (f : PowerSt → PowerSt) : (d.modPow f).cache1 = d.cache1 := rfl
@[simp] theorem modPow_misses0 (d : Dev) (f : PowerSt → PowerSt) : (d.modPow f).misses0 = d.misses0 := rfl
@[simp] theorem modPow_misses1 (d : Dev) (f : PowerSt → PowerSt) : (d.modPow f).misses1 = d.misses1 := rfl
@[simp] theorem modPow_startOrder (d : Dev) (f : PowerSt → PowerSt) : (d.modPow f).startOrder = d.startOrder := rfl
@[simp] theorem modPow_errRing (d : Dev) (f : PowerSt → PowerSt) : (d.modPow f).errRing = d.errRing := rfl
@[simp] theorem modPow_corrAt (d : Dev) (f : PowerSt → PowerSt) : (d.modPow f).corrAt = d.corrAt := rfl
@[simp] theorem modPow_sent (d : Dev) (f : PowerSt → PowerSt) : (d.modPow f).sent = d.sent := rfl
@[simp] theorem modPow_reply (d : Dev) (f : PowerSt → PowerSt) : (d.modPow f).reply = d.reply := rfl
@[simp] theorem modPow_lath (d : Dev) (f : PowerSt → PowerSt) : (d.modPow f).lath = d.lath := rfl
@[simp] theorem modPow_engUpset (d : Dev) (f : PowerSt → PowerSt) : (d.modPow f).engUpset = d.engUpset := rfl
@[simp] theorem modPow_eave (d : Dev) (f : PowerSt → PowerSt) : (d.modPow f).eave = d.eave := rfl
@[simp] theorem modPow_ulPages (d : Dev) (f : PowerSt → PowerSt) : (d.modPow f).ulPages = d.ulPages := rfl
@[simp] theorem modPow_ulSets (d : Dev) (f : PowerSt → PowerSt) : (d.modPow f).ulSets = d.ulSets := rfl
@[simp] theorem modPow_ulSerial (d : Dev) (f : PowerSt → PowerSt) : (d.modPow f).ulSerial = d.ulSerial := rfl
@[simp] theorem modPow_nvme (d : Dev) (f : PowerSt → PowerSt) : (d.modPow f).nvme = d.nvme := rfl
@[simp] theorem modPow_nvmeId (d : Dev) (f : PowerSt → PowerSt) : (d.modPow f).nvmeId = d.nvmeId := rfl
@[simp] theorem modPow_nvmeResets (d : Dev) (f : PowerSt → PowerSt) : (d.modPow f).nvmeResets = d.nvmeResets := rfl
@[simp] theorem modPow_wear (d : Dev) (f : PowerSt → PowerSt) : (d.modPow f).wear = d.wear := rfl
@[simp] theorem modPow_passes (d : Dev) (f : PowerSt → PowerSt) : (d.modPow f).passes = d.passes := rfl
@[simp] theorem modPow_batten (d : Dev) (f : PowerSt → PowerSt) : (d.modPow f).batten = d.batten := rfl
@[simp] theorem modPow_delivered (d : Dev) (f : PowerSt → PowerSt) : (d.modPow f).delivered = d.delivered := rfl
@[simp] theorem modPow_linkDropped (d : Dev) (f : PowerSt → PowerSt) : (d.modPow f).linkDropped = d.linkDropped := rfl
@[simp] theorem modPow_parts (d : Dev) (f : PowerSt → PowerSt) : (d.modPow f).parts = d.parts := rfl
@[simp] theorem modPow_collIn (d : Dev) (f : PowerSt → PowerSt) : (d.modPow f).collIn = d.collIn := rfl
@[simp] theorem modPow_collReports (d : Dev) (f : PowerSt → PowerSt) : (d.modPow f).collReports = d.collReports := rfl
@[simp] theorem modPow_chains (d : Dev) (f : PowerSt → PowerSt) : (d.modPow f).chains = d.chains := rfl
@[simp] theorem modPow_turns (d : Dev) (f : PowerSt → PowerSt) : (d.modPow f).turns = d.turns := rfl
@[simp] theorem modPow_readyIn (d : Dev) (f : PowerSt → PowerSt) : (d.modPow f).readyIn = d.readyIn := rfl
@[simp] theorem modPow_decisionIn (d : Dev) (f : PowerSt → PowerSt) : (d.modPow f).decisionIn = d.decisionIn := rfl
@[simp] theorem modPow_baseGrants (d : Dev) (f : PowerSt → PowerSt) : (d.modPow f).baseGrants = d.baseGrants := rfl
@[simp] theorem modPow_turnEnded (d : Dev) (f : PowerSt → PowerSt) : (d.modPow f).turnEnded = d.turnEnded := rfl
@[simp] theorem modPow_fab (d : Dev) (f : PowerSt → PowerSt) : (d.modPow f).fab = d.fab := rfl
@[simp] theorem modPow_peerBad (d : Dev) (f : PowerSt → PowerSt) : (d.modPow f).peerBad = d.peerBad := rfl
@[simp] theorem modPow_bar4 (d : Dev) (f : PowerSt → PowerSt) : (d.modPow f).bar4 = d.bar4 := rfl
@[simp] theorem modPow_deferredTests (d : Dev) (f : PowerSt → PowerSt) : (d.modPow f).deferredTests = d.deferredTests := rfl
@[simp] theorem modPow_host (d : Dev) (f : PowerSt → PowerSt) : (d.modPow f).host = d.host := rfl
@[simp] theorem modPow_bring (d : Dev) (f : PowerSt → PowerSt) : (d.modPow f).bring = d.bring := rfl

/-! ## modBring -/

@[simp] theorem modBring_now (d : Dev) (f : BringSt → BringSt) : (d.modBring f).now = d.now := rfl
@[simp] theorem modBring_free (d : Dev) (f : BringSt → BringSt) : (d.modBring f).free = d.free := rfl
@[simp] theorem modBring_regs (d : Dev) (f : BringSt → BringSt) : (d.modBring f).regs = d.regs := rfl
@[simp] theorem modBring_readLatch (d : Dev) (f : BringSt → BringSt) : (d.modBring f).readLatch = d.readLatch := rfl
@[simp] theorem modBring_writeLatch (d : Dev) (f : BringSt → BringSt) : (d.modBring f).writeLatch = d.writeLatch := rfl
@[simp] theorem modBring_msix (d : Dev) (f : BringSt → BringSt) : (d.modBring f).msix = d.msix := rfl
@[simp] theorem modBring_msixPending (d : Dev) (f : BringSt → BringSt) : (d.modBring f).msixPending = d.msixPending := rfl
@[simp] theorem modBring_hbm (d : Dev) (f : BringSt → BringSt) : (d.modBring f).hbm = d.hbm := rfl
@[simp] theorem modBring_hbmBad (d : Dev) (f : BringSt → BringSt) : (d.modBring f).hbmBad = d.hbmBad := rfl
@[simp] theorem modBring_loft (d : Dev) (f : BringSt → BringSt) : (d.modBring f).loft = d.loft := rfl
@[simp] theorem modBring_loftBad (d : Dev) (f : BringSt → BringSt) : (d.modBring f).loftBad = d.loftBad := rfl
@[simp] theorem modBring_loftSoft (d : Dev) (f : BringSt → BringSt) : (d.modBring f).loftSoft = d.loftSoft := rfl
@[simp] theorem modBring_hostMem (d : Dev) (f : BringSt → BringSt) : (d.modBring f).hostMem = d.hostMem := rfl
@[simp] theorem modBring_hostBad (d : Dev) (f : BringSt → BringSt) : (d.modBring f).hostBad = d.hostBad := rfl
@[simp] theorem modBring_stage (d : Dev) (f : BringSt → BringSt) : (d.modBring f).stage = d.stage := rfl
@[simp] theorem modBring_objs (d : Dev) (f : BringSt → BringSt) : (d.modBring f).objs = d.objs := rfl
@[simp] theorem modBring_peerMem (d : Dev) (f : BringSt → BringSt) : (d.modBring f).peerMem = d.peerMem := rfl
@[simp] theorem modBring_bays (d : Dev) (f : BringSt → BringSt) : (d.modBring f).bays = d.bays := rfl
@[simp] theorem modBring_sqs (d : Dev) (f : BringSt → BringSt) : (d.modBring f).sqs = d.sqs := rfl
@[simp] theorem modBring_cqs (d : Dev) (f : BringSt → BringSt) : (d.modBring f).cqs = d.cqs := rfl
@[simp] theorem modBring_kernels (d : Dev) (f : BringSt → BringSt) : (d.modBring f).kernels = d.kernels := rfl
@[simp] theorem modBring_copies (d : Dev) (f : BringSt → BringSt) : (d.modBring f).copies = d.copies := rfl
@[simp] theorem modBring_steps (d : Dev) (f : BringSt → BringSt) : (d.modBring f).steps = d.steps := rfl
@[simp] theorem modBring_arr (d : Dev) (f : BringSt → BringSt) : (d.modBring f).arr = d.arr := rfl
@[simp] theorem modBring_sched (d : Dev) (f : BringSt → BringSt) : (d.modBring f).sched = d.sched := rfl
@[simp] theorem modBring_cache0 (d : Dev) (f : BringSt → BringSt) : (d.modBring f).cache0 = d.cache0 := rfl
@[simp] theorem modBring_cache1 (d : Dev) (f : BringSt → BringSt) : (d.modBring f).cache1 = d.cache1 := rfl
@[simp] theorem modBring_misses0 (d : Dev) (f : BringSt → BringSt) : (d.modBring f).misses0 = d.misses0 := rfl
@[simp] theorem modBring_misses1 (d : Dev) (f : BringSt → BringSt) : (d.modBring f).misses1 = d.misses1 := rfl
@[simp] theorem modBring_startOrder (d : Dev) (f : BringSt → BringSt) : (d.modBring f).startOrder = d.startOrder := rfl
@[simp] theorem modBring_errRing (d : Dev) (f : BringSt → BringSt) : (d.modBring f).errRing = d.errRing := rfl
@[simp] theorem modBring_corrAt (d : Dev) (f : BringSt → BringSt) : (d.modBring f).corrAt = d.corrAt := rfl
@[simp] theorem modBring_sent (d : Dev) (f : BringSt → BringSt) : (d.modBring f).sent = d.sent := rfl
@[simp] theorem modBring_reply (d : Dev) (f : BringSt → BringSt) : (d.modBring f).reply = d.reply := rfl
@[simp] theorem modBring_lath (d : Dev) (f : BringSt → BringSt) : (d.modBring f).lath = d.lath := rfl
@[simp] theorem modBring_engUpset (d : Dev) (f : BringSt → BringSt) : (d.modBring f).engUpset = d.engUpset := rfl
@[simp] theorem modBring_eave (d : Dev) (f : BringSt → BringSt) : (d.modBring f).eave = d.eave := rfl
@[simp] theorem modBring_ulPages (d : Dev) (f : BringSt → BringSt) : (d.modBring f).ulPages = d.ulPages := rfl
@[simp] theorem modBring_ulSets (d : Dev) (f : BringSt → BringSt) : (d.modBring f).ulSets = d.ulSets := rfl
@[simp] theorem modBring_ulSerial (d : Dev) (f : BringSt → BringSt) : (d.modBring f).ulSerial = d.ulSerial := rfl
@[simp] theorem modBring_nvme (d : Dev) (f : BringSt → BringSt) : (d.modBring f).nvme = d.nvme := rfl
@[simp] theorem modBring_nvmeId (d : Dev) (f : BringSt → BringSt) : (d.modBring f).nvmeId = d.nvmeId := rfl
@[simp] theorem modBring_nvmeResets (d : Dev) (f : BringSt → BringSt) : (d.modBring f).nvmeResets = d.nvmeResets := rfl
@[simp] theorem modBring_wear (d : Dev) (f : BringSt → BringSt) : (d.modBring f).wear = d.wear := rfl
@[simp] theorem modBring_passes (d : Dev) (f : BringSt → BringSt) : (d.modBring f).passes = d.passes := rfl
@[simp] theorem modBring_batten (d : Dev) (f : BringSt → BringSt) : (d.modBring f).batten = d.batten := rfl
@[simp] theorem modBring_delivered (d : Dev) (f : BringSt → BringSt) : (d.modBring f).delivered = d.delivered := rfl
@[simp] theorem modBring_linkDropped (d : Dev) (f : BringSt → BringSt) : (d.modBring f).linkDropped = d.linkDropped := rfl
@[simp] theorem modBring_parts (d : Dev) (f : BringSt → BringSt) : (d.modBring f).parts = d.parts := rfl
@[simp] theorem modBring_collIn (d : Dev) (f : BringSt → BringSt) : (d.modBring f).collIn = d.collIn := rfl
@[simp] theorem modBring_collReports (d : Dev) (f : BringSt → BringSt) : (d.modBring f).collReports = d.collReports := rfl
@[simp] theorem modBring_chains (d : Dev) (f : BringSt → BringSt) : (d.modBring f).chains = d.chains := rfl
@[simp] theorem modBring_turns (d : Dev) (f : BringSt → BringSt) : (d.modBring f).turns = d.turns := rfl
@[simp] theorem modBring_readyIn (d : Dev) (f : BringSt → BringSt) : (d.modBring f).readyIn = d.readyIn := rfl
@[simp] theorem modBring_decisionIn (d : Dev) (f : BringSt → BringSt) : (d.modBring f).decisionIn = d.decisionIn := rfl
@[simp] theorem modBring_baseGrants (d : Dev) (f : BringSt → BringSt) : (d.modBring f).baseGrants = d.baseGrants := rfl
@[simp] theorem modBring_turnEnded (d : Dev) (f : BringSt → BringSt) : (d.modBring f).turnEnded = d.turnEnded := rfl
@[simp] theorem modBring_fab (d : Dev) (f : BringSt → BringSt) : (d.modBring f).fab = d.fab := rfl
@[simp] theorem modBring_peerBad (d : Dev) (f : BringSt → BringSt) : (d.modBring f).peerBad = d.peerBad := rfl
@[simp] theorem modBring_pow (d : Dev) (f : BringSt → BringSt) : (d.modBring f).pow = d.pow := rfl
@[simp] theorem modBring_bar4 (d : Dev) (f : BringSt → BringSt) : (d.modBring f).bar4 = d.bar4 := rfl
@[simp] theorem modBring_deferredTests (d : Dev) (f : BringSt → BringSt) : (d.modBring f).deferredTests = d.deferredTests := rfl
@[simp] theorem modBring_host (d : Dev) (f : BringSt → BringSt) : (d.modBring f).host = d.host := rfl

/-! ## modHost -/

@[simp] theorem modHost_now (d : Dev) (f : HostSt → HostSt) : (d.modHost f).now = d.now := rfl
@[simp] theorem modHost_free (d : Dev) (f : HostSt → HostSt) : (d.modHost f).free = d.free := rfl
@[simp] theorem modHost_regs (d : Dev) (f : HostSt → HostSt) : (d.modHost f).regs = d.regs := rfl
@[simp] theorem modHost_readLatch (d : Dev) (f : HostSt → HostSt) : (d.modHost f).readLatch = d.readLatch := rfl
@[simp] theorem modHost_writeLatch (d : Dev) (f : HostSt → HostSt) : (d.modHost f).writeLatch = d.writeLatch := rfl
@[simp] theorem modHost_msix (d : Dev) (f : HostSt → HostSt) : (d.modHost f).msix = d.msix := rfl
@[simp] theorem modHost_msixPending (d : Dev) (f : HostSt → HostSt) : (d.modHost f).msixPending = d.msixPending := rfl
@[simp] theorem modHost_hbm (d : Dev) (f : HostSt → HostSt) : (d.modHost f).hbm = d.hbm := rfl
@[simp] theorem modHost_hbmBad (d : Dev) (f : HostSt → HostSt) : (d.modHost f).hbmBad = d.hbmBad := rfl
@[simp] theorem modHost_loft (d : Dev) (f : HostSt → HostSt) : (d.modHost f).loft = d.loft := rfl
@[simp] theorem modHost_loftBad (d : Dev) (f : HostSt → HostSt) : (d.modHost f).loftBad = d.loftBad := rfl
@[simp] theorem modHost_loftSoft (d : Dev) (f : HostSt → HostSt) : (d.modHost f).loftSoft = d.loftSoft := rfl
@[simp] theorem modHost_hostMem (d : Dev) (f : HostSt → HostSt) : (d.modHost f).hostMem = d.hostMem := rfl
@[simp] theorem modHost_hostBad (d : Dev) (f : HostSt → HostSt) : (d.modHost f).hostBad = d.hostBad := rfl
@[simp] theorem modHost_stage (d : Dev) (f : HostSt → HostSt) : (d.modHost f).stage = d.stage := rfl
@[simp] theorem modHost_objs (d : Dev) (f : HostSt → HostSt) : (d.modHost f).objs = d.objs := rfl
@[simp] theorem modHost_peerMem (d : Dev) (f : HostSt → HostSt) : (d.modHost f).peerMem = d.peerMem := rfl
@[simp] theorem modHost_bays (d : Dev) (f : HostSt → HostSt) : (d.modHost f).bays = d.bays := rfl
@[simp] theorem modHost_sqs (d : Dev) (f : HostSt → HostSt) : (d.modHost f).sqs = d.sqs := rfl
@[simp] theorem modHost_cqs (d : Dev) (f : HostSt → HostSt) : (d.modHost f).cqs = d.cqs := rfl
@[simp] theorem modHost_kernels (d : Dev) (f : HostSt → HostSt) : (d.modHost f).kernels = d.kernels := rfl
@[simp] theorem modHost_copies (d : Dev) (f : HostSt → HostSt) : (d.modHost f).copies = d.copies := rfl
@[simp] theorem modHost_steps (d : Dev) (f : HostSt → HostSt) : (d.modHost f).steps = d.steps := rfl
@[simp] theorem modHost_arr (d : Dev) (f : HostSt → HostSt) : (d.modHost f).arr = d.arr := rfl
@[simp] theorem modHost_sched (d : Dev) (f : HostSt → HostSt) : (d.modHost f).sched = d.sched := rfl
@[simp] theorem modHost_cache0 (d : Dev) (f : HostSt → HostSt) : (d.modHost f).cache0 = d.cache0 := rfl
@[simp] theorem modHost_cache1 (d : Dev) (f : HostSt → HostSt) : (d.modHost f).cache1 = d.cache1 := rfl
@[simp] theorem modHost_misses0 (d : Dev) (f : HostSt → HostSt) : (d.modHost f).misses0 = d.misses0 := rfl
@[simp] theorem modHost_misses1 (d : Dev) (f : HostSt → HostSt) : (d.modHost f).misses1 = d.misses1 := rfl
@[simp] theorem modHost_startOrder (d : Dev) (f : HostSt → HostSt) : (d.modHost f).startOrder = d.startOrder := rfl
@[simp] theorem modHost_errRing (d : Dev) (f : HostSt → HostSt) : (d.modHost f).errRing = d.errRing := rfl
@[simp] theorem modHost_corrAt (d : Dev) (f : HostSt → HostSt) : (d.modHost f).corrAt = d.corrAt := rfl
@[simp] theorem modHost_sent (d : Dev) (f : HostSt → HostSt) : (d.modHost f).sent = d.sent := rfl
@[simp] theorem modHost_reply (d : Dev) (f : HostSt → HostSt) : (d.modHost f).reply = d.reply := rfl
@[simp] theorem modHost_lath (d : Dev) (f : HostSt → HostSt) : (d.modHost f).lath = d.lath := rfl
@[simp] theorem modHost_engUpset (d : Dev) (f : HostSt → HostSt) : (d.modHost f).engUpset = d.engUpset := rfl
@[simp] theorem modHost_eave (d : Dev) (f : HostSt → HostSt) : (d.modHost f).eave = d.eave := rfl
@[simp] theorem modHost_ulPages (d : Dev) (f : HostSt → HostSt) : (d.modHost f).ulPages = d.ulPages := rfl
@[simp] theorem modHost_ulSets (d : Dev) (f : HostSt → HostSt) : (d.modHost f).ulSets = d.ulSets := rfl
@[simp] theorem modHost_ulSerial (d : Dev) (f : HostSt → HostSt) : (d.modHost f).ulSerial = d.ulSerial := rfl
@[simp] theorem modHost_nvme (d : Dev) (f : HostSt → HostSt) : (d.modHost f).nvme = d.nvme := rfl
@[simp] theorem modHost_nvmeId (d : Dev) (f : HostSt → HostSt) : (d.modHost f).nvmeId = d.nvmeId := rfl
@[simp] theorem modHost_nvmeResets (d : Dev) (f : HostSt → HostSt) : (d.modHost f).nvmeResets = d.nvmeResets := rfl
@[simp] theorem modHost_wear (d : Dev) (f : HostSt → HostSt) : (d.modHost f).wear = d.wear := rfl
@[simp] theorem modHost_passes (d : Dev) (f : HostSt → HostSt) : (d.modHost f).passes = d.passes := rfl
@[simp] theorem modHost_batten (d : Dev) (f : HostSt → HostSt) : (d.modHost f).batten = d.batten := rfl
@[simp] theorem modHost_delivered (d : Dev) (f : HostSt → HostSt) : (d.modHost f).delivered = d.delivered := rfl
@[simp] theorem modHost_linkDropped (d : Dev) (f : HostSt → HostSt) : (d.modHost f).linkDropped = d.linkDropped := rfl
@[simp] theorem modHost_parts (d : Dev) (f : HostSt → HostSt) : (d.modHost f).parts = d.parts := rfl
@[simp] theorem modHost_collIn (d : Dev) (f : HostSt → HostSt) : (d.modHost f).collIn = d.collIn := rfl
@[simp] theorem modHost_collReports (d : Dev) (f : HostSt → HostSt) : (d.modHost f).collReports = d.collReports := rfl
@[simp] theorem modHost_chains (d : Dev) (f : HostSt → HostSt) : (d.modHost f).chains = d.chains := rfl
@[simp] theorem modHost_turns (d : Dev) (f : HostSt → HostSt) : (d.modHost f).turns = d.turns := rfl
@[simp] theorem modHost_readyIn (d : Dev) (f : HostSt → HostSt) : (d.modHost f).readyIn = d.readyIn := rfl
@[simp] theorem modHost_decisionIn (d : Dev) (f : HostSt → HostSt) : (d.modHost f).decisionIn = d.decisionIn := rfl
@[simp] theorem modHost_baseGrants (d : Dev) (f : HostSt → HostSt) : (d.modHost f).baseGrants = d.baseGrants := rfl
@[simp] theorem modHost_turnEnded (d : Dev) (f : HostSt → HostSt) : (d.modHost f).turnEnded = d.turnEnded := rfl
@[simp] theorem modHost_fab (d : Dev) (f : HostSt → HostSt) : (d.modHost f).fab = d.fab := rfl
@[simp] theorem modHost_peerBad (d : Dev) (f : HostSt → HostSt) : (d.modHost f).peerBad = d.peerBad := rfl
@[simp] theorem modHost_pow (d : Dev) (f : HostSt → HostSt) : (d.modHost f).pow = d.pow := rfl
@[simp] theorem modHost_bar4 (d : Dev) (f : HostSt → HostSt) : (d.modHost f).bar4 = d.bar4 := rfl
@[simp] theorem modHost_deferredTests (d : Dev) (f : HostSt → HostSt) : (d.modHost f).deferredTests = d.deferredTests := rfl
@[simp] theorem modHost_bring (d : Dev) (f : HostSt → HostSt) : (d.modHost f).bring = d.bring := rfl

/-! ## A meaning that acts on the module alone -/

@[simp] theorem go_next (s : State) (f : Dev → Dev) : s.go f = .next { s with dev := f s.dev } := rfl

end Sys2Proof.Machine
end

