-- ==== Sys2Proof/Laws/Ops.lean ====
section
/-!
SUPPORT. Laws/Ops.lean: what each shared operation can do, said once: the fields it may change, and of the registers which.
-/
namespace Sys2Proof.Machine

/-! ## Frames: every field but the named ones is the module's own -/

theorem hostWrite_frame (d : Dev) (a : Nat) (bs : List Byte) :
    d.hostWrite a bs = { d with regs := (d.hostWrite a bs).regs, hostMem := (d.hostWrite a bs).hostMem } := by
  unfold Dev.hostWrite; split <;> rfl

theorem hostWriteOf_frame (d : Dev) (b a : Nat) (bs : List Byte) :
    d.hostWriteOf b a bs = { d with regs := (d.hostWriteOf b a bs).regs, hostMem := (d.hostWriteOf b a bs).hostMem } := by
  unfold Dev.hostWriteOf; split
  · rw [hostWrite_frame]
  · rfl

theorem signal_frame (d : Dev) (f v : Nat) :
    d.signal f v = { d with regs := (d.signal f v).regs, hostMem := (d.signal f v).hostMem, msixPending := (d.signal f v).msixPending } := by
  unfold Dev.signal; split
  · rfl
  · rw [hostWriteOf_frame]

theorem event_frame (d : Dev) (b code data extra : Nat) :
    d.event b code data extra = { d with regs := (d.event b code data extra).regs, hostMem := (d.event b code data extra).hostMem
                                         bays := (d.event b code data extra).bays } := by
  unfold Dev.event; dsimp only; split
  · rfl
  · rw [hostWriteOf_frame]; rfl

theorem record_frame (d : Dev) (e : ErrRec) :
    d.record e = { d with regs := (d.record e).regs, errRing := (d.record e).errRing } := by
  unfold Dev.record; dsimp only; split <;> rfl

theorem postCpl_frame (d : Dev) (c : Cmd) (st r e : Nat) :
    d.postCpl c st r e = { d with regs := (d.postCpl c st r e).regs, cqs := (d.postCpl c st r e).cqs } := by
  unfold Dev.postCpl; dsimp only; split
  · rfl
  · split <;> rfl

theorem complete_frame (d : Dev) (c : Cmd) (st r e : Nat) :
    d.complete c st r e = { d with regs := (d.complete c st r e).regs, cqs := (d.complete c st r e).cqs, sqs := (d.complete c st r e).sqs } := by
  unfold Dev.complete; rw [postCpl_frame]

/-! ## Registers -/

theorem rd_hostWrite (d : Dev) (a : Nat) (bs : List Byte) {r : Reg} {i : Nat} (h : r.addr i ≠ Reg.hostifTxBytes.addr 0) :
    (d.hostWrite a bs).rd r i = d.rd r i := by
  unfold Dev.hostWrite; split
  · rfl
  · simp only [Dev.tx, addW_eq]; rw [rd_wr_other _ _ h]; rfl

theorem rd_postCpl (d : Dev) (c : Cmd) (st x e : Nat) {r : Reg} {i : Nat} (h : r.addr i ≠ Reg.bayCmdsDone.addr c.bay) :
    (d.postCpl c st x e).rd r i = d.rd r i := by
  unfold Dev.postCpl; dsimp only
  have h1 : (d.addW .bayCmdsDone c.bay 1).rd r i = d.rd r i := by rw [addW_eq, rd_wr_other _ _ h]
  split
  · exact h1
  · split
    · exact h1
    · exact h1

theorem rd_complete (d : Dev) (c : Cmd) (st x e : Nat) {r : Reg} {i : Nat} (h : r.addr i ≠ Reg.bayCmdsDone.addr c.bay) :
    (d.complete c st x e).rd r i = d.rd r i := rd_postCpl d c st x e h

/-! ## Completion -/

theorem postCpl_sqs (d : Dev) (c : Cmd) (st r e : Nat) : (d.postCpl c st r e).sqs = d.sqs := by rw [postCpl_frame]

theorem smFind_smMod_same {α : Type} (m : SMap α) (a : Nat) (f : α → α) : smFind (smMod m a f) a = (smFind m a).map f := by
  unfold smMod; split
  · next h => simp [h]
  · next h => simp [h]

theorem smFind_smMod_other {α : Type} (m : SMap α) {a b : Nat} (f : α → α) (h : b ≠ a) : smFind (smMod m a f) b = smFind m b := by
  unfold smMod; split
  · rfl
  · exact smFind_smPut_other _ _ h

theorem complete_run (d : Dev) (c : Cmd) (st r e : Nat) {y : Sq} (h : smFind (d.complete c st r e).sqs c.sq = some y) : y.run = none := by
  unfold Dev.complete at h
  simp only [smFind_smMod_same, postCpl_sqs] at h
  cases hs : smFind d.sqs c.sq with
  | none => simp [hs] at h
  | some s => simp [hs] at h; rw [← h]

theorem complete_entry (d : Dev) (c : Cmd) (st r e : Nat) {x : Sq} {k : Cq} (hx : smFind d.sqs c.sq = some x) (hk : smFind d.cqs x.cq = some k)
    (h1 : k.st = 1) (hn : (c.noCompletion && st == stOk) = false) :
    ∃ k' y, smFind (d.complete c st r e).cqs x.cq = some k' ∧ y ∈ k'.waiting ∧ y.tag = c.tag ∧ y.status = st ∧ y.sq = c.sq
      ∧ y.result = min r (2 ^ 32 - 1) := by
  have hc : (d.complete c st r e).cqs = (d.postCpl c st r e).cqs := rfl
  have hn' : ¬ (c.noCompletion && st == stOk) = true := by simp [hn]
  have hx1 : smFind (d.addW .bayCmdsDone c.bay 1).sqs c.sq = some x := hx
  rw [hc]; unfold Dev.postCpl; dsimp only; rw [if_neg hn', hx]
  refine ⟨_, { tag := c.tag, status := st, sq := c.sq, result := min r (2 ^ 32 - 1), extra := e, ext := c.extended, signal := c.eventOnDone, time := d.now }, smFind_smMod_same _ _ _ |>.trans (by rw [show (d.addW .bayCmdsDone c.bay 1).cqs = d.cqs from rfl, hk]; rfl), ?_⟩
  simp only [h1, ne_eq, not_true_eq_false, if_false]
  exact ⟨List.mem_append_right _ (List.mem_singleton.mpr rfl), trivial, trivial, trivial, trivial⟩

end Sys2Proof.Machine

namespace Sys2Proof.Claims
open Sys2Proof.Machine

/-- What `complete` does to the SQ and to its CQ. -/
theorem ended_complete {s t : State} {q : Nat} {c : Cmd} {st r : Nat} {d : Dev} {e : Nat} (hq : c.sq = q)
    (hs : smFind d.sqs q = smFind s.dev.sqs q) (hc : ∀ x, smFind s.dev.sqs q = some x → smFind d.cqs x.cq = smFind s.dev.cqs x.cq)
    (ht : t.dev = d.complete c st r e) : Ended s t q c st r := by
  subst hq
  intro x hx
  refine ⟨fun y hy => ?_, fun k hk h1 hn => ?_⟩
  · rw [ht] at hy; exact complete_run _ _ _ _ _ hy
  · rw [ht]
    exact complete_entry d c st r e (hs.trans hx) ((hc x hx).trans hk) h1 hn

theorem complete_sqs_other (d : Dev) (c : Cmd) (st r e : Nat) {p : Nat} (h : p ≠ c.sq) :
    smFind (d.complete c st r e).sqs p = smFind d.sqs p := by
  unfold Dev.complete; dsimp only; rw [smFind_smMod_other _ _ h, postCpl_sqs]

theorem complete_cqs_other (d : Dev) (c : Cmd) (st r e : Nat) {x : Sq} (hx : smFind d.sqs c.sq = some x) {p : Nat} (h : p ≠ x.cq) :
    smFind (d.complete c st r e).cqs p = smFind d.cqs p := by
  have hx1 : smFind (d.addW .bayCmdsDone c.bay 1).sqs c.sq = some x := hx
  show smFind (d.postCpl c st r e).cqs p = _
  unfold Dev.postCpl; dsimp only; split
  · rfl
  · rw [hx]; exact smFind_smMod_other _ _ h

/-- What `complete` leaves alone, where the module is as before in its queues and registers. -/
theorem clean_complete {s t : State} {q : Nat} {c : Cmd} {st r : Nat} {d : Dev} {e : Nat} (hq : c.sq = q)
    (hs : d.sqs = s.dev.sqs) (hc : d.cqs = s.dev.cqs) (hr : ∀ r i, r.addr i ≠ Reg.bayCmdsDone.addr c.bay → d.rd r i = s.dev.rd r i)
    (ht : t.dev = d.complete c st r e) : Clean s t q c := by
  subst hq
  refine ⟨fun p hp => by rw [ht, complete_sqs_other _ _ _ _ _ hp, hs], fun x hx k hk => ?_, fun r i h => ?_⟩
  · rw [ht, complete_cqs_other d c st r e (x := x) (by rw [hs, hx]) hk, hc]
  · have h' := h _ (List.mem_singleton.mpr rfl)
    rw [ht, rd_complete _ _ _ _ _ h', hr _ _ h']

/-! ## The host's writes where the link is up -/

theorem hostTakes_up {s : State} {fns : List Nat} (h : HostUp s fns) (f : Dev → Dev) : s.dev.hostTakes fns f = f s.dev := by
  simp only [Dev.hostTakes, h.1, h.2.1, Bool.not_true, Bool.false_eq_true, if_false, if_true]

theorem stepDone_rx (d : Dev) (n c : Nat) : (d.rx n).stepDone c = d.stepDone c :=
  rbit_wr_other d _ _ (by decide)

theorem hostWrites_up {s : State} {fns : List Nat} (h : HostUp s fns) (n : Nat) (f : Dev → Dev) :
    s.dev.hostWrites fns n f = f (s.dev.rx n) := by
  simp only [Dev.hostWrites, hostTakes_up h, stepDone_rx, h.2.2, if_true]

theorem bayWrites_up {s : State} {b : Nat} (hb : b < 16) (h : HostUp s [0, b]) (n : Nat) (f : Dev → Dev) :
    s.dev.bayWrites b n f = f (s.dev.rx n) := by
  simp only [Dev.bayWrites, hostWrites_up h, if_neg (Nat.not_le.mpr hb), ge_iff_le]

theorem bellWrites_up {s : State} {b : Nat} (hb : b < 16) (h : HostUp s [b]) (n : Nat) (f : Dev → Dev) :
    s.dev.bellWrites b n f = f (s.dev.rx n) := by
  simp only [Dev.bellWrites, hostWrites_up h, if_neg (Nat.not_le.mpr hb), ge_iff_le]

theorem hostWritesEarly_up {s : State} (h : s.dev.linkUp = true) (hd : s.dev.host.d3.contains 0 = false) (n : Nat) (f : Dev → Dev) :
    s.dev.hostWritesEarly n f = f (s.dev.rx n) := by
  simp only [Dev.hostWritesEarly, Dev.hostTakes, Dev.answers, Dev.functionThere, h, Bool.not_true, Bool.false_eq_true, if_false, List.any_cons,
    hd, Bool.not_false, BEq.rfl, Bool.true_or, Bool.and_self, if_true]

/-- Receiving bytes changes the byte counter alone. -/
theorem rd_rx (d : Dev) (n : Nat) {r : Reg} {i : Nat} (h : r.addr i ≠ Reg.hostifRxBytes.addr 0) : (d.rx n).rd r i = d.rd r i :=
  rd_wr_other d _ h

end Sys2Proof.Claims
end

