-- ==== Sys2Proof/WellFormed.lean ====
section
/-!
DEFINITION. WellFormed.lean: which commands are well formed: each operand lies within the width of the field, or the range of the
number, that the spec gives it. The meanings hold for every operand; statements say where they assume this.
-/
namespace Sys2Proof

/-- `lo ≤ n ≤ hi`. -/
def inR (lo hi n : Nat) : Bool := decide (lo ≤ n) && decide (n ≤ hi)

/-- The header of a frame: a Reedline port, or 31 for a message of this module's own; a 15-bit source; a 32-bit INCARNATION. -/
def FrameHdr.wf (h : FrameHdr) : Bool := (decide (h.port < 18) || h.port == 31) && decide (h.src < 2 ^ 15) && decide (h.inc < 2 ^ 32)

/-- Who makes a request for a stack: a tag of 32 bits, and an NI of a die (Table 1-7a) or none; an engine of the unit is at the unit. -/
def Requester.ok (own : Bool) (r : Requester) : Bool :=
  decide (r.tag < 2 ^ 32) && r.ni.all fun n => !own && decide (n < 2 ^ 28) && decide (n % 256 < 20) && n / 256 % 16 == 5

/-- Is a command well formed? -/
def Instr.wf : Instr → Bool
  | .nop q => decide (q < 262144)
  | .fence q => decide (q < 262144)
  | .waitEvent q => decide (q < 262144)
  | .signalEvent q => decide (q < 262144)
  | .copy q => decide (q < 262144)
  | .fill q => decide (q < 262144)
  | .convert q => decide (q < 262144)
  | .gather q e => decide (q < 262144) && (e.all fun j => decide (j < 65536))
  | .scatterAdd q e => decide (q < 262144) && (e.all fun j => decide (j < 65536))
  | .kernel q => decide (q < 262144)
  | .step q => decide (q < 262144)
  | .reduceBind q => decide (q < 262144)
  | .reduceUnbind q => decide (q < 262144)
  | .reduceRun q => decide (q < 262144)
  | .allgather q => decide (q < 262144)
  | .alltoall q => decide (q < 262144)
  | .chainBroadcast q => decide (q < 262144)
  | .turnToGenerate q => decide (q < 262144)
  | .turnToLearn q => decide (q < 262144)
  | .sheafOpen q => decide (q < 262144)
  | .sheafPublish q => decide (q < 262144)
  | .sheafHold q => decide (q < 262144)
  | .sheafRelease q => decide (q < 262144)
  | .sheafQuery q => decide (q < 262144)
  | .sheafSwitch q => decide (q < 262144)
  | .sheafRetire q => decide (q < 262144)
  | .seqOpen q => decide (q < 262144)
  | .seqSubmit q => decide (q < 262144)
  | .seqGenerate q => decide (q < 262144)
  | .seqClose q => decide (q < 262144)
  | .prefixBuild q => decide (q < 262144)
  | .prefixDrop q => decide (q < 262144)
  | .objCreate q _ => decide (q < 262144)
  | .objDestroy q => decide (q < 262144)
  | .objQuery q => decide (q < 262144)
  | .objPlace q _ => decide (q < 262144)
  | .objFlush q => decide (q < 262144)
  | .map q => decide (q < 262144)
  | .mapRemote q _ => decide (q < 262144)
  | .unmap q => decide (q < 262144)
  | .underlayTake q => decide (q < 262144)
  | .underlayQuery q => decide (q < 262144)
  | .underlayDiscard q => decide (q < 262144)
  | .underlayRestore q _ _ => decide (q < 262144)
  | .replayRecord q => decide (q < 262144)
  | .replayCheck q => decide (q < 262144)
  | .statRead q => decide (q < 262144)
  | .statReset q => decide (q < 262144)
  | .statClose q => decide (q < 262144)
  | .setLimits q => decide (q < 262144)
  | .sarkingEnter q => decide (q < 262144)
  | .sarkingExit q => decide (q < 262144)
  | .selftest q found => decide (q < 262144) && (found.all fun u => decide (u < 2 ^ 32))
  | .calibrate q lanes _ => decide (q < 262144) && decide (lanes < 2 ^ 8)
  | .bayConfig q => decide (q < 262144)
  | .bayReset q => decide (q < 262144)
  | .grantBase q => decide (q < 262144)
  | .revokeBase q => decide (q < 262144)
  | .queueCreate q => decide (q < 262144)
  | .queueDelete q => decide (q < 262144)
  | .fwCommit q => decide (q < 262144)
  | .fwRelay q => decide (q < 262144)
  | .packetRead q => decide (q < 262144)
  | .commandStart q => decide (q < 262144)
  | .requestActivate b seg => decide (b < 16) && decide (seg < 65536)
  | .completionWrite c => decide (c < 65536)
  | .sqHeadWrite q => decide (q < 262144)
  | .cqCoalesceTimer c => decide (c < 65536)
  | .evqCoalesceTimer b => decide (b < 16)
  | .sqTailWrite b q v wide => decide (b < 16) && decide (q < 262144) && decide (v < 2 ^ (if wide then 64 else 32))
  | .cqHeadWrite b q v => decide (b < 16) && decide (q < 262144) && decide (v < 2 ^ 32)
  | .evqHeadWrite b h => decide (b < 16) && decide (h < 2 ^ 16)
  | .adminEnable b v => decide (b < 16) && decide (v < 2 ^ 32)
  | .adminDisable b v => decide (b < 16) && decide (v < 2 ^ 32)
  | .evqEnable b v => decide (b < 16) && decide (v < 2 ^ 32)
  | .evqDisable b v => decide (b < 16) && decide (v < 2 ^ 32)
  | .queueInspect v => decide (v < 2 ^ 32)
  | .trapClear b => decide (b < 16)
  | .numstatEnable b v => decide (b < 16) && decide (v < 2 ^ 32)
  | .numstatDisable b v => decide (b < 16) && decide (v < 2 ^ 32)
  | .pfstatReset b => decide (b < 16)
  | .arrayReqJoined => true
  | .arrayReqSplit => true
  | .arraySwitchStart => true
  | .arraySwitchEnd _ => true
  | .peerAdd v => decide (v < 2 ^ 32)
  | .peerRemove v => decide (v < 2 ^ 32)
  | .routeWrite v => decide (v < 2 ^ 32)
  | .portRetrain p v => decide (p < 18) && decide (v < 2 ^ 32)
  | .connAlloc v => decide (v < 2 ^ 32)
  | .connConnect v => decide (v < 2 ^ 32)
  | .connDestroy v => decide (v < 2 ^ 32)
  | .purlinSet v => decide (v < 2 ^ 64)
  | .holdGo v => decide (v < 2 ^ 32)
  | .holdRelease v => decide (v < 2 ^ 32)
  | .tripClear v => decide (v < 2 ^ 32)
  | .hostLinkRetrain v => decide (v < 2 ^ 32)
  | .stageWrite off n _ => decide (off < 0x3000000) && inR 1 4096 n
  | .bar4Read off n => decide (off < 2 ^ 41) && inR 1 4096 n
  | .bar4Write off n v => decide (off < 2 ^ 41) && inR 1 4096 n && decide (v < 2 ^ (8 * n))
  | .unsupportedRequest => true
  | .registerWrite fn off size v => decide (fn < 16) && decide (off < 2 ^ 26) && [4, 8].contains size && decide (v < 2 ^ (8 * size))
  | .registerReadClear fn off => decide (fn < 16) && decide (off < 2 ^ 26)
  | .registerLowHalfRead fn off => decide (fn < 16) && decide (off < 2 ^ 26)
  | .loadGable => true
  | .identify => true
  | .dieTest => true
  | .flashing => true
  | .memTrain => true
  | .memInit => true
  | .bringCalibrate => true
  | .pegLoad => true
  | .fabric => true
  | .ethernet => true
  | .limits => true
  | .openStep => true
  | .reload => true
  | .bringStepDone c _ => inR 1 11 c
  | .bringStepFailed c code => inR 1 12 c && decide (code < 2 ^ 8)
  | .stackReady k => decide (k < 32)
  | .pegAck stack n => decide (n < (if stack then 32 else 20))
  | .reloadEnd => true
  | .reloadTimeout _ => true
  | .floorRise q => decide (q < 262144)
  | .pwrEnHigh => true
  | .railsGood slot => decide (slot < 64)
  | .pwrEnLow => true
  | .perstAssert => true
  | .perstRelease speed width => inR 1 6 speed && [4, 8, 16].contains width
  | .vfFlr b => decide (b < 16)
  | .vfDisable => true
  | .hostLinkDown => true
  | .hostLoss => true
  | .hostCplTimeout q => decide (q < 262144)
  | .supplyOvervoltage mv => decide (mv < 2 ^ 16)
  | .powerHoldEnter mv => decide (mv < 2 ^ 16)
  | .supplyRelease mv => decide (mv < 2 ^ 16)
  | .powerHoldResume => true
  | .powerHoldTimeout => true
  | .supplyReset mv => decide (mv < 2 ^ 16)
  | .governorSample mv da w => decide (mv < 2 ^ 16) && decide (da < 2 ^ 16) && decide (w < 2 ^ 16)
  | .governorRaise => true
  | .elecWindowUsed => true
  | .apexExhausted => true
  | .thermalSample _ _ _ sensor => inR 4 9 sensor
  | .inletTripTimer => true
  | .holdPinAssert => true
  | .holdPinRelease => true
  | .ppsEdge => true
  | .holdFrameRx h id origin scope domain start stop _ => h.wf && decide (id < 2 ^ 32) && decide (origin < 2 ^ 15) && inR 1 2 scope && decide (domain < 2 ^ 10) && decide (start < 2 ^ 64) && decide (stop < 2 ^ 64)
  | .fabricHoldStart id => decide (id < 2 ^ 64)
  | .fabricHoldEnd id => decide (id < 2 ^ 64)
  | .flitRx p flit _ _ _ => decide (p < 18) && decide (flit < 2 ^ 2048)
  | .portDown p => decide (p < 18)
  | .portUp p rtt => decide (p < 18) && decide (rtt < 2 ^ 16)
  | .discoverResend p => decide (p < 18)
  | .discoverRx p frame _ => decide (p < 18) && decide (frame < 2 ^ 512)
  | .heartbeatTimer => true
  | .heartbeatRx port frame => decide (port < 18) && decide (frame < 2 ^ 512)
  | .peerLossTimeout dev => decide (dev < 2 ^ 15)
  | .lossNoticeRx h dev inc => h.wf && decide (dev < 2 ^ 15) && decide (inc < 2 ^ 32)
  | .e2eAckRx h vc _ => h.wf && decide (vc < 4)
  | .frameResendTimeout dst vc _ => decide (dst < 2 ^ 15) && decide (vc < 4)
  | .peerRequestRx h tag op bay _ _ _ len _ => h.wf && decide (tag < 2 ^ 32) && inR 0 2 op && decide (bay < 16) && decide (len < 2 ^ 32)
  | .peerResponseRx h _ _ len _ _ => h.wf && decide (len < 2 ^ 32)
  | .timeReqTimer _ => true
  | .timeReqRx h _ _ _ => h.wf
  | .timeRespRx h _ _ _ _ _ => h.wf
  | .purlinHoldover => true
  | .readyReportRx h b tag _ => h.wf && decide (b < 16) && decide (tag < 2 ^ 32)
  | .agreementCutoff q => decide (q < 262144)
  | .decisionRx h b tag _ status => h.wf && decide (b < 16) && decide (tag < 2 ^ 32) && decide (status < 2 ^ 16)
  | .switchAct q => decide (q < 262144)
  | .decisionTimeout q => decide (q < 262144)
  | .partReportRx h b tag rank status => h.wf && decide (b < 16) && decide (tag < 2 ^ 32) && decide (rank < 32768) && decide (status < 2 ^ 16)
  | .chainChunkRx h b tag chain k len _ _ _ => h.wf && decide (b < 16) && decide (tag < 2 ^ 32) && decide (chain < 2 ^ 20) && decide (k < 2 ^ 32) && decide (len < 2 ^ 32)
  | .chainResendRequest h b tag chain k => h.wf && decide (b < 16) && decide (tag < 2 ^ 32) && decide (chain < 2 ^ 20) && decide (k < 2 ^ 32)
  | .roceReadResponse c b tag chain len _ => decide (c < 4096) && decide (b < 16) && decide (tag < 2 ^ 32) && decide (chain < 2 ^ 20) && decide (len < 2 ^ 32)
  | .connError c syndrome => decide (c < 4096) && decide (syndrome < 2 ^ 8)
  | .ringPartialRx h b tag r seg _ _ _ => h.wf && decide (b < 16) && decide (tag < 2 ^ 32) && decide (r < 2 ^ 32) && decide (seg < 2 ^ 32)
  | .reduceFormRx h b tag r seg _ dom _ => h.wf && decide (b < 16) && decide (tag < 2 ^ 32) && decide (r < 2 ^ 32) && decide (seg < 2 ^ 32) && decide (dom < 2 ^ 10)
  | .firstCoursePass _ => true
  | .thatchOpStart q i => decide (q < 262144) && decide (i < 65536)
  | .thatchPassEnd q i _ _ => decide (q < 262144) && decide (i < 65536)
  | .kernelEntryEnd q i => decide (q < 262144) && decide (i < 65536)
  | .program q i => decide (q < 262144) && decide (i < 65536)
  | .softmax q i => decide (q < 262144) && decide (i < 65536)
  | .softmaxBwd q i => decide (q < 262144) && decide (i < 65536)
  | .rmsnorm q i => decide (q < 262144) && decide (i < 65536)
  | .rmsnormBwd q i => decide (q < 262144) && decide (i < 65536)
  | .layernorm q i => decide (q < 262144) && decide (i < 65536)
  | .layernormBwd q i => decide (q < 262144) && decide (i < 65536)
  | .topk q i => decide (q < 262144) && decide (i < 65536)
  | .sample q i => decide (q < 262144) && decide (i < 65536)
  | .accept q i => decide (q < 262144) && decide (i < 65536)
  | .optim q i => decide (q < 262144) && decide (i < 65536)
  | .scaleGrad q i => decide (q < 262144) && decide (i < 65536)
  | .copyDescStart q i => decide (q < 262144) && decide (i < 65536)
  | .streamFetch q i => decide (q < 262144) && decide (i < 65536)
  | .streamChunkLanded q i _ => decide (q < 262144) && decide (i < 65536)
  | .pfDropSummary b => decide (b < 16)
  | .gemv q i => decide (q < 262144) && decide (i < 65536)
  | .attend q i => decide (q < 262144) && decide (i < 65536)
  | .eaveRead k g src bay own => decide (k < 32) && decide (g < 2 ^ 30) && (bay.all fun j => decide (j < 16)) && src.ok own
  | .eaveWrite k g mask _ src bay own => decide (k < 32) && decide (g < 2 ^ 30) && decide (mask < 2 ^ 64) && (bay.all fun j => decide (j < 16)) && src.ok own
  | .eaveAdd32 k g mask _ src bay own => decide (k < 32) && decide (g < 2 ^ 30) && decide (mask < 2 ^ 64) && (bay.all fun j => decide (j < 16)) && src.ok own
  | .eaveWindowLeave k => decide (k < 32)
  | .eaveBankIssue k bank => decide (k < 32) && decide (bank < 4096)
  | .eaveAccessDone k bank _ => decide (k < 32) && decide (bank < 4096)
  | .hotBank k bank => decide (k < 32) && decide (bank < 4096)
  | .refreshDue k bank => decide (k < 32) && decide (bank < 4096)
  | .scrubTimer k => decide (k < 32)
  | .schedPick slot => decide (slot < 2)
  | .stepBuild q => decide (q < 262144)
  | .deadlineCheck q => decide (q < 262144)
  | .fallbackPhase q => decide (q < 262144)
  | .stepCommit q => decide (q < 262144)
  | .specRejectSummary b => decide (b < 16)
  | .tileLanded q k _ => decide (q < 262144) && decide (k < 2 ^ 40)
  | .underlayCut q => decide (q < 262144)
  | .underlayProtect q => decide (q < 262144)
  | .underlaySeal b => decide (b < 16)
  | .firstTouchCopy b _ _ => decide (b < 16)
  | .underlayPageStored b _ page _ => decide (b < 16) && decide (page < 2 ^ 32)
  | .nvmeCompletion port _ status => decide (port < 4) && decide (status < 2 ^ 16)
  | .nvmeTimeout port _ => decide (port < 4)
  | .nvmeResetTimeout port _ => decide (port < 4)
  | .nvmeSmartRefresh port pct units => decide (port < 4) && decide (pct < 2 ^ 8) && decide (units < 2 ^ 64)
  | .gableCheck die _ => decide (die < 2)
  | .gableTakeover => true
  | .battenModuleFault die _ _ => decide (die < 20)
  | .deferredSelftest q found => decide (q < 262144) && (found.all fun u => decide (u < 2 ^ 32))
  | .sensorRefresh readings => decide (readings.length = 9)
  | .setEndpointId _ eid => decide (eid < 2 ^ 8)
  | .getEndpointId _ => true
  | .getMctpVersionSupport _ ty => decide (ty < 2 ^ 8)
  | .getMessageTypeSupport _ => true
  | .getEndpointUuid _ => true
  | .getVersion _ => true
  | .getCapabilities _ => true
  | .negotiateAlgorithms _ _ _ => true
  | .getDigests _ => true
  | .getCertificate _ slot off len => decide (slot < 2 ^ 8) && decide (off < 2 ^ 16) && decide (len < 2 ^ 16)
  | .challenge _ slot nonce => decide (slot < 2 ^ 8) && decide (nonce < 2 ^ 256)
  | .getMeasurements _ index _ nonce => decide (index < 2 ^ 8) && decide (nonce < 2 ^ 256)
  | .getPdrRepositoryInfo _ => true
  | .getPdr _ _ => true
  | .getSensorReading _ _ => true
  | .getStateSensorReadings _ _ => true
  | .entdaa addr => inR 1 127 addr
  | .bypass => true
  | .idcode => true
  | .samplePreload _ => true
  | .extest => true
  | .clamp => true
  | .highz => true
  | .collectiveBlockRx h b tag src len _ => h.wf && decide (b < 16) && decide (tag < 2 ^ 32) && decide (src < 32768) && decide (len < 2 ^ 32)
  | .partDeadlinePassed q => decide (q < 262144)
  | .mirrorPageRx h b rank _ _ => h.wf && decide (b < 16) && decide (rank < 32768)
  | .copyUnitDone q i _ => decide (q < 262144) && decide (i < 65536)
  | .rocePacketRx e c psn _ => decide (e < 4) && decide (c < 4096) && decide (psn < 2 ^ 24)
  | .ssdDmaRequest port _ => decide (port < 4)
  | .hostLinkUp speed width => inR 1 6 speed && [4, 8, 16].contains width
  | .ethLinkChange e _ => decide (e < 4)
  | .laneBlockLock p lane _ => decide (p < 18) && decide (lane < 8)
  | .railFailure => true
  | .gableLoss => true
  | .hostCompletionRx q bytes _ => decide (q < 262144) && inR 0 4096 bytes
  | .d3hotTransition fn _ => decide (fn < 16)
  | .resizableBarWrite log2 => inR 30 41 log2

end Sys2Proof
end

