-- ==== Sys2Proof/Tests/Slice0.lean ====
section
/-!
SUPPORT. Tests/Slice0.lean: the smoke test of WellFormed, a witness for the hypotheses of every statement (a state and operands that meet
them together, clause by clause), and a few steps against values worked out from the spec.
-/

set_option Elab.async false

open Sys2Proof Sys2Proof.Machine Sys2Proof.Claims

namespace Sys2Proof.Tests

/-! ## Small states -/

/-- There is a value, and `f` holds of it. -/
def holds {α : Type} (o : Option α) (f : α → Bool) : Bool := match o with | some x => f x | none => false

/-- A packet: its opcode and fields (first bit, width, value). -/
def pk (op : Nat) (fs : List (Nat × Nat × Nat)) : Nat := mkFields ((0, 8, op) :: fs)

/-- A running command of bay 0. -/
def cmdOf (q op : Nat) (fs : List (Nat × Nat × Nat)) : Cmd := { sq := q, bay := 0, pkt := pk op fs, flush := false, started := 0, order := 1 }

/-- A READY module with the host's link up and PGOOD high, whose bay 0 has every queue, 64 KiB of object 1 at VA 0x100000, object 2
(2 MiB) at VA 0x400000, and 1 MiB of each Loft slice of TD0. -/
def up : Dev :=
  let regs := [(Reg.bringSts, 1), (.bringStepDone, 0x1FFE), (.hostifLinkSts, 0x200), (.bringStacksReady, 0xFFFFFFFF), (.bringPegDone, 0x3FFFF)
    , (.bringPegStacks, 0xFFFFFFFF), (.hostifSideband, 0x3F), (.baySqCount, 262144), (.bayCqCount, 65536), (.bayServeLimit, 262144), (.bayPrefixLimit, 65536)
    , (.bayId, 0x70), (.bayQuotaT1, 2 ^ 40), (.bayQuotaT2, 2 ^ 64 - 1), (.bayQuotaT3, 2 ^ 40), (.bayQuotaT4, 2 ^ 40), (.thatchArraySts, 1)
    , (.pfstatGrant, wholeGrant)]
  let obj (id size : Nat) (small : Bool) (f : Nat) : Obj :=
    { bay := 0, id := id, size := size, small := small, home := 1, backing := 0, pool := false, pin := false, underlay := false, exportMode := 0, key := 0
      locs := [{ tier := 1, frames := [f] }] }
  let d0 : Dev := regs.foldl (fun (d : Dev) e => d.wr e.1 0 e.2) {}
  { d0 with
    now := 1000000
    objs := [obj 1 0x10000 true 0, obj 2 0x200000 false 0x200000]
    bays := ({ maps := [{ va := 0x100000, bytes := 0x10000, objBay := 0, objId := 1, off := 0, write := true, prefetch := false, small := true }
                     , { va := 0x400000, bytes := 0x200000, objBay := 0, objId := 2, off := 0, write := true, prefetch := false, small := false }] } : Bay)
      :: List.replicate 15 {} }

/-- The limits of the KB2032-X's record. -/
def lim0 : Limits := { recClock := 1500, recPower := 4800, recElec := 9000, recTherm := 6000, clockLimit := 1500, powerLimit := 4800, clock := 1500 }

/-- SQ `c.sq` runs `c`, with its CQ 7 beside it. -/
def run (d : Dev) (c : Cmd) : State :=
  { lim := lim0
    dev := { d with sqs := [(c.sq, { bay := c.bay, admin := false, ring := 0x100000, log2 := 4, headAddr := 0x101000, cq := 7, run := some c })]
                    cqs := [(7, { bay := c.bay, admin := false, ring := 0x102000, log2 := 4, vector := 1 })] } }

/-- An admin SQ 0 with its CQ 0, rings in host memory. -/
def admin (d : Dev) (f : Sq → Sq) (g : Cq → Cq) : State :=
  { lim := lim0
    dev := { (d.sb .bayAdminCtrl 0 0 true) with
           sqs := [(0, f { bay := 0, admin := true, ring := 0x1000, log2 := 4, headAddr := 0x3000, cq := 0 })]
           cqs := [(0, g { bay := 0, admin := true, ring := 0x2000, log2 := 4, vector := 1 })] } }

/-! ## Witnesses: the form of a step, queues and events -/

theorem wit_StepRunsFront : State.pending { pending := [.nop 0, .hostLoss] } = .nop 0 :: [.hostLoss] := by decide +kernel
theorem wit_EveryStepAnswers : State.reset.pending = [] ∧ State.reset.dev.stepDone 1 = false ∧ up.stepDone 1 = true := by decide +kernel
theorem wit_LimitsStayBelowRecord :
    let c := cmdOf 3 0x82 [(160, 16, 1500), (176, 16, 1600)]
    let s := run up c
    Runs s 3 0x82 c ∧ c.nan = false ∧ c.bits 16 0 2 = 0 ∧ c.only 1 [(16, 0, 3), (20, 0, 32)] = true ∧ c.at 20 2 % 50 = 0 ∧ 500 ≤ c.at 20 2
      ∧ c.at 20 2 ≤ s.lim.recClock ∧ 1600 ≤ c.at 22 2 ∧ c.at 22 2 ≤ s.lim.recPower := by decide +kernel
theorem wit_LimitsStayBelowRecord_step : lim0.clockLimit ≤ lim0.recClock ∧ lim0.clock ≤ lim0.recClock ∧ lim0.powerLimit ≤ lim0.recPower := by decide +kernel
theorem wit_ResetValues : Reg.bringSts.instances = 1 ∧ 11 < Reg.thatchDieId.instances ∧ 31 < Reg.eaveId.instances := by decide +kernel

theorem wit_EventCommands_nop : let c := cmdOf 3 0x01 []; Runs (run up c) 3 0x01 c ∧ c.only 1 [] = true := by decide +kernel
theorem wit_EventCommands_fence :
    let c := { cmdOf 3 0x02 [] with waits := [9] }
    Runs (run up c) 3 0x02 c ∧ c.at 16 4 = 0 ∧ c.only 1 [(16, 0, 32)] = true ∧ c.fenceBad = false
      ∧ ∀ o ∈ c.waits, o ∉ (run up c).dev.startedOn ((run up c).dev.sqsOf c.bay) := by decide +kernel
theorem wit_EventCommands_wait :
    let c (v : Nat) := cmdOf 3 0x03 [(128, 12, 4095), (192, 64, v)]
    ∀ v ∈ [0, 1], Runs (run up (c v)) 3 0x03 (c v) ∧ (c v).only 1 [(16, 0, 12), (24, 0, 64)] = true
      ∧ if v = 0 then (c v).at 24 8 ≤ up.counter 0 ((c v).bits 16 0 12) else up.counter 0 ((c v).bits 16 0 12) < (c v).at 24 8 := by decide +kernel
theorem wit_EventCommands_signal :
    let c (op : Nat) := cmdOf 3 0x04 [(128, 12, 4095), (144, 2, op), (192, 64, 2 ^ 64 - 1)]
    ∀ op ∈ [0, 1, 2], Runs (run up (c op)) 3 0x04 (c op) ∧ (c op).only 1 [(16, 0, 12), (18, 0, 2), (24, 0, 64)] = true ∧ 0 < up.bays.length
      ∧ up.counter 0 ((c op).bits 16 0 12) < 2 ^ 64 ∧ (c op).bits 18 0 2 ≤ 2 := by decide +kernel

/-- Host memory with a packet of LENGTH `n` at 0x1000. -/
def ringMem (n : Nat) : List Host.Cell := [(0x1000, 1), (0x1002, BitVec.ofNat 8 n)]

theorem wit_ReadAndStart_read :
    ∀ n ∈ [0, 1, 8, 9],
      let s := admin { up with hostMem := if n = 0 then [(0x1000, 1)] else ringMem n } (fun x => { x with tail := 8 }) id
      ((smFind s.dev.sqs 0).all fun x => s.dev.mayRead 0 x && x.avail != 0 && (s.dev.ringUnit x x.head).isSome
        && (n = 0 || n = 9 || (decide (n ≤ x.avail) && (s.dev.ringUnits x n x.head).isSome))
        && (s.dev.ringUnit x x.head).all fun h => bytesAt (ofLe h) 2 2 == n) = true ∧ (smFind s.dev.sqs 0).isSome = true := by decide +kernel
theorem wit_ReadAndStart_unread :
    let s := admin { up with hostBad := [(1, ())] } (fun x => { x with tail := 1 }) id
    ((smFind s.dev.sqs 0).all fun x => s.dev.mayRead 0 x && x.avail != 0 && (s.dev.ringUnit x x.head).isNone) = true ∧ (smFind s.dev.sqs 0).isSome = true := by
  decide +kernel
theorem wit_ReadAndStart_start :
    let p : ReadPkt := { pkt := pk 0x01 [], len := 1, early := none }
    let s := admin up (fun x => { x with ready := [p] }) id
    ((smFind s.dev.sqs 0).all fun x => s.dev.mayStart 0 x p && x.ready == [p]) = true ∧ p.early = none ∧ s.dev.ready = true ∧ s.dev.sarking = false
      ∧ bytesAt p.pkt 8 8 = 0 := by decide +kernel

/-- A completion entry. -/
def cpl0 : Cpl := { tag := 1, status := 0, sq := 0, result := 0, extra := 0, ext := false, signal := false, time := 0 }

theorem wit_HeadsAndCompletions_write :
    let s := admin up id fun k => { k with waiting := [cpl0], pos := 14, rd := 0, coalCount := 16 }
    s.dev.rbit .hostifErr 0 3 = false ∧ holds (smFind s.dev.cqs 0) (fun k => k.admin && decide (k.bay < 16) && k.st == 1 && k.waiting == [cpl0]
        && decide (k.pos - k.rd + 1 ≤ 2 ^ k.log2 - 1) && decide (k.unsignalled + 1 < k.coalCount) && s.dev.rbit .bayAdminCtrl k.bay 0) = true
      ∧ s.dev.served cpl0.sq = true ∧ ((smFind s.dev.sqs cpl0.sq).all fun x => !x.headDue) = true := by decide +kernel
theorem wit_HeadsAndCompletions_head :
    let s := admin up (fun x => { x with head := 15, headDue := true }) id
    (smFind s.dev.sqs 0).map (fun x => (x.admin, x.headDue)) = some (true, true) ∧ s.dev.rbit .hostifErr 0 3 = false := by decide +kernel
theorem wit_HeadsAndCompletions_timers :
    let s := admin { up with bays := { evq := { unsignalled := 1 } } :: List.replicate 15 {}, msix := [(12, 1), (28, 1)] } id
      fun k => { k with coalUs := 1, unsignalled := 1 }
    holds (smFind s.dev.cqs 0) (fun k => k.coalUs != 0 && k.unsignalled != 0 && bitAt (s.dev.msixWord k.bay (16 * k.vector + 12)) 0) = true
      ∧ 0 < s.dev.bays.length ∧ (s.dev.bay 0).evq.unsignalled ≠ 0 ∧ bitAt (s.dev.msixWord 0 12) 0 = true := by decide +kernel

theorem wit_DoorbellsMoveTailsAndHeads :
    let s := admin up id fun k => { k with pos := 3 }
    HostUp s [0] ∧ s.dev.doorbellBad 0 0 = false ∧ (smFind s.dev.sqs 0).map (fun x => (x.st, x.log2, x.cq)) = some (1, 4, 0)
      ∧ (smFind s.dev.cqs 0).map (fun k => (k.st, k.log2, k.rd, k.pos)) = some (1, 4, 0, 3)
      ∧ (∀ v ∈ [2 ^ 31 + 15, 2 ^ 31 + 16], bitAt v 31 = true ∧ v < 2 ^ 32) ∧ fld (2 ^ 31 + 15) 0 16 < 2 ^ 4 ∧ 2 ^ 4 ≤ fld (2 ^ 31 + 16) 0 16
      ∧ fld (2 ^ 31 + 3) 0 16 < 2 ^ 4 ∧ (fld (2 ^ 31 + 3) 0 16 + 2 ^ 4 - 0 % 2 ^ 4) % 2 ^ 4 ≤ 3 - 0 := by decide +kernel
theorem wit_EventQueueHead :
    let s : State := { dev := { up with bays := { evq := { pos := 63 } } :: List.replicate 15 {} } }
    HostUp s [0, 0] ∧ 0 < s.dev.bays.length ∧ 2 ^ s.dev.fd .bayEvqCtrl 0 8 5 = 64 ∧ (63 + 64 - (s.dev.bay 0).evq.rd % 64) % 64 ≤ (s.dev.bay 0).evq.pos - (s.dev.bay 0).evq.rd
      ∧ 63 < 64 ∧ 64 ≤ 64 := by decide +kernel

theorem wit_QueuesMadeAndDeleted_create :
    let c (cq : Bool) := cmdOf 3 0xA1 [(128, 1, if cq then 1 else 0), (136, 5, 4), (160, 32, 16), (192, 48, 0x103000), (256, 48, if cq then 0 else 0x101000)
      , (320, 32, if cq then 127 else 7)]
    ∀ b ∈ [true, false],
      let s := run up (c b)
      Runs s 3 0xA1 (c b) ∧ (c b).only 1 [(16, 0, 1), (17, 0, 5), (20, 0, 32), (24, 0, 48), (32, 0, 64), (40, 0, 32), (44, 0, 32)] = true
        ∧ (c b).bits 17 0 5 = 4 ∧ (c b).at 24 8 % 4096 = 0 ∧ s.dev.ready = true ∧ bitAt (c b).pkt 128 = b ∧ s.dev.holdsCq 0 16 = true
        ∧ s.dev.holdsSq 0 16 = true ∧ 16 ≠ s.dev.rd .bayCqBase 0 ∧ 16 ≠ s.dev.rd .baySqBase 0 ∧ smFind s.dev.cqs 16 = none ∧ smFind s.dev.sqs 16 = none ∧ (smFind s.dev.sqs 3).map (·.cq) = some 7
        ∧ (b = true → (c b).at 32 8 = 0 ∧ (c b).at 40 4 = 127 ∧ s.dev.ringOk 0 ((c b).at 24 8) (16 * 2 ^ 4) true = true)
        ∧ (b = false → (c b).at 32 8 % 8 = 0 ∧ (c b).at 44 2 = 0 ∧ (c b).at 46 2 = 0 ∧ (smFind s.dev.cqs ((c b).at 40 4)).map (fun k => (k.bay, k.st)) = some (0, 1)
            ∧ s.dev.ringOk 0 ((c b).at 24 8) (64 * 2 ^ 4) false = true ∧ s.dev.ringOk 0 ((c b).at 32 8) 8 true = true) := by decide +kernel
theorem wit_QueuesMadeAndDeleted_delete :
    let c := cmdOf 3 0xA2 [(128, 1, 1), (160, 32, 8)]
    let s0 := run up c
    let s : State := { s0 with dev := { s0.dev with cqs := s0.dev.cqs ++ [(8, { bay := 0, admin := false, ring := 0, log2 := 4, vector := 2 })] } }
    Runs s 3 0xA2 c ∧ c.only 1 [(16, 0, 1), (20, 0, 32)] = true ∧ bitAt c.pkt 128 = true ∧ (smFind s.dev.cqs (c.at 20 4)).map (fun k => (k.bay, k.admin)) = some (0, false)
      ∧ (smFind s.dev.sqs 3).map (·.cq) = some 7 ∧ ∀ e ∈ s.dev.sqs, e.2.cq ≠ c.at 20 4 := by decide +kernel

/-! ## Witnesses: statistics, queue registers, the array configuration -/

/-- Registers written: register, instance, value. -/
def regs (d : Dev) (l : List (Reg × Nat × Nat)) : Dev := l.foldl (fun d e => d.wr e.1 e.2.1 e.2.2) d

theorem wit_NumericRegisters :
    let s (d : Dev) : State := { dev := d }
    let on := regs up [(.numstatCtrl, 15, 1), (.pfstatPendingDrops, 0, 1), (.pfstatCtrl, 0, 2), (.bayEvqCtrl, 0, 0x601)]
    let evq (n : Nat) : Dev := { on with bays := { evq := { pos := n } } :: List.replicate 15 {} }
    let early : Dev := regs { up with now := 999 } [(.pfstatSummaryUs, 0, 1)]
    HostUp (s on) [0, 15] ∧ (up.bay 15).nanBeat = none ∧ 15 < up.bays.length ∧ up.rbit .numstatCtrl 15 0 = false ∧ on.rbit .numstatCtrl 15 0 = true
      ∧ (∀ k ∈ [4, 16], 4 ≤ fld (256 * k + 1) 8 5 ∧ fld (256 * k + 1) 8 5 ≤ 16 ∧ bitAt (256 * k + 1) 0 = true ∧ bitAt (256 * k) 0 = false)
      ∧ up.quotaUsed 0 1 + (2 ^ 16 * 512 + 16384) ≤ up.quota 0 1
      ∧ ((evq 62).bay 0).summaryAt + 1000 * (evq 62).rd .pfstatSummaryUs 0 ≤ (evq 62).now ∧ (evq 62).rd .pfstatPendingDrops 0 ≠ 0
      ∧ (evq 62).rbit .pfstatCtrl 0 1 = true ∧ (evq 62).rbit .bayEvqCtrl 0 0 = true ∧ (early.now < (early.bay 0).summaryAt + 1000 * early.rd .pfstatSummaryUs 0)
      ∧ ((evq 62).bay 0).evq.pos - ((evq 62).bay 0).evq.rd < 2 ^ (evq 62).fd .bayEvqCtrl 0 8 5 - 1 := by decide +kernel

/-- Bay 0 with a statistics table of 16 slots whose layer slot 0 has an open step. -/
def stats (d : Dev) : Dev :=
  { d with bays := { (d.bays.headD {}) with stats := some { log2 := 4, layers := [(0, { isOpen := true })] } } :: List.replicate 15 {} }

theorem wit_StatisticsCommands :
    let read (n : Nat) := cmdOf 3 0x80 [(130, 1, 1), (160, 32, 15), (192, 32, n), (256, 48, 0x100000)]
    let reset := cmdOf 3 0x81 [(136, 2, 1), (144, 8, 0xD8), (160, 32, 0), (192, 32, 16), (224, 16, 255)]
    let close := cmdOf 3 0x81 [(128, 2, 1), (130, 2, 1), (160, 32, 0), (192, 32, 256)]
    let d := stats up
    holds (d.bay 0).stats (fun x =>
        (Runs (run d (read 1)) 3 0x80 (read 1) ∧ (read 1).only 1 [(16, 0, 3), (20, 0, 64), (32, 0, 48)] = true ∧ (read 1).bits 16 0 2 = 0
          ∧ 1 ≤ (read 1).at 24 4 ∧ (read 1).at 20 4 + (read 1).at 24 4 ≤ 2 ^ x.log2
          ∧ x.badSlot false 15 1 = none ∧ (run d (read 1)).dev.writeErr 0 ((read 1).at 32 8) 512 = none
          ∧ ((run d (read 1)).dev.writeVa 0 ((read 1).at 32 8) ((upFrom 15 1).flatMap fun i => toLe 512 (x.rec_ i).bytes)).2 = none)
        && (Runs (run d reset) 3 0x81 reset ∧ reset.bits 16 2 2 = 0 ∧ Dev.statResetOk reset x = true ∧ reset.bits 16 0 2 = 0
            ∧ x.badSlot false 0 16 = none)
        && (Runs (run d close) 3 0x81 close ∧ close.bits 16 2 2 = 1 ∧ Dev.statResetOk close x = true ∧ x.badSlot true 0 256 = none ∧ (x.layer 0).isOpen = true)) = true := by decide +kernel

/-- A control value of an admin pair. -/
def ctl (sq cq e : Nat) : Nat := 65536 * cq + 256 * sq + e

theorem wit_QueueRegisters_on :
    let off : State := { dev := up }
    HostUp off [0, 0] ∧ off.dev.rbit .bayAdminCtrl 0 0 = false
      ∧ (∀ n ∈ [4, 16], bitAt (ctl n n 1) 0 = true ∧ fld (ctl n n 1) 8 5 = n ∧ fld (ctl n n 1) 16 5 = n)
      ∧ off.dev.holdsSq 0 (off.dev.rd .baySqBase 0) = true ∧ off.dev.holdsCq 0 (off.dev.rd .bayCqBase 0) = true
      ∧ smFind off.dev.sqs (off.dev.rd .baySqBase 0) = none
      ∧ off.dev.rbit .bayEvqCtrl 0 0 = false ∧ (∀ n ∈ [6, 16], bitAt (256 * n + 1) 0 = true ∧ fld (256 * n + 1) 8 5 = n) := by decide +kernel
theorem wit_QueueRegisters_off :
    let on := admin (regs up [(.bayEvqCtrl, 0, 0x601)]) id id
    HostUp on [0, 0] ∧ on.dev.rbit .bayAdminCtrl 0 0 = true ∧ (on.dev.bay 0).seqs = []
      ∧ (∀ n ∈ [4, 16], bitAt (ctl n n 0) 0 = false ∧ fld (ctl n n 0) 8 5 = n ∧ fld (ctl n n 0) 16 5 = n)
      ∧ (smFind on.dev.sqs (on.dev.rd .baySqBase 0)).map (fun x => (x.admin, x.run, x.ready, x.deferred)) = some (true, none, [], [])
      ∧ (smFind on.dev.cqs (on.dev.rd .bayCqBase 0)).map (fun k => (k.admin, k.waiting)) = some (true, [])
      ∧ on.dev.rbit .bayEvqCtrl 0 0 = true ∧ (∀ n ∈ [6, 16], bitAt (256 * n) 0 = false ∧ fld (256 * n) 8 5 = n) := by decide +kernel
theorem wit_QueueRegisters_range :
    HostUp { dev := up } [0, 0] ∧ fld (ctl 3 16 0) 8 5 < 4 ∧ 16 < fld (ctl 17 4 0) 8 5 ∧ fld (ctl 4 3 1) 16 5 < 4 ∧ 16 < fld (ctl 4 17 1) 16 5
      ∧ fld (256 * 5) 8 5 < 6 ∧ 16 < fld (256 * 17) 8 5 := by decide +kernel
theorem wit_QueueRegisters_inspect :
    let on := admin up id id
    HostUp on [0, 0] ∧ HostUp on [0] ∧ bitAt 0 31 = false
      ∧ (smFind on.dev.sqs (fld 0 0 18)).map (fun x => decide (x.st < 4 ∧ x.bay < 16 ∧ x.cause < 16 ∧ x.head < 2 ^ 16)) = some true := by decide +kernel

theorem wit_ArraySwitch :
    let at_ (v : Nat) (a : ArraySt) : Dev := { regs up [(.thatchArraySts, 0, v)] with arr := a }
    (∀ a ∈ [(2, 1), (1, 2)], HostUp { dev := at_ a.1 {} } [0] ∧ (at_ a.1 {}).ready = true ∧ (at_ a.1 {}).rbit .thatchArraySts 0 2 = false
        ∧ (at_ a.1 {}).rbit .thatchArraySts 0 3 = false ∧ (at_ a.1 {}).fd .thatchArraySts 0 0 2 ≠ a.2)
      ∧ HostUp { dev := at_ 5 {} } [0] ∧ HostUp { dev := at_ 9 {} } [0] ∧ (at_ 5 {}).rbit .thatchArraySts 0 2 = true ∧ (at_ 9 {}).rbit .thatchArraySts 0 3 = true
      ∧ ((at_ 5 { target := 2 }).rbit .thatchArraySts 0 3 = false ∧ (at_ 5 { target := 2 }).engineBusy 0 = false ∧ (at_ 5 { target := 2 }).engineBusy 1 = false
        ∧ (at_ 5 { target := 2 }).powerState = 0 ∧ (at_ 5 { target := 2 }).held = false)
      ∧ ∀ n ∈ [1, 2], (at_ 9 { target := n }).rbit .thatchArraySts 0 2 = false ∧ (at_ 9 { target := n }).powerState = 0 ∧ (at_ 9 { target := n }).held = false
        ∧ (at_ 9 { target := n }).arr.target = n ∧ (at_ 9 { target := n }).arr.held = none ∧ (at_ 9 { target := n }).stepRuns 12 = false
        ∧ ((at_ 9 { target := n }).parts.all fun p => ((at_ 9 { target := n }).turn? p).all fun t => t.acted.isNone) = true := by decide +kernel

theorem wit_SlotsGoToTheNextUnit :
    let u : SUnit := { sq := 3, bay := 0, high := true, deadline := 500, order := 1, fwd := true, bwd := false, kernel := false, since := 0 }
    let w : SUnit := { u with sq := 4, deadline := 0, order := 2 }
    let d (v : Nat) (x : SUnit) : Dev := { regs up [(.thatchArraySts, 0, v)] with sched := { ready := [w, x] } }
    ∀ e ∈ [(0, 1, u), (1, 2, { u with fwd := false, bwd := true })], ((e.1 = 0 ∨ (e.1 = 1 ∧ (d e.2.1 e.2.2).split = true ∧ (d e.2.1 e.2.2).ready = true)))
      ∧ (d e.2.1 e.2.2).thatchAdmits = true ∧ (d e.2.1 e.2.2).waitingBoth = none ∧ (d e.2.1 e.2.2).sched.slot e.1 = none ∧ (d e.2.1 e.2.2).sched.reserved e.1 = none
      ∧ (d e.2.1 e.2.2).nextUnit e.1 = some e.2.2 ∧ (d e.2.1 e.2.2).slotsFree e.2.2 = true := by decide +kernel
theorem wit_SlotsGoToTheNextUnit_both :
    let u : SUnit := { sq := 3, bay := 0, high := true, deadline := 500, order := 1, fwd := true, bwd := true, kernel := false, since := 0 }
    let d : Dev := { regs up [(.thatchArraySts, 0, 2)] with sched := { ready := [u], reserved1 := some 3 } }
    d.thatchAdmits = true ∧ d.split = true ∧ d.ready = true ∧ d.sched.slot 0 = none ∧ d.waitingBoth = some u ∧ d.slotsOf u = [0, 1]
      ∧ (regs up [(.thatchArraySts, 0, 6)]).thatchAdmits = false ∧ (regs up [(.thatchArraySts, 0, 10)]).thatchAdmits = false := by decide +kernel

/-! ## Witnesses: copies -/

/-- A LINEAR byte copy of `n` bytes from `src` to `dst` (bit 8: VA source, bit 9: VA destination), with further fields. -/
def copyF (bits src dst n : Nat) (more : List (Nat × Nat × Nat)) : List (Nat × Nat × Nat) :=
  [(0, 16, bits), (24, 5, 12), (64, 64, src), (128, 64, dst), (192, 64, n), (256, 32, 1), (448, 32, 2 ^ 32 - 1), (512, 32, 2 ^ 32 - 1)
    , (544, 32, 2 ^ 32 - 1)] ++ more

/-- The same fields as those of a command's descriptor. -/
def inPkt (fs : List (Nat × Nat × Nat)) : List (Nat × Nat × Nat) := fs.map fun f => (f.1 + 128, f.2)

/-- A format of rows of `row` elements with no scales: its code. -/
def fmtF (code : Nat) (row : Nat := 16) : Nat := mkFields [(0, 4, code), (64, 32, 0x3F800000), (96, 32, row)]

/-- The access or parse is answered, and `f` holds of the answer. -/
def okay {ε α : Type} (x : Except ε α) (f : α → Bool) : Bool := match x with | .ok a => f a | .error _ => false

theorem wit_CopyCommands_copy :
    ∀ b ∈ [(0x001, 0, 4096, 8), (0x301, 0x100000, 0x400000, 4097), (0x101, 0x100000, 0, 4), (0x201, 0, 0x100000, 4)],
      let c := cmdOf 3 0x10 (inPkt (copyF b.1 b.2.1 b.2.2.1 b.2.2.2 []))
      let s := run up c
      Runs s 3 0x10 c ∧ c.nan = false ∧ c.contribs = [] ∧ c.trapped = false ∧ s.dev.enginesRun = true ∧ s.dev.engUpset = [] ∧ s.dev.loftBad = []
        ∧ onlyFields c.pkt 2048 [(0, 128), (128, 1536)] = true
        ∧ holds (parseCopy (c.at 16 192)) (fun k => k.kind == 1 && !k.conv && k.pack == 0 && !k.spar && !k.gate && k.mask == 0 && k.waitLoft == 0xFFFFFFFF
            && k.done == 0xFFFFFFFF && s.dev.diesUp k.dies && !s.dev.copyShut k && s.dev.grants 0 k.loftRanges
            && match s.dev.readSp 0 k.ssp k.src k.len with | .ok bs => (s.dev.writeSp 0 k.dsp k.dst bs).2 == none | .error _ => false) = true := by decide +kernel

theorem wit_CopyCommands_fill :
    ∀ b ∈ [(0, 1, 0), (5, 9, 0), (0x100000, 1, 1)],
      let c := cmdOf 3 0x11 [(128, 64, b.1), (192, 64, b.2.1), (256, 64, 0x0102030405060708), (320, 1, b.2.2)]
      let s := run up c
      Runs s 3 0x11 c ∧ c.only 1 [(16, 0, 192), (40, 0, 1), (42, 0, 16)] = true ∧ c.at 42 2 = 0 ∧ 1 ≤ c.at 24 8 ∧ c.at 24 8 ≤ 2 ^ 40
        ∧ (if b.2.2 = 0 then c.at 16 8 < 2 ^ 32 ∧ bitAt c.pkt 320 = false ∧ s.dev.grants 0 [(c.at 16 8, c.at 24 8)] = true
              ∧ (s.dev.writeSp 0 .loft (c.at 16 8) (fillBytes (c.at 32 8) (c.at 24 8))).2 = none
            else c.at 16 8 < 2 ^ 48 ∧ bitAt c.pkt 320 = true ∧ (s.dev.writeVa 0 (c.at 16 8) (fillBytes (c.at 32 8) (c.at 24 8))).2 = none) := by decide +kernel

theorem wit_CopyCommands_convert :
    ∀ x ∈ [(0x100000, true), (0x300000, false)],
      let c := cmdOf 3 0x12 [(128, 320, fmtF 6), (448, 320, fmtF 7), (768, 48, x.1), (832, 48, 0x100100), (896, 64, 16)]
      let s := run up c
      Runs s 3 0x12 c ∧ c.nan = false ∧ c.contribs = [] ∧ c.trapped = false ∧ s.dev.enginesRun = true ∧ s.dev.engUpset = []
        ∧ holds (parseConvert c) (fun v => !s.dev.fmtShut v.1.sf && !s.dev.fmtShut v.1.df
            && (convBlocks c v.1 ((tensorRngs v.1.sf v.1.src (v.2 * v.1.df.rowLen)).foldl (fun d r => d.flashRead c.bay r) s.dev)
              (destBlocks v.1.df v.2 0 (v.2 * v.1.df.rowLen))).bad.isNone == x.2) = true := by decide +kernel

/-- SQ 3 runs a KERNEL with these entries: class, descriptor, what it has reached. -/
def kern (d : Dev) (es : List (Nat × List (Nat × Nat × Nat) × EntrySt)) : State :=
  run { d with kernels := [{ sq := 3, entries := es.map fun e => { cls := e.1, desc := mkFields e.2.1, st := e.2.2 }, started := 5 }] } (cmdOf 3 0x20 [])

/-- `f` holds of entry 0 of the KERNEL of SQ 3. -/
abbrev entry0 (s : State) (f : Cmd → KernelRun → Entry → Bool) : Prop := holds (s.dev.entry? 3 0) (fun x => f x.1 x.2.1 x.2.2) = true

/-- A stream of 8192 bytes in chunks of 4096, its ring of two chunks at Loft 0x8000, its consumer counter at `cons`. -/
def streamF (cons : Nat) : List (Nat × Nat × Nat) :=
  copyF 0x103 0x100000 0x8000 8192 [] ++ [(544, 32, cons), (576, 32, 8192), (608, 32, 4096), (640, 32, 8192), (672, 32, 4096)]

/-- What the statement asks of every copy of a KERNEL, and `f` of the copy. -/
abbrev copy0 (s : State) (f : Cmd → KernelRun → Entry → CopyDesc → Bool) : Prop :=
  s.dev.enginesRun = true ∧ s.dev.engUpset = [] ∧ entry0 s fun c kr e => decide (c.bay < 16) && holds (parseCopy (e.desc % 2 ^ 1536)) fun k =>
    s.dev.diesUp k.dies && !k.spar && k.mask == 0 && f c kr e k

theorem wit_CopiesOfKernels_start :
    ∀ f ∈ [(copyF 0x301 0x100000 0x400000 4096 [], true), (streamF 0x4000, true), (copyF 0x301 0x100000 0x400000 4096 [(448, 32, 0x4000), (480, 32, 2)], true)
      , ((copyF 0x301 0x100000 0x400000 4096 []).take 7 ++ [(512, 32, 0x4004), (544, 32, 2 ^ 32 - 1)], false)],
      let s := kern { up with loft := [(0x4000, 2)] } [(3, f.1, .waiting)]
      copy0 s fun c kr e k => e.st == .waiting && e.cls == 3 && !kr.stopped && !s.dev.passed c && (k.done == 0xFFFFFFFF) == f.2
        && (f.2 || (s.dev.loftCut k.done 4).isNone) && (k.waitLoft == 0xFFFFFFFF || decide (k.waitCount ≤ s.dev.loftCounter k.waitLoft)) := by decide +kernel

theorem wit_CopiesOfKernels_unit :
    let s := kern up [(3, copyF 0x101 0x100000 0 4097 [], .copy [0])]
    copy0 s fun _ _ _ k => k.done == 0xFFFFFFFF && k.kind == 1 && !k.conv && k.pack == 0 && decide (1 < k.units)
      && match s.dev.readSp 0 k.ssp (k.src + 1 * k.chunk) (min k.len (2 * k.chunk) - 1 * k.chunk) with
        | .ok bs => (s.dev.writeSp 0 k.dsp (k.dst + 1 * k.chunk) bs).2 == none
        | .error _ => false := by decide +kernel

/-- The stream of `streamF` from bay memory at `src`, the consumer at chunk `cc`. -/
def streamAt (src cc : Nat) (x : StreamSt) : State :=
  kern { up with loft := if cc = 0 then [] else [(0x4000, BitVec.ofNat 8 cc)] } [(3, (64, 64, src) :: (streamF 0x4000).eraseIdx 2, .stream x)]

theorem wit_CopiesOfKernels_demand :
    ∀ x ∈ [(0x100000, 0, ({ dist := 4096 } : StreamSt), true), (0x100000, 1, { dist := 4096, next := 2, passed := 1, dropped := [1] }, true)
      , (0x300000, 0, { dist := 4096 }, false)],
      let s := streamAt x.1 x.2.1 x.2.2.1
      copy0 s fun _ _ _ k => let n := s.dev.loftCounter k.cons
        let y := (streamUse k n x.2.2.1).1
        n == x.2.1 && decide (n < k.chunks) && decide (y.passed ≤ n) && (y.next == n || y.dropped.contains n) && decide (1 ≤ k.ring / k.chunk)
          && s.dev.unmapped 0 false ⟨.va, k.src + n * k.chunk, min k.chunk (k.len - n * k.chunk)⟩ == !x.2.2.2 := by decide +kernel

theorem wit_CopiesOfKernels_ahead :
    ∀ p ∈ [true, false],
      let x : StreamSt := { dist := 4096, next := 1, chunks := [(0, { pre := false })] }
      let s0 := streamAt 0x100000 0 x
      let s : State := { s0 with dev := s0.dev.modBay 0 fun b => { b with maps := b.maps.map fun m => { m with prefetch := p } } }
      copy0 s fun _ _ _ k => let n := s.dev.loftCounter k.cons
        let y := (streamUse k n x).1
        decide (n < y.next) && !y.dropped.contains n && decide (y.next < k.chunks) && decide (y.next ≤ n + y.dist / k.chunk)
          && decide (y.next < n + k.ring / k.chunk) && s.dev.prefetchable 0 (k.src + y.next * k.chunk) (min k.chunk (k.len - y.next * k.chunk)) == p := by
  decide +kernel

theorem wit_CopiesOfKernels_landed :
    (copy0 (streamAt 0x100000 2 {dist := 4096, next := 2, passed := 2 }) fun _ _ _ k => decide (k.chunks ≤ (streamAt 0x100000 2 { dist := 0 }).dev.loftCounter k.cons))
    ∧ ∀ p ∈ [true, false],
      let x : StreamSt := { dist := 4096, next := 2, passed := 1, chunks := [(1, { pre := p })] }
      let s := streamAt 0x100000 1 x
      s.dev.loftBad = [] ∧ copy0 s fun _ _ _ k => k.done == 0xFFFFFFFF && holds (smFind x.chunks 1) (fun h => !h.landed && h.pre == p)
        && s.dev.loftCounter k.cons == 1
        && okay (s.dev.readVa 0 (k.src + 1 * k.chunk) (min k.chunk (k.len - 1 * k.chunk))) fun _ => true := by decide +kernel

/-! ## Witnesses: kernels, Thatch and Lath operations -/

/-- A SINGLE Thatch operation on BF16, 1 × 16 × 16, of the role at bit 4. -/
def thatchF (bits : Nat) : List (Nat × Nat × Nat) :=
  [(0, 16, bits), (64, 32, 1), (96, 32, 16), (128, 32, 16), (160, 32, 1), (256, 32, 0), (288, 32, 0x1000), (320, 32, 0x2000)
    , (416, 32, 2 ^ 32 - 1), (768, 320, fmtF 1), (1088, 320, fmtF 1), (1408, 320, fmtF 1)]

/-- The cells of `bs` at `a`, the zeros left out. -/
def cellsAt : Nat → List Byte → List Host.Cell
  | _, [] => []
  | a, b :: r => if b = 0 then cellsAt (a + 1) r else (a, b) :: cellsAt (a + 1) r

/-- A KERNEL image of one entry of class 1. -/
def image1 : List Byte := toLe 128 (mkFields [(0, 32, up.fd .reedlineLevel 0 0 16), (32, 16, 1), (512, 8, 1)]) ++ toLe 256 (mkFields (thatchF 1))

theorem wit_KernelsRunAndEnd_start :
    let c := cmdOf 3 0x20 [(128, 48, 0x100000), (192, 32, 384)]
    let s := run { up with hbm := cellsAt 0 image1 } c
    Runs s 3 0x20 c ∧ s.dev.enginesRun = true ∧ c.trapped = false ∧ s.dev.kernel? 3 = none ∧ c.only 1 [(16, 0, 48), (24, 0, 32)] = true ∧ c.at 16 8 % 64 = 0
      ∧ okay (s.dev.readVa 0 (c.at 16 8) (c.at 24 4)) (fun bs =>
        let h := ofLe (bs.take 64)
        let es := (((bs.drop 64).take 1).zip (chunksOf 256 1 (bs.drop 128))).map (fun e => ({ cls := e.1.toNat, desc := ofLe e.2 } : Entry))
        onlyFields h 512 [(0, 32), (32, 16)] && bytesAt h 0 4 == s.dev.fd .reedlineLevel 0 0 16 && bytesAt h 4 2 == 1 && c.at 24 4 == 128 + 256 * 1
          && ((bs.drop 65).take 63).all (· == 0) && s.dev.firstFail 0 0 es == none && kernelRole es false) = true := by decide +kernel

theorem wit_KernelsRunAndEnd_end :
    ∀ es ∈ [[.finished, .waiting], [EntrySt.finished]],
      let s := kern up (es.map fun e => (1, thatchF 1, e))
      holds (s.dev.running? 3 0x20) (fun c => decide (Runs s 3 0x20 c) && !c.trapped && !c.nan && c.contribs == []) = true ∧ s.dev.enginesRun = true
        ∧ s.dev.passes.any (fun p => p.sq == 3) = false
        ∧ holds (s.dev.kernel? 3) (fun k => !k.stopped && !k.missed && (k.entries[0]?).map (·.st) == some .finished
          && (k.entries.any (fun x => x.st == .waiting && !x.isStream) || k.entries.length == 1)) = true := by decide +kernel

/-- SQ 3 holds slot `e` of the engines. -/
def slot (d : Dev) (e : Nat) : Dev :=
  let u : SUnit := { sq := 3, bay := 0, high := false, deadline := 0, order := 1, fwd := e == 0, bwd := e == 1, kernel := true, since := 0 }
  { d with sched := if e = 0 then { slot0 := some (u, 0) } else { slot1 := some (u, 0) } }

theorem wit_ThatchOperations_start :
    ∀ x ∈ [(1, 1, 0, true), (2, 0x11, 1, true), (1, 2, 0, false)],
      let f := if x.2.2.2 then thatchF x.2.1 else thatchF x.2.1 ++ [(384, 32, 0x3000)]
      let s := kern (slot { regs up [(.thatchArraySts, 0, x.1)] with loft := if x.2.2.2 then [] else [(0x3003, 0xFF)] } x.2.2.1) [(1, f, .waiting)]
      s.dev.thatchAdmits = true ∧ (s.dev.holdsSlot 3 0 || s.dev.holdsSlot 3 1) = true
        ∧ entry0 s fun c k e => decide (Startable s 3 0 1 c e) && k.thatchMayStart 0
          && holds (parseThatch e.desc) fun o => !s.dev.engineBusy (s.dev.engineOf o.bwd).2.2 && o.done == 0xFFFFFFFF
            && (s.dev.thatchStart 0 o).isNone == x.2.2.2 := by decide +kernel

theorem wit_ThatchOperations_pass :
    let s := kern up [(1, thatchF 1, .thatch { srMode := 0, groups := [], firstUnit := 0, units := 12 })]
    s.dev.enginesRun = true ∧ s.dev.loftBad = [] ∧ entry0 s fun _ _ e => holds (parseThatch e.desc) fun o => !o.reduce
      && match e.st with
        | .thatch r => ((allPasses (o.subs r.units).1 (o.subs r.units).2.1 0 (o.groupsOf r.groups))[0]?).isSome && r.passes == []
        | _ => false := by decide +kernel

/-- A Lath operation on FP32 rows of 16, X at Loft 0, Y at 0x1000, Z at 0x2000, W at 0x3000. -/
def lathF (kind : Nat) (x y z : Bool) (more : List (Nat × Nat × Nat)) : List (Nat × Nat × Nat) :=
  [(0, 5, kind), (64, 32, 1), (96, 32, if kind = 1 ∨ kind = 11 then 1 else 16), (160, 32, 0x1000), (192, 32, 0x2000), (224, 32, 0x3000), (256, 32, 2 ^ 32 - 1)
    , (288, 32, 2 ^ 32 - 1)] ++ (if x then [(512, 320, fmtF 0)] else []) ++ (if y then [(832, 320, fmtF 0)] else [])
    ++ (if z then [(1152, 320, fmtF 0 (if kind = 12 then 1 else 16))] else []) ++ more

/-- No error waits in the Loft, an engine or a core, the operation of entry 0 is ready as one of that kind, and `f` holds of it. -/
abbrev ready0 (s : State) (kind : Nat) (f : Cmd → LathOp → Bool) : Prop :=
  s.dev.loftBad = [] ∧ s.dev.engUpset = [] ∧ (∀ e ∈ s.dev.lath, e.2.upsets = []) ∧ s.dev.undrained = []
    ∧ holds (s.dev.lathReady 3 0 kind) (fun x => decide (x.1.bay < 16) && !s.dev.passed x.1 && f x.1 x.2) = true

theorem wit_LathRowOperations :
    ∀ x ∈ [(2, false, []), (3, true, []), (4, false, []), (5, true, []), (6, false, []), (7, true, [])
      , (12, true, [(1504, 6, 7), (1536, 32, 0x3F800000), (256, 32, 0x4000)])],
      let s := kern up [(2, lathF x.1 true x.2.1 true ([(1472, 32, 0x3F800000)] ++ x.2.2), .waiting)]
      ready0 s x.1 fun _ o => o.fx.isSome && o.fz.isSome := by decide +kernel

theorem wit_LathRowOperations_topk :
    let s := kern up [(2, lathF 8 true false false [(1472, 32, 16)], .waiting)]
    ready0 s 8 fun c o => o.done == 0xFFFFFFFF && !overlap o.z (4 * o.rows * o.par 184 4) o.w (4 * o.rows * o.par 184 4) && holds o.fx fun fx =>
      ((fmtRanges fx o.x o.rows).all fun r => !overlap r.1 r.2 o.z (4 * o.rows * o.par 184 4) && !overlap r.1 r.2 o.w (4 * o.rows * o.par 184 4))
      && okay (s.dev.loftRows c fx o.x 0 o.rows) fun _ => true := by decide +kernel

/-- The table entries of a SAMPLE or ACCEPT. -/
def seqTab (s : State) (o : LathOp) : List (Option SeqEntry) :=
  match s.dev.readSp 0 .loft (o.par 204 4) (64 * o.par 208 4) with
  | .ok bs => (chunksOf 64 (o.par 208 4) bs).map fun x => o.seqEntry (ofLe x)
  | .error _ => []

theorem wit_LathOtherOperations_tokens :
    ∀ x ∈ [(9, false, 0), (10, true, 0), (9, false, 2), (10, true, 9)],
      let s := kern { up with loft := if x.2.2 = 0 then [] else [(0x5008, BitVec.ofNat 8 x.2.2)] }
        [(2, lathF x.1 true x.2.1 false [(1536, 32, 0x3F800000), (1600, 1, 1), (1632, 32, 0x5000), (1664, 32, 1)], .waiting)]
      ready0 s x.1 fun _ o => o.fx.isSome && okay (s.dev.readSp 0 .loft (o.par 204 4) (64 * o.par 208 4)) (fun _ => true)
        && (seqTab s o).any Option.isNone == (x.2.2 != 0) && (seqTab s o).length == 1 := by decide +kernel

/-- An OPTIM of one parameter: w at VA 0x100000, m at 0x100100, v at 0x100200, gradient at 0x100300. -/
def optimF (more : List (Nat × Nat × Nat)) (m : Nat := 0x100100) : List (Nat × Nat × Nat) :=
  lathF 11 true false false ([(1728, 64, 1), (1792, 64, 0x100000), (1856, 64, m), (1920, 64, 0x100200), (1984, 64, 0x100300)
    , (160, 32, 0), (192, 32, 0), (224, 32, 0)] ++ more)

/-- What a GUARD pass of one segment finds. -/
def guarded (s : State) (c : Cmd) (o : LathOp) : LathItems (List Nat) :=
  if o.guard then lathItems (Dev.guardSeg c 0 o) 1 0 { d := s.dev.tick, left := [] } else { d := s.dev.tick, left := [] }

theorem wit_LathOtherOperations_guard :
    let s := kern { up with hbm := cellsAt 0x300 (toLe 4 0x7F800000) } [(2, optimF [(13, 1, 1)], .waiting)]
    ready0 s 11 fun c o => o.guard && ceilDiv (o.par 216 8) segLen == 1 && (guarded s c o).bad.isNone && !(guarded s c o).left.all (isFinite .fp32) := by
  decide +kernel

theorem wit_LathOtherOperations_optim :
    ∀ x ∈ [(0x100100, true), (0x300000, false)],
      let s := kern { up with hbm := cellsAt 0 (toLe 4 0x3F800000) ++ cellsAt 0x300 (toLe 4 0x3F800000) }
        [(2, optimF [(1472, 32, 0x3C000000), (1632, 32, 0x3F800000), (1664, 32, 0x3F800000), (1600 - 32, 32, 0x322BCC77)] x.1, .waiting)]
      ready0 s 11 fun c o => !o.guard && o.adam && ceilDiv (o.par 216 8) segLen == 1 && (guarded s c o).bad.isNone && (guarded s c o).left.all (isFinite .fp32)
        && (lathItems (Dev.optSeg c 0 o false) 1 0 { d := (guarded s c o).d, left := () }).bad.isNone == x.2
        && (!x.2 || okay (s.dev.vaF32 0 (o.par 248 8) (o.par 216 8)) fun gs => okay (s.dev.vaF32 0 (o.par 224 8) (o.par 216 8)) fun ws =>
          okay (s.dev.vaF32 0 (o.par 232 8) (o.par 216 8)) fun ms => okay (s.dev.vaF32 0 (o.par 240 8) (o.par 216 8)) fun vs =>
            let outs := (optRun c.flush o (ws.zip (ms.zip (vs.zip gs)))).1
            (writeArrays 0 s.dev [(o.par 224 8, outs.map (·.w)), (o.par 232 8, outs.map (·.m)), (o.par 240 8, outs.map (·.v))]).2.isNone) := by decide +kernel

theorem wit_LathOtherOperations_program :
    ∀ x ∈ [(0, 65536, true, true), (1, 64, true, true), (2, 64, false, true), (0, 65537, false, true), (0, 65536, true, false)],
      let base := if x.2.2.2 then 0x5000 else 0xFF000
      let image := toLe 8 (mkFields [(0, 32, 2 - x.1), (32, 32, x.2.1)])
      let d := regs up ((.reedlineLevel, 0, 2) :: if x.2.2.2 then [] else [(.pfstatGrant, 0, 0x01000100)])
      let s := kern { d with loft := cellsAt base image } [(2, lathF 1 false false false [(1472, 32, base), (1504, 32, 1)], .waiting)]
      ready0 s 1 fun _ o =>
        let h := ofLe (s.dev.loftRead (o.par 184 4) 64)
        let fits := (bytesAt h 0 4 == s.dev.fd .reedlineLevel 0 0 16 || bytesAt h 0 4 + 1 == s.dev.fd .reedlineLevel 0 0 16) && decide (bytesAt h 4 4 ≤ 65536)
        fits == x.2.2.1 && s.dev.loftGranted 0 (o.par 184 4) (bytesAt h 4 4) == x.2.2.2 := by decide +kernel

/-! ## Witnesses: the Eave -/

/-- An Eave operation: kind and bits, SRC, INDEX and DST addresses, COUNT, ROWS. -/
def eaveF (bits dst count rows : Nat) (more : List (Nat × Nat × Nat)) : List (Nat × Nat × Nat) :=
  [(0, 16, bits), (64, 32, 2 ^ 32 - 1), (128, 32, 2 ^ 32 - 1), (192, 64, 0x100000), (256, 64, 0x100400), (320, 64, dst), (1472, 32, count), (1504, 32, rows)]
    ++ more

/-- A gather of two rows, one to a row of zeros, and a scatter-add of them. -/
def gatherF : List (Nat × Nat × Nat) := eaveF 1 0x400000 2 4 [(512, 320, fmtF 1), (1152, 320, fmtF 1)]
def scatterF : List (Nat × Nat × Nat) := eaveF 2 0x400000 2 4 [(512, 320, fmtF 1), (1152, 320, fmtF 0)]

/-- Indices 0xFFFF_FFFF and 3. -/
def idxMem : List Host.Cell := cellsAt 0x400 (toLe 8 0x3FFFFFFFF)

theorem wit_EaveOperations_commands :
    ∀ x ∈ [(0x13, 1, gatherF), (0x14, 2, scatterF)],
      let c := cmdOf 3 x.1 (inPkt x.2.2)
      let s := run { up with hbm := idxMem } c
      Runs s 3 x.1 c ∧ s.dev.enginesRun = true ∧ c.nan = false ∧ c.contribs = [] ∧ c.trapped = false
        ∧ onlyFields c.pkt 2560 [(0, 128), (128, 2048)] = true ∧ holds (parseEave (c.at 16 256)) (fun o => o.kind == x.2.1
          && o.waitLoft == 0xFFFFFFFF && o.done == 0xFFFFFFFF && !o.gate && s.dev.grants 0 o.loftRanges && errOf (s.dev.eaveLists c o) != [stBadParam]) = true := by decide +kernel

theorem wit_EaveOperations_counter :
    let s := kern { up with hbm := idxMem, loft := [(0x4000, 2)] }
      [(4, ((eaveF 1 0x400000 2 4 [(512, 320, fmtF 1), (1152, 320, fmtF 1)]).eraseIdx 1).eraseIdx 1
        ++ [(64, 32, 0x4000), (96, 32, 2), (128, 32, 0x4004)], .waiting)]
    entry0 s fun c _ e => decide (Startable s 3 0 4 c e) && holds (parseEave e.desc) fun o => o.kind == 1
      && o.waitLoft == 0x4000 && o.waitCount == 2 && o.done == 0x4004 && decide (o.waitCount ≤ s.dev.loftCounter o.waitLoft) && (s.dev.loftCut o.done 4).isNone := by decide +kernel

theorem wit_EaveOperations_entries :
    ∀ x ∈ [(1, gatherF), (2, scatterF), (3, eaveF 3 0x400000 1 8 [(512, 320, fmtF 3), (832, 320, fmtF 7), (1152, 320, fmtF 0 1)])],
      let s := kern { up with hbm := idxMem } [(4, x.2, .waiting)]
      entry0 s fun c _ e => decide (Startable s 3 0 4 c e) && !c.nan && c.contribs == [] && holds (parseEave e.desc) fun o =>
        o.kind == x.1 && o.waitLoft == 0xFFFFFFFF && o.done == 0xFFFFFFFF := by decide +kernel

theorem wit_EaveOperations_attend :
    let item := mkFields [(0, 64, 0x100800), (160, 4, 1), (256, 32, 0x3F800000), (288, 32, 0x3F800000)]
    let s := kern { up with hbm := cellsAt 0x400 (toLe 64 item) } [(4, eaveF 4 0x400000 1 0 [(1568, 32, 0x3F800000), (1608, 5, 1)], .waiting)]
    entry0 s fun c _ e => decide (Startable s 3 0 4 c e) && !c.nan && c.contribs == [] && holds (parseEave e.desc) fun o =>
      o.kind == 4 && o.waitLoft == 0xFFFFFFFF && o.done == 0xFFFFFFFF := by decide +kernel

/-- The parts of a command of one row that the statement asks for. -/
abbrev oneRow (s : State) (c : Cmd) (ix : Nat) (f : EaveOp → FmtDesc → Bool) : Prop :=
  s.dev.eave = [] ∧ s.dev.enginesRun = true ∧ c.nan = false ∧ c.trapped = false ∧ onlyFields c.pkt 2560 [(0, 128), (128, 2048)] = true
    ∧ holds (parseEave (c.at 16 256)) (fun o => o.waitLoft == 0xFFFFFFFF && o.done == 0xFFFFFFFF && !o.gate && !o.loft && o.count == 1
      && okay (s.dev.t1Read 0 o.idx 4) (fun bs => bs == toLe 4 ix) && (decide (ix < o.rows) || ix == 0xFFFFFFFF) && holds o.f0 (f o)) = true

theorem wit_EaveOperations_gatherRow :
    ∀ ix ∈ [3, 0xFFFFFFFF],
      let c := cmdOf 3 0x13 (inPkt (eaveF 1 0x400000 1 4 [(512, 320, fmtF 1), (1152, 320, fmtF 1)]))
      let s := run { up with hbm := cellsAt 0x400 (toLe 4 ix) } c
      Runs s 3 0x13 c ∧ oneRow s c ix fun o f0 => o.kind == 1 && !o.sum && decide (f0.mode = .none)
        && okay (if ix = 0xFFFFFFFF then .ok (List.replicate f0.rowBytes 0) else s.dev.t1Read 0 (o.src + ix * f0.rowBytes) f0.rowBytes) fun bs =>
          (s.dev.t1Bad 0 o.dst f0.rowBytes true).isNone && (s.dev.writeVa 0 o.dst bs).2.isNone := by decide +kernel

theorem wit_EaveOperations_scatterRow :
    let c := cmdOf 3 0x14 (inPkt (eaveF 2 0x400000 1 4 [(512, 320, fmtF 1), (1152, 320, fmtF 0)]))
    let s := run { up with hbm := cellsAt 0x400 (toLe 4 3) } c
    Runs s 3 0x14 c ∧ oneRow s c 3 fun o f0 => o.kind == 2 && !o.weighted && (s.dev.t1Bad 0 (o.dst + 4 * f0.rowLen * 3) (4 * f0.rowLen) true).isNone
      && okay (s.dev.t1Read 0 (o.dst + 4 * f0.rowLen * 3) (4 * f0.rowLen)) fun old => okay (s.dev.eaveRow c f0 o.src 0) fun x =>
        let had := (unpackCodes 32 f0.rowLen (ofLe old)).map fun v => (flushCode c.flush .fp32 v).1
        let sums := ((had.zip x.1).map fun e => f32Add e.1 e.2).map fun v => (flushCode c.flush .fp32 v).1
        x.2.nans == [] && sums.all (fun v => !isNan .fp32 v) && (s.dev.writeVa 0 (o.dst + 4 * f0.rowLen * 3) (sums.flatMap (toLe 4))).2.isNone := by
  decide +kernel

/-- Module `d` with the front end of stack 31 as given. -/
def eu (d : Dev) (u : EaveUnit) : Dev := { d with eave := [(31, u)] }

/-- A request of granule `g`. -/
def ereq (kind g : Nat) : EReq := { id := 0, kind := kind, granule := g, mask := 1, data := 7, tags := [9], bay := some 0, own := false, arrived := 0 }

theorem wit_EaveArrivals :
    let r := ereq 0 5
    let full := eu up { window := List.replicate 511 r }
    let s := eu (regs up [(.eaveScrubCfg, 31, 1)]) { scrubAt := 2 ^ 30 - 1 }
    (full.ready || full.early) = true ∧ (∀ k ∈ [0, 31], niOk (phyNi k) = true) ∧ (full.eunit 31).ingress = [] ∧ (full.eunit 31).window.length < 512
      ∧ s.fd .eaveScrubCfg 31 0 8 ≠ 0 ∧ (s.ready || s.early) = true ∧ (s.eunit 31).ingress = [] ∧ (s.eunit 31).window = [] ∧ (s.eunit 31).slots = []
      ∧ (s.eunit 31).ovf = [] ∧ (s.eunit 31).scrubAt < 2 ^ 30 := by decide +kernel

theorem wit_EaveAccesses :
    let g := 2 ^ 30 - 1
    let b := bankOf g
    let rd := ereq 0 g
    let d (u : EaveUnit) : EaveUnit := (eu up u).eunit 31
    ((d { window := [rd] }).window = [rd] ∧ (d { window := [rd] }).slots = [] ∧ rd.back = false ∧ rd.entered + up.fd .eaveWinCfg 31 0 10 ≤ up.now
        ∧ 1 ≤ up.fd .eaveCfg 31 0 9)
      ∧ (∀ k ∈ [0, 1, 2], (d { slots := [ereq k g] }).slots = [ereq k g] ∧ (d { slots := [ereq k g] }).ovf = [] ∧ (d { slots := [ereq k g] }).ingress = [] ∧ (d { slots := [ereq k g] }).upsets = [] ∧ { ereq k g with issued := true }.issued = true ∧ (ereq k g).issued = false
          ∧ smFind (d { slots := [ereq k g] }).refresh b = none ∧ smFind (d { slots := [ereq k g] }).rows b = none ∧ (ereq k g).kind ≤ 2)
      ∧ up.sarking = false ∧ up.refreshing = false ∧ up.hbmBad = [] ∧ b < 4096
      ∧ (let s := eu (regs up [(.eaveHotThresh, 31, 1), (.eaveHotEven, 0, 0)]) { overSince := [(b, 990000)], ovf := [rd, rd] }
         smFind (s.eunit 31).overSince b = some 990000 ∧ smFind (s.eunit 31).hot b = none ∧ 990000 + 10000 ≤ s.now
          ∧ s.fd .eaveHotThresh 31 0 14 < ((s.eunit 31).ovfOf b).length ∧ s.rbit .eaveHotEven 0 0 = false) := by decide +kernel

/-! ## Witnesses: serving -/

/-- The region of sheaf 1: a manifest of one layer with one KV head of 64 and AUX sheaf 2 for the fallback, and its DENSE layer. -/
def sheafMem : List Host.Cell :=
  cellsAt 0 (toLe 64 (mkFields [(0, 32, 1), (34, 3, 1), (40, 7, 1), (48, 16, 1), (96, 32, 2), (128, 64, 0x10000), (192, 32, 1), (320, 64, 256)]))
    ++ cellsAt 256 (toLe 48 (mkFields [(128, 32, 0x3F800000), (160, 32, 0x3F800000)]))

/-- The main cache of a sequence of 64 positions, with its directory at 0x480000, and a cache for the fallback. -/
def cache0 : KvCache := { dir := 0x480000, layers := 1, heads := 1, dim := 0, e2m1 := false, maxPos := 64 }

/-- Bay 0 serving with sheaf 1 CURRENT, a pool of 1 MiB at VA 0x400000, the sequences `ss`, STEPs `rs`, and SQ 3 holding slot 0. -/
def serve (ss : List Seq) (rs : List StepRun) : Dev :=
  let d := slot (regs up [(.bayServePoolVa, 0, 0x400000), (.bayServePoolBytes, 0, 0x100000)]) 0
  { d with hbm := sheafMem, steps := rs
           bays := { (d.bays.headD {}) with sheaves := [{ id := 1, st := 3, regionVa := 0x100000, regionBytes := 0x10000 }], seqs := ss } :: List.replicate 15 {} }

/-- Sequence 0 with tokens, or handle 32 with caches, and requests. -/
def seq0 (toks : Nat) (rs : List SeqReq) : Seq :=
  { id := 0, serial := 5, maxPos := 64, outVa := 0x500000, outRecords := 16, toks := List.replicate toks (.known 7)
    caches := [cache0, { cache0 with aux := 2, dir := 0x490000 }], reqs := rs }

/-- SQ 3 has deferred these commands and runs `run`. -/
def defer (d : Dev) (cs : List Cmd) (run : Option Cmd) : State :=
  { lim := lim0
    dev := { d with sqs := [(3, { bay := 0, admin := false, ring := 0x100000, log2 := 4, headAddr := 0x101000, cq := 7, run := run, deferred := cs })]
                    cqs := [(7, { bay := 0, admin := false, ring := 0x102000, log2 := 4, vector := 1 })] } }

/-- A SEQ_GENERATE of 1 token with the fallback allowed, and a SEQ_SUBMIT of `n` tokens. -/
def genC : Cmd := cmdOf 3 0x52 [(8, 8, 2), (160, 32, 1), (224, 32, 0x3F800000), (288, 32, 0x3F800000), (385, 1, 1)]
def subC (n : Nat) : Cmd := cmdOf 3 0x51 [(160, 32, n), (192, 48, 0x501000)]

theorem wit_SequenceCommands_open :
    ∀ x ∈ [(16, 64), (65536, 4096)],
      let c := cmdOf 3 0x50 [(256, 48, 0x500000), (320, 32, x.1), (352, 32, x.2)]
      let d0 := serve [] []
      let s := run { d0 with objs := d0.objs.map fun o => if o.small then o else { o with size := 0x400000, locs := [{ tier := 1, frames := [0x200000, 0x400000] }] }
                             bays := d0.bays.map fun b => { b with maps := b.maps.map fun m => { m with bytes := if m.small then m.bytes else 0x400000 } } } c
      Runs s 3 0x50 c ∧ c.at 24 8 = 0 ∧ c.trapped = false ∧ c.bay < s.dev.bays.length
        ∧ c.only 1 [(16, 0, 32), (20, 0, 1), (21, 0, 7), (24, 0, 64), (32, 0, 48), (40, 0, 32), (44, 0, 32)] = true ∧ c.at 16 4 ≠ 0xFFFFFFFF
        ∧ c.at 32 8 % 64 = 0 ∧ 16 ≤ c.at 40 4 ∧ c.at 40 4 ≤ 65536 ∧ popCount 32 (c.at 40 4) = 1 ∧ c.at 44 4 % 64 = 0 ∧ 64 ≤ c.at 44 4 ∧ c.at 44 4 ≤ 4194304
        ∧ c.bits 21 0 7 ≤ 64 ∧ s.dev.seq? 0 (c.at 16 4) = none ∧ s.dev.handle? 0 0 = none ∧ s.dev.fits 0 1 (c.bits 21 0 7) (c.at 44 4) none = true
        ∧ s.dev.checkVa 0 (c.at 32 8) (64 + 32 * c.at 40 4) true = none ∧ 1 ≤ s.dev.fd .bayServeLimit 0 0 19 ∧ (s.dev.bays.all fun x => x.seqs.isEmpty) = true
        ∧ holds (s.dev.currentSheaf 0) (fun sh => holds (s.dev.manifest? 0 sh.id) fun m =>
          holds (s.dev.allocDirs 0 (s.dev.cachesOf 0 m (c.at 44 4)) [] []) fun (a : List KvCache × List (Nat × Nat)) =>
            let x : Seq := { id := c.at 16 4, serial := c.order, pin := bitAt c.pkt 160, addition := c.bits 21 0 7, outVa := c.at 32 8, outRecords := c.at 40 4
                             maxPos := c.at 44 4, caches := a.1, own := a.2 }
            (Dev.writeDirs (s.dev.modSeqs 0 fun ss => ss ++ [x]) 0 (c.at 16 4) 0 a.1).2.isNone) = true := by
  decide +kernel

theorem wit_SequenceCommands_requests :
    ∀ x ∈ [(false, 0x51, subC 61), (true, 0x52, genC)],
      let c := x.2.2
      let s := defer (serve [seq0 3 []] []) [] (some c)
      let d := s.dev.dropStale 0
      Runs s 3 x.2.1 c ∧ c.trapped = false ∧ holds (d.seq? 0 (c.at 16 4)) (fun y => d.seqOf 0 y.serial == some y && !y.faulted && decide (y.reqs.length < 4)
        && decide (y.len < y.maxPos) && (if x.1 then genOk c else c.only 1 [(16, 0, 32), (20, 0, 32), (24, 0, 48)] && c.at 20 4 == y.maxPos - y.len && y.submitted == 0)
        && (d.reserveReq 0 c.order y (c.at 20 4 + if x.1 then 8 else 0)).isSome) = true := by decide +kernel

theorem wit_SequenceCommands_close :
    let c := cmdOf 3 0x53 []
    let s := run (serve [seq0 3 []] []) c
    let d := s.dev.dropStale 0
    Runs s 3 0x53 c ∧ c.only 1 [(16, 0, 32)] = true ∧ s.dev.inStep 0 5 = false ∧ holds (d.seq? 0 (c.at 16 4)) (fun x => x.reqs == [] && x.serial == 5) = true
      ∧ (d.bay 0).seqs.length = 1 := by decide +kernel

/-- A request of a command of SQ 3. -/
def reqOf (c : Cmd) (active : Bool) : SeqReq := { cmd := c, generate := c == genC, accepted := 0, active := active }

theorem wit_RequestsAndHandles_activate :
    ∀ x ∈ [(genC, 63), (subC 2, 62)],
      let d := (defer (serve [seq0 x.2 [reqOf x.1 false]] []) [x.1] none).dev.dropStale 0
      holds (d.seq? 0 0) (fun s => d.seqOf 0 s.serial == some s && match s.reqs with
        | r :: _ => !r.active && r.generate == (x.1 == genC) && (if r.generate then s.pending != 0 && decide (s.len < s.maxPos)
            else decide (2 ≤ r.cmd.at 20 4) && decide (s.len + r.cmd.at 20 4 ≤ s.maxPos))
        | [] => false) = true := by decide +kernel

theorem wit_RequestsAndHandles_build :
    ∀ sid ∈ [0, 1],
      let c := cmdOf 3 0x54 [(128, 64, 32), (192, 48, 0x501000), (256, 32, 1), (288, 32, sid)]
      let d0 := serve [] []
      let s := run { d0 with
        objs := d0.objs ++ [{ bay := 0, id := 3, size := 0x100000, small := true, home := 1, backing := 0, pool := false, pin := false, underlay := false
                              exportMode := 0, key := 0, locs := [{ tier := 1, frames := (upFrom 0 16).map fun k => 0x800000 + 0x10000 * k }] }]
        bays := d0.bays.map fun b => { b with maps := (b.maps.filter (·.small))
          ++ [{ va := 0x400000, bytes := 0x100000, objBay := 0, objId := 3, off := 0, write := true, prefetch := false, small := true }] } } c
      let d := s.dev.dropStale 0
      (d.bay 0).seqs = [] ∧ Runs s 3 0x54 c ∧ c.trapped = false ∧ c.only 1 [(16, 0, 64), (24, 0, 48), (32, 0, 32), (36, 0, 32)] = true ∧ c.at 16 8 ≠ 0 ∧ 1 ≤ c.at 32 4 ∧ c.at 32 4 ≤ 262144
        ∧ d.handle? 0 (c.at 16 8) = none ∧ ((d.bay 0).seqs.filter fun x => x.handle && !x.closed).length < d.fd .bayPrefixLimit 0 0 17
        ∧ holds (if c.at 36 4 = 0 then d.currentSheaf 0 else d.sheaf? 0 (c.at 36 4)) (fun sh => !sh.aux && decide (2 ≤ sh.st ∧ sh.st ≤ 4) && sh.pinRoom
          && holds (d.manifest? 0 sh.id) fun m => holds (d.allocDirs 0 (d.cachesOf 0 m (alignUp (c.at 32 4) 64)) [] []) fun (a : List KvCache × List (Nat × Nat)) =>
            let d1 := d.modSeqs 0 fun ss => ss ++ [{ handle := true, id := c.at 16 8, serial := c.order, maxPos := alignUp (c.at 32 4) 64,
                                                     caches := a.1, own := a.2, sheaf := sh.id }]
            holds (d1.reserveHandle 0 (c.at 16 8) (a.1.map fun k => (k, d1.pagesFor 0 (if k.aux = 0 then sh.id else k.aux) k 0 (c.at 32 4))))
              fun (r : List (Nat × Nat × Nat) × List (Nat × Nat)) =>
                let d2 := d1.modSeq 0 c.order fun x => { x with own := x.own ++ r.2, resv := r.1.map fun p => (c.order, p.1, p.2.1, 0)
                                                                toks := (upFrom 0 (c.at 32 4)).map fun i => Tok.at_ (c.at 24 8 + 4 * i)
                                                                reqs := [{ cmd := c, generate := false, accepted := d.now, active := true, stop := c.at 32 4 }] }
                (d2.writeDirs 0 (c.at 16 8 % 2 ^ 32) 0 a.1).2.isNone) = true := by decide +kernel

theorem wit_RequestsAndHandles_drop :
    let c := cmdOf 3 0x55 [(128, 64, 32)]
    let s := run (serve [{ seq0 3 [] with handle := true, id := 32 }, { seq0 3 [] with serial := 6, onHandle := some 5 }] []) c
    let d := s.dev.dropStale 0
    Runs s 3 0x55 c ∧ c.only 1 [(16, 0, 64)] = true ∧ holds (d.handle? 0 (c.at 16 8)) (fun x => x.reqs == [] && x.serial == 5) = true
      ∧ (d.bay 0).seqs.all (fun y => (!(y.handle && !y.closed && y.id == 32) || y.serial == 5) && (!(y.serial == 5) || y.handle)) = true := by decide +kernel

/-- STEP, running. -/
def stepR (sheaf check ran : Nat) (es : List StepEntry) : StepRun :=
  { sq := 3, bay := 0, budget := 512, left := 2, maxSeqs := 16384, ran := ran, sheaf := sheaf, layers := 1, check := check, entries := es }

theorem wit_ServingSteps_start :
    ∀ x ∈ [0, 512, 65536],
      let c := cmdOf 3 0x21 [(128, 32, x), (160, 16, 65535), (176, 16, 16384)]
      let s := run (serve [] []) c
      Runs s 3 0x21 c ∧ s.dev.step? 3 = none ∧ s.dev.enginesRun = true ∧ c.only 1 [(16, 0, 32), (20, 0, 16), (22, 0, 16)] = true
        ∧ (c.at 16 4 = 0 ∨ 512 ≤ c.at 16 4 ∧ c.at 16 4 ≤ 65536) ∧ c.at 20 2 ≠ 0 ∧ c.at 22 2 ≤ 16384 ∧ c.trapped = false
        ∧ (s.dev.steps.any fun r => r.bay == c.bay) = false := by decide +kernel

/-- A STEP of SQ 3 with `r`, holding its slot. -/
abbrev stepping (s : State) (f : Cmd → StepRun → Bool) : Prop :=
  s.dev.enginesRun = true ∧ s.dev.onSlot 3 = true ∧ s.dev.reloading = false
    ∧ holds (s.dev.running? 3 0x21) (fun c => decide (Runs s 3 0x21 c) && !c.nan && c.contribs == [] && holds (s.dev.step? 3) fun r => r.bay == c.bay && f c r) = true

theorem wit_ServingSteps_build :
    stepping (run (serve [] [stepR 0 0 1 []]) (cmdOf 3 0x21 [])) (fun _ r => r.sheaf == 0 && r.ran != 0)
      ∧ let s := defer (serve [seq0 1 [reqOf genC true]] [stepR 0 0 0 []]) [genC] (some (cmdOf 3 0x21 []))
        let d := s.dev.dropStale 0
        stepping s fun _ r => r.sheaf == 0 && match d.candidates 0 with
          | x :: rest => holds (d.sheafFor 0 x.1) fun id => holds (d.sheaf? 0 id) fun sh => sh.id == id && (d.manifest? 0 sh.id).isSome
              && decide (sh.pins + 1 + rest.length + 1 ≤ 0xFFFFFFFF)
              && (x :: rest).all (fun z => d.fits 0 sh.id z.1.addition z.1.maxPos (some z.1.main))
              && decide (d.buildPlan 0 sh.id r.budget r.maxSeqs ((x :: rest).filter fun z => d.sheafFor 0 z.1 == some sh.id) ≠ [])
          | [] => false := by decide +kernel

theorem wit_ServingSteps_run :
    (∀ k ∈ [0, 1], ∀ v ∈ [1, 5, 9], let s := run (regs (serve [] [stepR 1 k 0 []]) [(.thatchArraySts, 0, v)]) (cmdOf 3 0x21 [])
        s.dev.thatchAdmits = (v == 1) ∧ stepping s fun c r => r.sheaf != 0 && decide (r.check ≤ r.layers) && (s.dev.weightsErr r c).isNone)
      ∧ (let s := run (serve [] [stepR 1 2 0 []]) (cmdOf 3 0x21 [])
         stepping s fun _ r => r.sheaf != 0 && decide (r.layers < r.check) && r.entries == [] && r.left != 0)
      ∧ let e : StepEntry := { serial := 5, order := 1, chunk := 0, verify := some 0, mask := .fallback }
        let s := defer (serve [seq0 1 [reqOf genC true]] [stepR 1 2 0 [e]]) [genC] (some (cmdOf 3 0x21 []))
        s.dev.thatchAdmits = true ∧ stepping s fun c r => r.sheaf != 0 && decide (r.layers < r.check) && r.entries == [e] && holds (s.dev.seqOf 0 e.serial) fun x => holds x.active fun y =>
          holds (s.dev.fallbackCache 0 r.sheaf x y e) fun f => holds (x.caches[f.1]?) (fun k => x.known k.committed x.len != []) && (s.dev.weightsErr r c).isNone := by decide +kernel

/-! ## Witnesses: gradient reduction and block collectives -/

/-- The group of this module's bay 0 and of module 5 in another domain, at VA 0x100000; the plan of one range of 64 elements held by both, at
0x100100; its members at 0x100200. -/
def group0 : List Member := [{ dev := up.self, domain := 0, bay := 0 }, { dev := 5, domain := 1, bay := 0 }]
def range0 : PlanRange := { accOff := 0, segments := 1, lastLen := 64, ownerBase := 0, members := [0, 1] }
def collMem : List Host.Cell :=
  cellsAt 0 (toLe 32 (mkFields [(0, 32, 2), (128, 15, up.self), (192, 15, 5), (208, 10, 1)]))
    ++ cellsAt 0x100 (toLe 64 1 ++ toLe 32 (mkFields [(64, 32, 1), (96, 32, 64), (128, 16, 2), (192, 64, 0x100200)]))
    ++ cellsAt 0x200 (toLe 4 0x10000)

theorem wit_ReductionCommands_handles :
    let bind := cmdOf 3 0x30 [(8, 8, 2), (160, 32, 4095), (256, 48, 0x400000), (320, 64, 2 ^ 40)]
    let unbind := cmdOf 3 0x30 [(8, 8, 2), (128, 2, 1), (160, 32, 4095)]
    (Runs (run up bind) 3 0x30 bind ∧ bind.bits 16 0 2 = 0 ∧ bind.only 2 [(20, 0, 32), (32, 0, 48), (40, 0, 64)] = true ∧ bind.at 20 4 < 4096
        ∧ bind.at 32 6 % 256 = 0 ∧ 1 ≤ bind.at 40 8 ∧ bind.at 40 8 ≤ 2 ^ 40 ∧ (run up bind).dev.handleBusy 0 4095 = false
        ∧ bind.trapped = false ∧ (run up bind).dev.passed bind = false ∧ unbind.trapped = false ∧ (run up unbind).dev.passed unbind = false)
      ∧ Runs (run up unbind) 3 0x30 unbind ∧ unbind.bits 16 0 2 = 1 ∧ unbind.only 2 [(16, 0, 2), (20, 0, 32)] = true ∧ unbind.at 20 4 < 4096
      ∧ (run up unbind).dev.handleBusy 0 4095 = false := by decide +kernel

/-- No part runs on SQ 3, nothing of a collective waits, and no memory fails. -/
abbrev calm (s : State) : Prop :=
  s.dev.enginesRun = true ∧ s.dev.hbmBad = [] ∧ s.dev.objs.all (fun o => o.slowBad == []) = true ∧ s.dev.collIn = [] ∧ s.dev.collReports = [] ∧ s.dev.readyIn = []
    ∧ s.dev.decisionIn = [] ∧ (s.dev.parts.any fun p => p.sq == 3) = false

theorem wit_ReductionCommands_run :
    ∀ m ∈ [0, 2],
      let c := cmdOf 3 0x30 ([(8, 8, 2), (128, 2, 2), (130, 2, 2), (133, 2, m), (192, 32, 9), (256, 48, 0x400000), (384, 64, 0x100100), (448, 64, 0x100000), (512, 64, 0x401000)]
        ++ if m = 0 then [] else [(576, 64, 0x402000), (640, 64, 0x403000)])
      let s := run { up with hbm := collMem } c
      Runs s 3 0x30 c ∧ c.trapped = false ∧ calm s ∧ s.dev.passed c = false ∧ c.bits 16 0 2 = 2 ∧ c.reduceOk = true ∧ s.dev.part? 0 (c.at 24 4) = none
        ∧ s.dev.rankIn 0 group0 = some 0 ∧ s.dev.memberBad group0 = none
        ∧ okay (s.dev.readGroup 0 (c.at 56 8)) (fun g => g == some group0) = true ∧ okay (s.dev.readPlan 0 (c.at 48 8) group0) (fun p => p == some [range0]) = true
        ∧ (let p : CollPart := { sq := 3, bay := 0, order := c.order, opcode := 0x30, tag := c.at 24 4, group := group0, rank := 0, all := bitAt c.pkt 132
                                 method := c.bits 16 5 2, kLog2 := c.bits 17 0 4, src := c.at 32 6, dst := c.at 64 8, efIn := c.at 72 8, efOut := c.at 80 8, plan := [range0] }
           (p.method = 0 ∨ overlap p.efIn (4 * p.shardOff p.plan.length 0) p.efOut (4 * p.shardOff p.plan.length 0) = false)
             ∧ (p.reduceRanges.any fun r => s.dev.outsideT1 0 r.1 r.2.1) = false ∧ s.dev.rangesErr 0 p.reduceRanges = none) := by decide +kernel

theorem wit_ReductionCommands_blocks :
    ∀ x ∈ [(0x31, 0), (0x32, 0), (0x32, 0x100800)],
      let c := cmdOf 3 x.1 [(128, 32, 9), (192, 64, 0x100000), (256, 64, 0x401000), (320, 64, 0x400000), (384, 64, 1), (448, 64, x.2)]
      let s := run { up with hbm := collMem } c
      let rs := [(c.at 32 8, if x.1 = 0x31 then 1 else 2, false), (c.at 40 8, 2, true)] ++ (if x.2 = 0 then [] else [(x.2, 16, false), (x.2 + 16, 16, true)])
      Runs s 3 x.1 c ∧ calm s ∧ s.dev.passed c = false ∧ c.only 1 [(16, 0, 32), (24, 0, 320)] = true ∧ c.at 48 8 = 1 ∧ c.at 56 8 = x.2
        ∧ s.dev.part? 0 (c.at 16 4) = none ∧ okay (s.dev.readGroup 0 (c.at 24 8)) (fun g => g == some group0) = true
        ∧ (rs.any fun r => s.dev.outsideT1 0 r.1 r.2.1) = false ∧ s.dev.rangesErr 0 rs = none
        ∧ (x.2 = 0 ∨ okay (s.dev.readVaNat 0 x.2 16) (fun v => (unpackCodes 64 2 v).all (fun l => decide (l ≤ 1))) = true) := by decide +kernel

/-- A frame of the module's own on the loopback. -/
def own : FrameHdr := { port := 31, src := up.self, inc := 0, seq := 0 }

/-- A part of an all-reduce of `group0`, whose accumulator is at VA 0x400000. -/
def part0 (op : Nat) (ws : List CollKey) : CollPart :=
  { sq := 3, bay := 0, order := 1, opcode := op, tag := 9, group := group0, rank := 0, all := true, src := 0x400000, dst := 0x401000, bytes := 16, plan := [range0], waits := ws }

theorem wit_CollectiveTraffic_stored :
    (up.acceptColl own 3).2 = true ∧ up.collIn = [] ∧ up.part? 0 9 = none := by decide +kernel

theorem wit_CollectiveTraffic_used :
    let k (n : Nat) : CollKey := { kind := n, range := 0, seg := 0, slice := 0, dom := if n = 2 then 1 else 0 }
    let s (op : Nat) (ws : List CollKey) : State := { dev := { up with parts := [part0 op ws] } }
    let p := part0 0x30 [k 0, k 1, k 2]
    holds (p.place range0) (fun x => x.ring.length == 1 && x.pos == 0
      && (((s 0x30 p.waits).dev.acceptColl own 3).1.writeVa 0 (p.accSlice range0 1 0 0) (toLe 256 7)).2 == none
      && okay (((s 0x30 p.waits).dev.acceptColl own 3).1.readVaNat 0 (p.accSlice range0 1 0 0) 256) fun o =>
        let v := unpackCodes 32 64 o
        (((s 0x30 p.waits).dev.acceptColl own 3).1.writeVa 0 (p.accSlice range0 1 0 0) (toLe (4 * v.length) (packCodes 32 v))).2 == none) = true
      ∧ (s 0x30 p.waits).dev.enginesRun = true ∧ (s 0x30 p.waits).dev.collIn = [] ∧ (s 0x30 p.waits).dev.parts.length = 1 ∧ p.all = true
      ∧ p.waits.contains (k 0) = true ∧ p.waits.contains (k 1) = true ∧ p.waits.contains (k 2) = true ∧ p.sums = []
      ∧ (∀ op ∈ [0x31, 0x32], (part0 op [{ kind := 3, range := 1 }]).waits.contains { kind := 3, range := 1 } = true ∧ (part0 op []).counts = 0
          ∧ (((s op [{ kind := 3, range := 1 }]).dev.acceptColl own 3).1.writeVa 0 (0x401000 + 16) (toLe 16 7)).2 = none) := by decide +kernel

theorem wit_CollectiveTraffic_ring :
    let g : List Member := [{ dev := up.self, domain := 0, bay := 0 }, { dev := 5, domain := 0, bay := 0 }]
    let p := { part0 0x30 [{ kind := 0, range := 0, slice := 1 }] with group := g }
    let s : State := { dev := { up with parts := [p] } }
    holds (p.place range0) (fun x => x.pos != 1 && okay ((s.dev.acceptColl own 3).1.readVaNat 0 (p.accSlice range0 x.ring.length 0 1) (4 * range0.sliceLen x.ring.length 0 1))
      fun _ => true) = true := by decide +kernel

theorem wit_CollectiveTraffic_slice :
    let g : List Member := [{ dev := up.self, domain := 0, bay := 0 }, { dev := 5, domain := 0, bay := 0 }]
    let p := { part0 0x30 [{ kind := 0, range := 0, slice := 0 }] with group := g }
    let s : State := { dev := { up with parts := [p] } }
    holds (p.place range0) (fun x => x.ring.length == 2 && x.pos == 0 && p.all
      && okay ((s.dev.acceptColl own 3).1.readVaNat 0 (p.accSlice range0 2 0 0) (4 * range0.sliceLen 2 0 0)) fun o =>
        let v := ((addForm false (unpackCodes 32 (range0.sliceLen 2 0 0) 7) ((unpackCodes 32 (range0.sliceLen 2 0 0) o).map some)).run false).1
        ((s.dev.acceptColl own 3).1.writeVa 0 (p.accSlice range0 2 0 0) (toLe (4 * v.length) (packCodes 32 v))).2.isNone) = true
      ∧ s.dev.enginesRun = true ∧ s.dev.collIn = [] := by decide +kernel

theorem wit_CollectiveTraffic_passes :
    let p (die owner : Nat) (buf : Bool) : FirstPass :=
      { sq := 3, entry := 0, bay := 0, accVa := 0x400000, elems := [(0, 0x3F800000)], src := 0, owner := owner, die := die, buf := buf }
    let s : State := { dev := { up with passes := [p 0 3 false, p 1 3 true, p 3 3 true] } }
    s.dev.enginesRun = true ∧ (∀ n ∈ [0, 1, 2], (s.dev.passes[n]?).any (fun x => !passBehind s.dev.passes n x) = true)
      ∧ (s.dev.passes.map fun x => (x.buf, decide (x.die = x.owner))) = [(false, false), (true, false), (true, true)] ∧ bufsAt s.dev.passes 0 < 32
      ∧ bufsAt s.dev.passes (ringNext 1) < 32 ∧ s.dev.passWaits (p 3 3 true) = false := by decide +kernel

theorem wit_PartsEnd :
    let p := part0 0x30 [{ kind := 1, range := 0 }]
    let c : Cmd := { cmdOf 3 0x30 [(64, 64, 999999)] with order := 1 }
    let s := run { up with parts := [p] } c
    (s.dev.parts.filter fun y => y.sq == p.sq || (y.bay == p.bay && y.tag == p.tag)) = [p] ∧ holds (smFind s.dev.sqs p.sq) (fun x => x.run == some c) = true
      ∧ c.order = p.order ∧ (s.dev.acceptColl own 0).2 = true ∧ p.waits ≠ [] ∧ c.contribs = [] ∧ s.dev.turns = [] ∧ s.dev.passed c = true := by decide +kernel

/-! ## Witnesses: sheaves and turns -/

/-- The whole region of sheaf 1: its manifest, one DENSE layer at 0x100, the piece table at 0x200, KV scales at 0x300, a piece of one byte at 0x400. -/
def regionMem (crc : Nat) : List Host.Cell :=
  cellsAt 0 (toLe 64 (mkFields [(0, 32, 1), (34, 3, 1), (40, 7, 1), (48, 16, 1), (128, 64, 0x10000), (192, 32, 1), (320, 64, 0x100), (384, 64, 0x200)]))
    ++ cellsAt 0x100 (toLe 48 (mkFields [(128, 32, 0x3F800000), (160, 32, 0x3F800000), (256, 64, 0x300)]))
    ++ cellsAt 0x200 (toLe 32 (mkFields [(0, 64, 0x400), (64, 64, 1), (128, 64, crc)])) ++ cellsAt 0x300 (toLe 8 0x3F8000003F800000)

/-- `group0` at VA 0x400000, a plan of one chain at 0x400100, chains from rank 1 to this module and back at 0x400200, their members at 0x400300. -/
def turnMem : List Host.Cell :=
  let chain (off src dst : Nat) : Nat := mkFields [(32, 16, 2), (64, 64, off), (128, 64, src), (192, 64, dst), (256, 64, 1)]
  cellsAt 0x200000 (toLe 32 (mkFields [(0, 32, 2), (128, 15, up.self), (192, 15, 5), (208, 10, 1)]))
    ++ cellsAt 0x200100 (toLe 64 (mkFields [(0, 32, 2), (32, 32, 1), (192, 64, 0x400200), (256, 64, 0x400300)]))
    ++ cellsAt 0x200200 (toLe 48 (chain 0 0 0x400) ++ toLe 48 (chain 2 0 0x800)) ++ cellsAt 0x200300 (toLe 8 0x0001000000000001)

/-- Bay 0 with these sheaves, the region and the turn's tables in memory. -/
def sheafDev (ss : List Sheaf) : Dev :=
  { up with hbm := regionMem (crc64 [0]) ++ turnMem, bays := { (up.bays.headD {}) with sheaves := ss } :: List.replicate 15 {} }

/-- Sheaf 1 in a state, with pins. -/
def sheaf1 (st pins : Nat) : Sheaf := { id := 1, st := st, pins := pins, holds := pins, regionVa := 0x100000, regionBytes := 0x10000 }

/-- The packet of SHEAF_PUBLISH with an OP runs. -/
abbrev publishing (d : Dev) (op id : Nat) (va : Nat) (fs : List (Nat × Nat × Nat)) (f : State → Cmd → Bool) : Prop :=
  let c := cmdOf 3 0x41 ([(128, 3, op), (160, 32, id)] ++ if va = 0 then [] else [(if op = 0 then 192 else 256, 64, va)])
  Runs (run d c) 3 0x41 c ∧ c.bits 16 0 3 = op ∧ c.only 1 ([(16, 0, 3), (20, 0, 32)] ++ fs) = true ∧ c.at 20 4 = id ∧ c.trapped = false ∧ f (run d c) c = true

theorem wit_SheafCommands_open :
    publishing (sheafDev []) 0 1 0x100000 [(24, 0, 64)] fun s c => okay (s.dev.openCheck 0 1 (c.at 24 8) false) fun _ => true := by decide +kernel
theorem wit_SheafCommands_publish :
    publishing (sheafDev [sheaf1 1 0]) 1 1 0 [] (fun s _ => holds (s.dev.sheaf? 0 1) fun x => x.st == 1
        && okay (s.dev.verify 0 x) fun m => (s.dev.publish 0 x m).isSome)
      ∧ publishing { sheafDev [sheaf1 1 0] with hbm := [] } 1 1 0 [] fun s _ => holds (s.dev.sheaf? 0 1) fun x => x.st == 1
        && match s.dev.verify 0 x with | .error e => e == { status := stBadParam } | .ok _ => false := by decide +kernel
theorem wit_SheafCommands_pins :
    (∀ st ∈ [2, 3], publishing (sheafDev [sheaf1 st 0xFFFFFFFE]) 2 1 0 [] fun s _ => holds (s.dev.sheaf? 0 1) fun x => x.st == st && decide (x.pins < 0xFFFFFFFF))
      ∧ ∀ st ∈ [3, 4], publishing (sheafDev [sheaf1 st 1]) 3 1 0 [] fun s _ => holds (s.dev.sheaf? 0 1) fun x => x.holds != 0 && x.st == st && x.pins == 1 := by
  decide +kernel
theorem wit_SheafCommands_query :
    publishing (sheafDev [sheaf1 2 0]) 4 0 0x480000 [(32, 0, 64)] fun s c =>
      let es := sortBy (fun a b : Sheaf => decide (a.id ≤ b.id)) (s.dev.bay 0).sheaves
      (s.dev.writeVa 0 (c.at 32 8) (es.flatMap fun x => toLe 32 x.entry)).2 == none := by decide +kernel
theorem wit_SheafCommands_retire :
    let c := cmdOf 3 0x43 [(128, 32, 1)]
    ∀ x ∈ [(1, 0), (2, 0), (2, 1)],
      let s := run (sheafDev [sheaf1 x.1 x.2]) c
      Runs s 3 0x43 c ∧ c.only 1 [(16, 0, 32)] = true ∧ holds (s.dev.sheaf? 0 (c.at 16 4)) (fun y => y.st == x.1 && y.pins == x.2 && !s.dev.filled 0 y) = true := by
  decide +kernel

/-- Nothing of parts, turns or chains is in the way of SQ 3. -/
abbrev quiet (s : State) : Prop := calm s ∧ s.dev.turns = [] ∧ s.dev.chains = [] ∧ s.dev.memberBad group0 = none

theorem wit_PartsOfTurns_learn :
    let c := cmdOf 3 0x40 [(8, 8, 2), (128, 1, 1), (192, 32, 9), (224, 32, 100000), (256, 64, 101000000), (320, 64, 0x400000)]
    let s := run (sheafDev []) c
    quiet s ∧ s.dev.turnBusy 0 = false ∧ okay (s.dev.turnGroup c (c.at 40 8)) (fun x => x == (group0, 0)) = true
      ∧ s.dev.now + 1000 * c.at (if c.opcode = 0x40 then 28 else 24) 4 ≤ c.at 32 8 ∧ Runs s 3 0x40 c ∧ c.opcode = 0x40 ∧ c.bits 16 0 1 = 1
      ∧ c.only 2 [(16, 0, 1), (24, 0, 64), (32, 0, 128)] = true ∧ c.deadline = 0 ∧ c.at 28 4 = 100000 ∧ s.dev.part? 0 (c.at 24 4) = none := by decide +kernel

theorem wit_PartsOfTurns_switch :
    let c := cmdOf 3 0x42 [(128, 32, 1), (160, 32, 9), (192, 32, 1000), (256, 64, 2000000), (320, 64, 0x400000)]
    let s := run (sheafDev [sheaf1 2 0]) c
    quiet s ∧ s.dev.turnBusy 0 = false ∧ okay (s.dev.turnGroup c (c.at 40 8)) (fun x => x == (group0, 0)) = true
      ∧ s.dev.now + 1000 * c.at (if c.opcode = 0x40 then 28 else 24) 4 ≤ c.at 32 8 ∧ Runs s 3 0x42 c ∧ c.opcode = 0x42
      ∧ c.only 1 [(16, 0, 96), (32, 0, 128)] = true ∧ c.at 24 4 = 1000 ∧ holds (s.dev.sheaf? 0 (c.at 16 4)) (fun x => x.st == 2 && !x.aux) = true
      ∧ s.dev.part? 0 (c.at 20 4) = none := by decide +kernel

theorem wit_PartsOfTurns_generate :
    let c := cmdOf 3 0x40 [(8, 8, 2), (160, 32, 1), (192, 32, 9), (224, 32, 1000), (256, 64, 2000000), (320, 64, 0x400000), (384, 64, 0x400100), (448, 64, 0x100000)]
    let s := run (sheafDev []) c
    quiet s ∧ s.dev.turnBusy 0 = false ∧ okay (s.dev.turnGroup c (c.at 40 8)) (fun x => x == (group0, 0)) = true ∧ s.dev.now + 1000 * c.at 28 4 ≤ c.at 32 8
      ∧ Runs s 3 0x40 c ∧ c.opcode = 0x40 ∧ c.bits 16 0 1 = 0 ∧ c.only 2 [(16, 0, 1), (20, 0, 96), (32, 0, 448)] = true ∧ c.deadline = 0
      ∧ s.dev.part? 0 (c.at 24 4) = none ∧ okay (s.dev.openCheck 0 (c.at 20 4) (c.at 56 8) true) (fun _ => true) = true
      ∧ okay (s.dev.readTurnPlan 0 (c.at 48 8) 2) (fun p => holds p fun pl => s.dev.planFits 0 (c.at 56 8) 0 pl && pl.jobs.all (fun j => j.rank != 0)
          && pl.chains.all (fun e => e.2.head? != some 0) && pl.chains.any fun e => e.2.contains 0) = true := by decide +kernel

theorem wit_PartsOfTurns_chains :
    let b := cmdOf 3 0x33 [(8, 8, 2), (160, 32, 9), (192, 32, 2), (256, 64, 0x400000), (320, 64, 0x400200), (384, 64, 0x400300), (448, 64, 0x480000), (512, 64, 0x100000)]
    let f := cmdOf 3 0xB1 [(8, 8, 2), (128, 32, 9), (160, 32, 2), (192, 64, 0x400000), (256, 64, 0x400200), (320, 64, 0x400300)]
    let s := run (sheafDev []) b
    let u := run (sheafDev []) f
    (quiet s ∧ Runs s 3 0x33 b ∧ bitAt b.pkt 128 = false ∧ b.only 2 [(16, 0, 1), (20, 0, 64), (32, 0, 192), (64, 0, 64), (80, 0, 64), (56, 0, 64)] = true
        ∧ b.at 24 4 = 2 ∧ s.dev.part? 0 (b.at 20 4) = none ∧ okay (s.dev.readGroup 0 (b.at 32 8)) (fun g => g == some group0) = true
        ∧ s.dev.rankIn 0 group0 = some 0 ∧ s.dev.passed b = false ∧ b.at 80 8 = 0
        ∧ okay (s.dev.readChains 0 (b.at 40 8) (b.at 48 8) 2 2) (fun x => holds x fun cs => cs.length == 2 && cs.all (fun e => e.2.head? != some 0 || !e.1.headStores)
            && (((upFrom 0 2).zip cs).filterMap fun e => chainRun b e.1 0 (b.at 56 8) (b.at 64 8) e.2).all fun r => s.dev.refetchOf 0 0x33 r.dst r.bytes == none
              && !s.dev.outsideT1 0 (if r.pos = 0 then r.src else r.dst) r.bytes
              && s.dev.checkVa 0 (if r.pos = 0 then r.src else r.dst) r.bytes (r.pos != 0) == none) = true)
      ∧ quiet u ∧ Runs u 3 0xB1 f ∧ f.only 2 [(16, 0, 64), (24, 0, 192)] = true ∧ f.at 20 4 = 2 ∧ u.dev.part? 0 (f.at 16 4) = none
      ∧ okay (u.dev.readGroup 0 (f.at 24 8)) (fun g => g == some group0) = true ∧ u.dev.rankIn 0 group0 = some 0 ∧ u.dev.passed f = false
      ∧ okay (u.dev.readChains 0 (f.at 32 8) (f.at 40 8) 2 2) (fun x => holds x fun cs => cs.all (fun e => e.1.piece == 0 && !e.1.headStores
          && decide (e.1.srcOff + e.1.bytes ≤ stageSize) && decide (e.1.dstOff + e.1.bytes ≤ stageSize))
          && (((upFrom 0 2).zip cs).filterMap fun e => chainRun f e.1 0 0 0 e.2).any fun r => r.pos != 0) = true := by decide +kernel

/-! ## Witnesses: agreements, and chains -/

/-- A part of a TURN or SHEAF_SWITCH on SQ 3, of this rank, its agreement `u`, beside the state `d`. -/
def turnS (d : Dev) (op rank : Nat) (u : TurnSt) : State :=
  run { d with parts := [{ part0 op [] with rank := rank }], turns := [u] } (cmdOf 3 op [(8, 8, 2)])

/-- An agreement of SQ 3 on a switch at 2 ms, with a guard of 1 ms. -/
def turn0 (switch learn : Bool) : TurnSt := { sq := 3, order := 1, learn := learn, switch := switch, sheaf := 1, time := 2000000, guard := 1000, ready := true }

/-- What every clause on an agreement asks. -/
def agreeing (s : State) (op : Nat) (f : CollPart → TurnSt → Bool) : Bool :=
  match s.dev.parts, s.dev.turns with
  | [p], [u] => (op == 0x40 || op == 0x42) && p.opcode == op && (s.dev.parts.filter fun y => y.sq == p.sq || (y.bay == p.bay && y.tag == p.tag)) == [p]
      && (s.dev.turns.filter fun t => t.sq == p.sq) == [u] && u.order == p.order && s.dev.parts.all (fun y => y.opcode != 0x70)
      && holds (smFind s.dev.sqs p.sq) (fun x => holds x.run fun c => c.order == p.order && c.contribs == [] && !c.nan)
      && decide (2 ≤ p.group.length) && f p u
  | _, _ => false

theorem wit_AgreementOnASwitch :
    (up.acceptColl own 0).2 = true ∧ up.part? 1 4 = none
      ∧ (∀ x ∈ [(0x42, true, [0]), (0x40, false, [])], agreeing (turnS up x.1 0 { turn0 x.2.1 false with first := if x.2.2 = [] then none else some (1, 2000000, 0), readyRanks := x.2.2 }) x.1 fun p u =>
          u.decision == none && p.rank == 0 && !u.decided && decide (up.now ≤ u.cutoff)
            && ((if u.readyRanks.contains 1 then u.readyRanks else u.readyRanks ++ [1]).length == p.group.length) == (x.2.2 == [0]))
      ∧ agreeing (turnS { up with now := 1000000 } 0x42 0 { turn0 true false with time := 1500000, guard := 1000 }) 0x42 (fun p u =>
          p.rank == 0 && u.decision == none && !u.decided && decide (u.cutoff ≤ 1000000))
      ∧ agreeing (turnS { up with now := 3000000 } 0x42 1 (turn0 true false)) 0x42 (fun _ u =>
          u.decision == none && decide (u.time + 1000 * u.guard + u.paused ≤ 3000000)) := by decide +kernel

theorem wit_SwitchesAct :
    let u (switch learn : Bool) : TurnSt := { turn0 switch learn with decision := some (true, 0, 1900000) }
    let at_ (d : Dev) : Dev := { d with now := 2000000 }
    (∀ pins ∈ [0, 1], agreeing (turnS (at_ (sheafDev [sheaf1 2 0, { sheaf1 3 pins with id := 2, regionVa := 0x400000 }])) 0x42 0 (u true false)) 0x42 fun p t =>
        let s := turnS (at_ (sheafDev [sheaf1 2 0, { sheaf1 3 pins with id := 2, regionVa := 0x400000 }])) 0x42 0 (u true false)
        t.acted == none && decide (alignUp (max t.time 1900000) 4 ≤ s.dev.now) && s.dev.enginesRun && t.switch && !t.learn
          && holds (s.dev.sheaf? p.bay t.sheaf) (fun y => y.st == 2 && !y.aux)
          && holds (s.dev.currentSheaf p.bay) fun o => o.id != t.sheaf && s.dev.sheaf? p.bay o.id == some o && o.pins == pins)
      ∧ agreeing (turnS (at_ up) 0x40 0 (u false true)) 0x40 (fun p t => t.acted == none && decide (alignUp (max t.time 1900000) 4 ≤ 2000000)
          && (at_ up).enginesRun && !t.switch && t.learn && p.bay == 0 && (at_ up).fd .thatchArraySts 0 0 2 != 2 && !(at_ up).rbit .thatchArraySts 0 2
          && !(at_ up).rbit .thatchArraySts 0 3)
      ∧ (let p : CollPart := { part0 0x40 [] with bay := 1 }
         let c : Cmd := { cmdOf 3 0x40 [] with bay := 1 }
         let s := run { at_ up with parts := [p], turns := [u false true] } c
         (s.dev.parts.filter fun y => y.sq == p.sq) = [p] ∧ p.bay ≠ 0 ∧ s.dev.rbit .bayId 1 6 = false ∧ c.order = p.order) := by decide +kernel

/-- A part of CHAIN_BROADCAST on SQ 3 with the chain `x` of 1 + n bytes to VA 0x400000, and `d` beside it. -/
def chainS (d : Dev) (x : ChainRun) : State :=
  run { d with parts := [part0 0x33 [{ kind := 4, range := x.idx }]], chains := [x] } (cmdOf 3 0x33 [(8, 8, 2)])
def chain0 (pos bytes : Nat) : ChainRun :=
  { sq := 3, order := 1, idx := 0, piece := 0, members := [0, 1], pos := pos, stores := pos != 0, src := 0x100000, dst := 0x400000, bytes := bytes }

/-- What every clause on a chain asks. -/
def chaining (s : State) (x : ChainRun) (f : CollPart → Bool) : Bool :=
  s.dev.enginesRun && s.dev.collIn == [] && (s.dev.acceptColl own 3).2 && (s.dev.chains.filter fun y => y.sq == 3) == [x] && x.sq == 3
    && match s.dev.parts with
      | [p] => p.opcode == 0x33 && (s.dev.parts.filter fun y => y.sq == p.sq || (y.bay == p.bay && y.tag == p.tag)) == [p] && p.sq == 3 && x.order == p.order && f p
      | _ => false

theorem wit_ChainsTravel_last :
    let x := { chain0 1 3 with tries := 1 }
    let s := chainS up x
    let d2 := (((s.dev.acceptColl own 3).1.writeVa 0 x.dst (toLe 3 0x010203)).1)
    chaining s x fun p => x.pos != 0 && x.next == 0 && s.dev.refetchOf p.bay 0x33 x.dst x.bytes == none && x.len 0 == 3 && decide (x.tries < 2) && x.chunks == 1
      && ((s.dev.acceptColl own 3).1.writeVa p.bay x.dst (toLe 3 0x010203)).2 == none && d2.refetchOf p.bay 0x33 x.dst x.bytes == none && x.crcVa == none
      && okay (d2.readVa p.bay x.dst 3) (fun bs => bs == toLe 3 0x010203) && okay (d2.readVa p.bay x.dst x.bytes) fun _ => true := by decide +kernel

theorem wit_ChainsTravel_resend :
    ∀ pos ∈ [0, 1],
      let x := chain0 pos 3
      let s := chainS up x
      chaining s x fun p => x.kept == [] && okay (s.dev.readVa p.bay (if pos = 0 then x.src else x.dst) (x.len 0)) fun _ => true := by decide +kernel

theorem wit_ChainsTravel_network :
    let x := { chain0 0 (chunkBytes + 1) with conn := some 63, bufLen := 5 }
    let s := chainS { up with fab := { up.fab with conns := [(63, { st := 2 })] } } x
    chaining s x fun p => (s.dev.conn 63).st == 2 && decide (x.next < x.chunks) && decide (5 + 1 < x.len x.next) && !x.stores && decide (x.next + 1 < x.chunks)
      && x.bufLen + (chunkBytes - 5) == x.len x.next && (s.dev.chains.filter fun y => y.conn == some 63) == [x] && p.waits.contains { kind := 4, range := x.idx }
      && holds (smFind s.dev.sqs p.sq) fun z => holds z.run fun c => c.order == p.order && c.contribs == [] := by decide +kernel

/-! ## Witness: a whole chunk. Zeros written where memory reads as zero change nothing, so 4 MiB need not be computed. -/

/-- `up` with object 2 of 6 MiB. -/
def big : Dev :=
  { up with objs := [{ bay := 0, id := 2, size := 0x600000, small := false, home := 1, backing := 0, pool := false, pin := false, underlay := false, exportMode := 0
                       key := 0, locs := [{ tier := 1, frames := [0x200000, 0x400000, 0x600000] }] }]
            bays := { maps := [{ va := 0x400000, bytes := 0x600000, objBay := 0, objId := 2, off := 0, write := true, prefetch := false, small := false }] }
              :: List.replicate 15 {} }

/-- A piece of a T1 object that may be written. -/
def plain (d : Dev) (p : Piece) : Bool :=
  p.peer == none && okay (d.pieceWritable 0 p) (fun _ => true) && !d.pieceCut p && holds (d.obj? p.objBay p.objId) fun o => (o.phys p.off).isSome

theorem smSet_zero_nil (a : Nat) : smSet (0 : Byte) [] a 0 = [] := by simp [smSet, smDel]

theorem foldl_zero (bad : Nat × Byte → Bool) (a : Nat) : ∀ l : List (Nat × Byte), (∀ e ∈ l, e.2 = 0) →
    l.foldl (fun m e => if bad e = true then m else smSet (0 : Byte) m (a + e.1) e.2) [] = []
  | [], _ => rfl
  | e :: r, h => by
    have he : e.2 = 0 := h e (by simp)
    have ih := foldl_zero bad a r fun x hx => h x (by simp [hx])
    simp only [List.foldl_cons, he, smSet_zero_nil, ite_self]
    exact ih

theorem readBytes_nil : ∀ (n a : Nat), readBytes [] a n = List.replicate n 0
  | 0, _ => rfl
  | n + 1, a => by simp [readBytes, smGet, smFind, List.replicate_succ, readBytes_nil n]

theorem toLe_zero : ∀ n : Nat, toLe n 0 = List.replicate n 0
  | 0 => rfl
  | n + 1 => by simp [toLe, List.replicate_succ, toLe_zero n]

theorem writePiece_zero {d : Dev} {p : Piece} {bs : List Byte} (hp : plain d p = true) (hb : ∀ b ∈ bs, b = 0) (hm : d.hbm = []) (hx : d.hbmBad = [])
    (hu : d.ulPages = []) (ho : ∀ o ∈ d.objs, o.backing = 0 ∧ o.place = none) : d.writePiece p bs = d := by
  simp only [plain, Bool.and_eq_true, beq_iff_eq] at hp
  obtain ⟨⟨⟨hpeer, -⟩, -⟩, hobj⟩ := hp
  have hz : ∀ e ∈ (upFrom 0 bs.length).zip bs, e.2 = (0 : Byte) := fun e he => hb _ (List.of_mem_zip he).2
  have hmap : d.objs.map (fun o => o) = d.objs := List.map_id' _
  cases h : d.obj? p.objBay p.objId with
  | none => rw [h] at hobj; cases hobj
  | some o =>
    rw [h] at hobj
    cases ha : o.phys p.off with
    | none => simp [holds, ha] at hobj
    | some a =>
      have hf : d.firstTouch o p.off bs.length = d := by simp [Dev.firstTouch, hu]
      have hd : ∀ q : Obj, q ∈ d.objs → (if (q.bay == o.bay && q.id == o.id) = true then q.dirtied p.off bs.length else q) = q := by
        intro q hq
        have := ho q hq
        simp [Obj.dirtied, this.1, this.2]
      have ho2 : d.objs.map (fun q => if (q.bay == o.bay && q.id == o.id) = true then q.dirtied p.off bs.length else q) = d.objs := by
        conv => rhs; rw [← List.map_id d.objs]
        exact List.map_congr_left hd
      simp only [Dev.writePiece, hpeer, h, hf, ha, Dev.modObj, ho2, hx, hm, List.filter_nil]
      rw [foldl_zero (fun e => List.any [] fun x : Nat × Unit => x.1 == (a + e.1) / 64) a _ hz]
      conv => lhs; rw [← hm, ← hx]

theorem writePieces_zero {d : Dev} (hm : d.hbm = []) (hx : d.hbmBad = []) (hu : d.ulPages = []) (ho : ∀ o ∈ d.objs, o.backing = 0 ∧ o.place = none) :
    ∀ (ps : List (Option Piece)) (bs : List Byte), (ps.all fun p => p.any (plain d)) = true → (∀ b ∈ bs, b = 0) → writePieces d 0 ps bs = (d, none)
  | [], _, _, _ => rfl
  | none :: _, _, h, _ => by simp at h
  | some p :: r, bs, h, hb => by
    simp only [List.all_cons, Option.any_some, Bool.and_eq_true] at h
    have ht := writePiece_zero (bs := bs.take p.len) h.1 (fun b hb' => hb b (List.mem_of_mem_take hb')) hm hx hu ho
    have hp := h.1
    simp only [plain, Bool.and_eq_true] at hp
    obtain ⟨⟨⟨-, hw⟩, hc⟩, -⟩ := hp
    cases hk : d.pieceWritable 0 p with
    | error e => rw [hk] at hw; cases hw
    | ok u =>
      simp only [writePieces, hk, ht, Bool.not_eq_true'] at hc ⊢
      simp only [hc, Bool.false_eq_true, if_false]
      exact writePieces_zero hm hx hu ho r _ h.2 fun b hb' => hb b (List.mem_of_mem_drop hb')

theorem readPieces_zero {d : Dev} (hm : d.hbm = []) (hx : d.hbmBad = []) : ∀ ps : List (Option Piece), (ps.all fun p => p.any (plain d)) = true →
    readPieces d ps = (List.replicate ((ps.map fun p => (p.map (·.len)).getD 0).sum) 0, none)
  | [], _ => rfl
  | none :: _, h => by simp at h
  | some p :: r, h => by
    simp only [List.all_cons, Option.any_some, Bool.and_eq_true] at h
    have ih := readPieces_zero hm hx r h.2
    have hp := h.1
    simp only [plain, Bool.and_eq_true, beq_iff_eq] at hp
    obtain ⟨⟨⟨hpeer, -⟩, -⟩, hobj⟩ := hp
    cases ho : d.obj? p.objBay p.objId with
    | none => rw [ho] at hobj; cases hobj
    | some o =>
      rw [ho] at hobj
      cases ha : o.phys p.off with
      | none => simp [holds, ha] at hobj
      | some a =>
        have hr : d.readPiece p = .ok (List.replicate p.len 0) := by
          simp [Dev.readPiece, hpeer, ho, ha, Dev.objErr, hx, hm, readBytes_nil]
        simp only [readPieces, hr, ih, List.map_cons, Option.map_some, Option.getD_some, List.sum_cons, List.replicate_append_replicate]

theorem wit_ChainsTravel_chunk :
    let x := chain0 1 (chunkBytes + 1)
    let s := chainS big x
    let d1 := (s.dev.acceptColl own 3).1
    chaining s x (fun p => x.pos != 0 && x.next == 0 && s.dev.refetchOf p.bay 0x33 x.dst x.bytes == none && x.len 0 == chunkBytes && decide (0 + 1 < x.chunks)) = true
      ∧ d1.writeVa 0 (x.dst + 0 * chunkBytes) (toLe chunkBytes 0) = (d1, none)
      ∧ d1.readVa 0 (x.dst + 0 * chunkBytes) chunkBytes = .ok (toLe chunkBytes 0) ∧ d1.refetchOf 0 0x33 x.dst x.bytes = none := by
  intro x s d1
  have hp : (d1.pieces 0 (x.dst + 0 * chunkBytes) chunkBytes).all (fun p => p.any (plain d1)) = true := by decide +kernel
  have hl : (toLe chunkBytes 0).length = chunkBytes := by rw [toLe_zero, List.length_replicate]
  have ho : ∀ o ∈ d1.objs, o.backing = 0 ∧ o.place = none := by decide +kernel
  refine ⟨by decide +kernel, ?_, ?_, by decide +kernel⟩
  · rw [Dev.writeVa, hl]
    exact writePieces_zero (by decide +kernel) (by decide +kernel) (by decide +kernel) ho _ _ hp (by rw [toLe_zero]; simp)
  · rw [Dev.readVa, readPieces_zero (by decide +kernel) (by decide +kernel) _ hp, toLe_zero]
    have hs : ((d1.pieces 0 (x.dst + 0 * chunkBytes) chunkBytes).map fun p => (p.map (·.len)).getD 0).sum = chunkBytes := by decide +kernel
    rw [hs]

/-! ## Witnesses: objects, mappings and peers' memory -/

/-- `up` with 1 MiB of T3 and with these attributes of object 1. -/
def objDev (f : Obj → Obj) : Dev := { regs up [(.tierT3Bytes, 0, 0x1000000)] with objs := up.objs.map fun o => if o.small then f o else o }

theorem wit_ObjectCommands_create :
    ∀ x ∈ [(1, 0, 1, 0x40, 0, 0, 0x10000), (1, 3, 1, 0x80, 2, 9, 0x200000), (3, 0, 0, 0, 0, 0, 0x200000)],
      let c := cmdOf 3 0x60 ([(136, 8, x.1 + 8 * x.2.1 + x.2.2.2.1), (145, 2, x.2.2.2.2.1), (192, 40, 2 ^ 40 - 1), (256, 64, x.2.2.2.2.2.2), (320, 32, x.2.2.2.2.2.1)]
        ++ if x.1 = 1 then [(152, 5, 31), (160, 4, 15), (144, 1, x.2.2.1)] else [])
      let s := run (objDev id) c
      let tier := c.bits 17 0 3
      let bk := c.bits 17 3 3
      let page := if bitAt c.pkt (136 + 6) then 0x10000 else 0x200000
      Runs s 3 0x60 c ∧ c.trapped = false ∧ c.bits 16 0 2 = 0
        ∧ c.only 1 ([(16, 0, 2), (17, 0, 8), (18, 0, 3), (24, 0, 40), (32, 0, 64), (40, 0, 32)] ++ (if tier = 1 then [(19, 0, 5), (20, 0, 4)] else [])) = true
        ∧ (tier = 1 ∨ (tier = 3 ∧ bitAt c.pkt 144 = false ∧ c.bits 18 1 2 = 0)) ∧ backingOk tier bk = true ∧ c.bits 18 1 2 ≠ 3 ∧ (c.bits 18 1 2 ≠ 0 ↔ c.at 40 4 ≠ 0)
        ∧ c.at 24 8 ≠ 0 ∧ c.at 32 8 % page = 0 ∧ page ≤ c.at 32 8 ∧ c.at 32 8 ≤ 2 ^ 40 ∧ s.dev.obj? 0 (c.at 24 8) = none
        ∧ s.dev.tierShut tier (c.at 32 8 / page) (c.bits 19 0 5) (c.bits 20 0 4) = false ∧ (bk = 0 ∨ s.dev.tierShut bk 0 0 0 = false)
        ∧ holds (s.dev.classify 0 tier (c.at 32 8) 0 0 (bitAt c.pkt (136 + 7)) (bk != 0)) (fun (k : Bool × Nat) =>
            holds (if k.2 = 0 then some [] else s.dev.victims tier k.2 c.order []) fun vs => (evictAll s.dev vs).2) = true
        ∧ (tier = 1 → (s.dev.frames page (c.at 32 8 / page) (c.bits 19 0 5) (c.bits 20 0 4) 0x400000).isSome = true) := by decide +kernel

theorem wit_ObjectCommands_destroy_query :
    let del := cmdOf 3 0x60 [(128, 2, 1), (192, 40, 2)]
    let qry (clr : Nat) := cmdOf 3 0x60 [(128, 2, 2), (130, 1, clr), (192, 40, 1), (384, 48, 0x400000)]
    let s := run up del
    holds (s.dev.obj? 0 (del.at 24 8)) (fun o => decide (Runs s 3 0x60 del) && del.bits 16 0 2 == 1 && del.objOnly false && !s.dev.isHeld o del.order && o.place == none) = true
      ∧ ∀ k ∈ [0, 1], holds ((run up (qry k)).dev.obj? 0 ((qry k).at 24 8)) (fun o => decide (Runs (run up (qry k)) 3 0x60 (qry k)) && (qry k).bits 16 0 2 == 2 && (qry k).objOnly true
          && (run up (qry k)).dev.checkVa 0 ((qry k).at 48 8) 64 true == none
          && ((run up (qry k)).dev.writeVa 0 ((qry k).at 48 8) (toLe 64 ((run up (qry k)).dev.objRecord o (qry k).order))).2 == none) = true := by decide +kernel

theorem wit_ObjectCommands_flush :
    ∀ n ∈ [0, 0x10000],
      let c := cmdOf 3 0x62 [(192, 40, 1), (320, 64, n)]
      let s := run (objDev fun o => { o with backing := 3, dirty := [(0, ())] }) c
      holds (s.dev.obj? 0 (c.at 24 8)) (fun o => decide (Runs s 3 0x62 c) && s.dev.enginesRun && c.only 1 [(24, 0, 40), (32, 0, 64), (40, 0, 64)] && o.backing != 0
        && c.at 32 8 % 0x10000 == 0 && o.size == 0x10000 && c.at 32 8 == 0 && (o.dirty.map (·.1)) == [0] && s.dev.objErr o 0 0x10000 == none && s.dev.flashErr o [0] == none) = true := by
  decide +kernel

/-- OBJ_PLACE of object 1 with the tier and backing `tb`, in one tile or in tiles of 64 KiB. -/
def placeC (tb : Nat) (tiled : Bool) : Cmd :=
  cmdOf 3 0x61 ([(128, 6, tb), (192, 40, 1), (256, 32, 4095)] ++ if tiled then [(134, 1, 1), (136, 5, 16)] else [])

theorem wit_PlacementsOfObjects_begin :
    ∀ x ∈ [(1, false, 0), (3, true, 0), (3, false, 1)],
      let c := placeC x.1 x.2.1
      let s := run (objDev fun o => if x.2.2 = 1 then { o with home := 3, locs := [{ tier := 3 }] } else o) c
      let d := { s.dev with sqs := s.dev.sqs.map fun e => (e.1, { e.2 with ring := 0x900000, headAddr := 0x900000 }), cqs := s.dev.cqs.map fun e => (e.1, { e.2 with ring := 0x900000 }) }
      let first := c.bits 19 0 5
      let run := c.bits 20 0 4
      holds (d.obj? 0 (c.at 24 8)) (fun o => d.running? 3 0x61 == some c && o.place == none
        && c.only 1 ([(16, 0, 7), (17, 0, 5), (18, 0, 2), (24, 0, 40), (32, 0, 32)] ++ (if x.1 = 1 then [(19, 0, 5), (20, 0, 4)] else []))
        && backingOk (c.bits 16 0 3) (c.bits 16 3 3) && c.bits 18 0 2 != 3 && decide (c.at 32 4 < 4096) && (if x.2.1 then c.bits 17 0 5 == 16 else c.bits 17 0 5 == 0 && decide (o.size ≤ 0x10000000))
        && (!(o.home == 1 && x.1 != 1) || (!d.isHeld o c.order && !o.underlay)) && (!(o.home == 3 && x.1 != 3) || !d.heldRing o) && d.ulPages == []
        && !d.tierShut x.1 o.pages first run
        && holds (d.classify 0 x.1 o.size (if o.home = x.1 ∧ o.pool = false then o.size else 0) (if o.home = x.1 ∧ o.pool = true then o.size else 0) o.pin (c.bits 16 3 3 != 0))
            (fun (k : Bool × Nat) => holds (if k.2 = 0 then some [] else d.victims x.1 k.2 c.order [(o.bay, o.id)]) fun vs =>
              (evictAll d vs).2 && (evictAll d vs).1.objs.any fun y => y.bay == o.bay && y.id == o.id)
        && o.tileAt == [] && o.size % 0x10000 == 0 && o.size != 0
        && match o.locs with
          | [l] => l.is x.1 first run == (!x.2.1)
          | _ => false) = true := by decide +kernel

theorem wit_PlacementsOfObjects_tile :
    ∀ left ∈ [[0, 1], [1]],
      let p : PlaceRun := { sq := 3, tileBytes := 0x10000, target := 1, total := 2, left := left, moved := 2 - left.length, event := 4095, tier := 3, backing := 0
                            pool := false, pin := false, intoBacking := false, keepClean := false }
      let c := placeC 3 true
      let s := run (objDev fun o => { o with size := 0x20000, locs := [{ tier := 1, frames := [0, 0x10000] }, { tier := 3 }], place := some p }) c
      holds (s.dev.obj? 0 (c.at 24 8)) (fun o => decide (Runs s 3 0x61 c) && o.place == some p && p.left.contains 1 && s.dev.enginesRun
        && p.flashReads o 1 ++ p.flashWrites o 1 == [] && !s.dev.nvmeBusy (.tile 3 c.order 1) && s.dev.dirtyErr o (p.granulesOf o 1) == none) = true := by decide +kernel

theorem wit_MappingsAreMadeAndRemoved_map :
    let c := cmdOf 3 0x63 [(128, 2, 3), (192, 48, 2 ^ 48 - 0x10000), (256, 40, 1), (384, 64, 0x10000)]
    let s := run up c
    Runs s 3 0x63 c ∧ bitAt c.pkt 130 = false ∧ c.mapOnly false = true ∧ holds (s.dev.obj? 0 (c.at 32 8)) (fun o => s.dev.mapOk c o.pageSize o.size) = true := by decide +kernel

theorem wit_MappingsAreMadeAndRemoved_remote :
    ∀ x ∈ [(0, 1, 9), (1, 2, 9), (0, 0, 9), (1, 1, 9), (0, 1, 8)],
      let c := cmdOf 3 0x63 [(128, 1, x.1), (130, 1, 1), (144, 15, 5), (160, 32, 9), (192, 48, 0x800000), (256, 40, 7), (384, 64, 0x200000)]
      let o : Obj := { bay := 0, id := 7, size := 0x200000, small := false, home := 1, backing := 0, pool := false, pin := false, underlay := false, exportMode := x.2.1
                       key := x.2.2, locs := [{ tier := 1, frames := [0] }] }
      let s := run up c
      Runs s 3 0x63 c ∧ bitAt c.pkt 130 = true ∧ c.mapOnly true = true ∧ s.dev.ready = true ∧ s.dev.mapOk c 0x200000 o.size = true
        ∧ (if x = (0, 1, 9) ∨ x = (1, 2, 9) then o.exportMode ≠ 0 ∧ o.key = c.at 20 4 ∧ (bitAt c.pkt 128 = true → o.exportMode = 2)
              ∧ s.dev.t2Mapped 0 + c.at 48 8 ≤ s.dev.quota 0 2
            else o.exportMode = 0 ∨ o.key ≠ c.at 20 4 ∨ (bitAt c.pkt 128 = true ∧ o.exportMode ≠ 2)) := by decide +kernel

theorem wit_MappingsAreMadeAndRemoved_unmap :
    ∀ va ∈ [0x400000, 2 ^ 48 - 0x200000],
      let c := cmdOf 3 0x64 [(192, 64, va), (256, 64, 0x200000)]
      let s := run up c
      Runs s 3 0x64 c ∧ c.only 1 [(24, 0, 64), (32, 0, 64)] = true ∧ c.at 24 8 % 0x10000 = 0 ∧ c.at 32 8 % 0x10000 = 0 ∧ c.at 24 8 + c.at 32 8 ≤ 2 ^ 48
        ∧ (s.dev.bay 0).maps.all (fun m => m.small || [c.at 24 8, c.at 24 8 + c.at 32 8].all fun x => !(decide (m.va < x) && decide (x < m.va + m.bytes))
            || (x - m.va) % 0x200000 == 0) = true ∧ s.dev.readOnly 0 (c.at 24 8) (c.at 32 8) = false
        ∧ (s.dev.runningAll.any fun x => x.bay == c.bay && decide (x.order < c.order) && x.uses.any fun r => overlap (c.at 24 8) (c.at 32 8) r.1 r.2) = false := by
  decide +kernel

/-- Port 0 is UP, and module 5 is a LIVE peer of INCARNATION 7. -/
def linked (d : Dev) : Dev :=
  { d.sf .reedlinePortSts 0 0 2 2 with fab := { d.fab with peers := [{ dev := 5, st := 1, inc := 7, level := 1, direct := true }] } }

/-- A frame of module 5. -/
def from5 (seq : Nat) : FrameHdr := { port := 0, src := 5, inc := 7, seq := seq }

theorem wit_PeerMemory :
    let d (m : Nat) : Dev := { linked up with objs := up.objs.map fun o => if o.small then { o with exportMode := m, key := 9 } else o }
    (∀ m ∈ [1, 2], ((d m).accept (from5 0) 1).2 = true ∧ (d m).held = false
        ∧ holds ((d m).obj? 0 1) (fun o => o.exportMode == m && o.key == 9
          && let ps := cutPieces [{ va := 0, bytes := o.size, objBay := o.bay, objId := o.id, off := 0, write := true, prefetch := false, small := o.small }] (64 / 0x10000 + 2) (o.size - 64) 64
            ps.length == 1 && ps.all fun p => p.any fun p => !(d m).pieceCut p && !(d m).objShut p.objBay p.objId p.off p.len && (readPieces (d m) ps).2 == none) = true)
      ∧ (let h := (d 1).wr .purlinHoldSts 0 1
         (h.accept (from5 0) 1).2 = true ∧ h.held = true)
      ∧ ((d 1).accept (from5 0) 2).2 = true := by decide +kernel

/-! ## Witnesses: bays, functions, power -/

/-- `up` with room for a second bay beside bay 0. -/
def bayDev : Dev := regs up [(.baySqCount, 0, 1000), (.bayCqCount, 0, 1000), (.pfstatGrant, 0, 0), (.bayServeLimit, 0, 1000), (.bayPrefixLimit, 0, 1000)
  , (.bayQuotaT3, 0, 0), (.bayQuotaT4, 0, 0)]

theorem wit_BayCommands_set :
    ∀ w ∈ [1, 255],
      let c := cmdOf 3 0xA0 [(8, 8, 2), (136, 4, 15), (144, 3, 3), (152, 8, w), (160, 32, 262134), (192, 32, 10), (224, 32, 65526), (256, 32, 10), (288, 32, 0x01370157), (320, 32, 5)
        , (352, 32, 5), (384, 64, 0x200000)]
      let s := run bayDev c
      Runs s 3 0xA0 c ∧ c.bits 16 0 2 = 0 ∧ c.bayOnly 0 = true ∧ s.dev.setOk c.baySet = true ∧ s.dev.setFits c.baySet = true
        ∧ (s.dev.rbit .bayId (c.bits 17 0 4) 4 = true → c.baySet.enable = true) ∧ ((s.dev.runningIn (c.bits 17 0 4)).any fun y => y.order != c.order) = false
        ∧ (s.dev.setQuotas c.order c.baySet).isSome = true ∧ s.dev.bays.length = 16 := by decide +kernel

/-- SQ 20 of bay 15 runs a command. -/
def busy15 (s : State) : State :=
  { s with dev := { s.dev with sqs := s.dev.sqs ++ [(20, { bay := 15, admin := false, ring := 0, log2 := 4, headAddr := 0, cq := 7, run := some { cmdOf 20 0x03 [(192, 64, 9)] with bay := 15, order := 2 } })] } }

theorem wit_BayCommands_reset :
    let c := cmdOf 3 0xA0 [(8, 8, 2), (128, 2, 1), (136, 4, 15)]
    let s := run up c
    Runs s 3 0xA0 c ∧ c.bits 16 0 2 = 1 ∧ c.bayOnly 1 = true ∧ c.bits 17 0 4 = 15
      ∧ holds (smFind s.dev.sqs 3) (fun x => x.bay != 15 && (smFind s.dev.cqs x.cq).all fun k => k.bay != 15) = true
      ∧ (s.dev.resetBegin 15).resetReady 15 c.order = true ∧ Runs (busy15 s) 3 0xA0 c ∧ ((busy15 s).dev.resetBegin 15).resetReady 15 c.order = false := by decide +kernel

theorem wit_BayCommands_bases :
    let c (op : Nat) := cmdOf 3 0xA0 [(8, 8, 2), (128, 2, op), (136, 4, 15), (640, 32, 1)]
    let g := run (sheafDev [sheaf1 2 0xFFFFFFFE]) (c 2)
    let r := run { sheafDev [sheaf1 2 1] with baseGrants := [(1, 15)] } (c 3)
    (Runs g 3 0xA0 (c 2) ∧ (c 2).bits 16 0 2 = 2 ∧ (c 2).bayOnly 2 = true ∧ holds (g.dev.sheaf? 0 ((c 2).at 80 4)) (fun y => !y.delta && decide (2 ≤ y.st ∧ y.st ≤ 4 ∧ y.pins < 0xFFFFFFFF)
        && !((g.dev.bay 15).maps.any fun m => overlap m.va m.bytes y.regionVa y.regionBytes)) = true)
      ∧ Runs r 3 0xA0 (c 3) ∧ (c 3).bits 16 0 2 = 3 ∧ (c 3).bayOnly 3 = true ∧ (r.dev.sheaf? 0 ((c 3).at 80 4)).isSome = true ∧ r.dev.baseGrants.contains ((c 3).at 80 4, 15) = true
      ∧ ((r.dev.bay 15).sheaves.any fun z => z.delta && z.baseBay == 0 && z.base == (c 3).at 80 4) = false := by decide +kernel

theorem wit_FunctionsOfTheHost :
    let s : State := { dev := up }
    let t := busy15 s
    s.dev.bays.length = 16 ∧ s.dev.linkUp = true ∧ s.dev.host.vfOff = false ∧ t.dev.host.vfOff = false ∧ (∀ y < 16, (s.dev.bay y).resetting = false)
      ∧ (∀ b ∈ [1, 15], (s.dev.resetBegin b).configResets b = false ∧ (s.dev.resetBegin b).resetReady b (2 ^ 64) = true)
      ∧ t.dev.linkUp = true ∧ (∀ y < 16, (t.dev.bay y).resetting = false) ∧ (t.dev.resetBegin 15).configResets 15 = false
      ∧ (t.dev.resetBegin 15).resetReady 15 (2 ^ 64) = false := by decide +kernel

theorem wit_LimitCommands_set :
    ∀ x ∈ [(0, 0), (500, 1600), (1500, 4800)],
      let c := cmdOf 3 0x82 [(130, 1, 1), (160, 16, x.1), (176, 16, x.2)]
      let s := run up c
      let clock := if c.at 20 2 = 0 then s.lim.recClock else c.at 20 2
      let power := if c.at 22 2 = 0 then s.lim.recPower else c.at 22 2
      Runs s 3 0x82 c ∧ c.nan = false ∧ c.contribs = [] ∧ s.dev.collIn = [] ∧ s.dev.runningAll.all (fun y => y.sq != 3 || y == c) = true ∧ c.bits 16 0 2 = 0
        ∧ c.only 1 [(16, 0, 3), (20, 0, 32)] = true ∧ clock % 50 = 0 ∧ 500 ≤ clock ∧ clock ≤ s.lim.recClock ∧ 1600 ≤ power ∧ power ≤ s.lim.recPower := by decide +kernel

theorem wit_LimitCommands_sarking :
    ∀ x ∈ [(1, 0, true), (2, 2, true), (2, 2 + 2 ^ 10, false)],
      let c := cmdOf 3 0x82 [(128, 2, x.1)]
      let s := run (regs up [(.powerSts, 0, x.2.1)]) c
      Runs s 3 0x82 c ∧ s.dev.collIn = [] ∧ s.dev.runningAll.all (fun y => y.sq != 3 || y == c) = true ∧ c.bits 16 0 2 = x.1 ∧ c.only 1 [(16, 0, 2)] = true
        ∧ s.dev.sarking = (x.1 == 2) ∧ s.dev.exitAllowed = x.2.2 := by decide +kernel

/-- `up` in power hold since 1 ms, with a resume count. -/
def holding (now : Nat) (resume : Option Nat) : Dev := { regs up [(.powerSts, 0, 1)] with now := now, pow := { up.pow with holdAt := 1000000, resumeAt := resume } }

theorem wit_SupplyFallsAndResumes :
    (up.powerState = 0 ∧ up.pgood = true) ∧ (holding 1000000 none).powerHold = true
      ∧ (∀ x ∈ [(4000000, 2000000), (501000000, 499000000)], (holding x.1 (some x.2)).powerHold = true ∧ (holding x.1 (some x.2)).resumeDue = true
          ∧ (holding x.1 (some x.2)).bar4 = [] ∧ (holding x.1 (some x.2)).collIn = [])
      ∧ (holding 501000000 (some 499000000)).pow.holdAt + 500000000 ≤ 501000000
      ∧ (holding 501000000 (some 499000004)).powerHold = true ∧ (holding 501000000 (some 499000004)).resumeDue = false := by decide +kernel

theorem wit_GovernorMovesTheClock :
    let s (l : Limits) (p : PowerSt) : State := { lim := l, dev := { regs up [(.bringStepDone, 0, 0x1FFE)] with pow := p } }
    (s lim0 {}).dev.governs = true
      ∧ (∀ x ∈ [(900000, true), (900004, false)],
         let q := s { lim0 with clock := 1490 } { belowSince := some x.1 }
         q.dev.governs = true ∧ q.dev.sarking = false ∧ q.dev.pow.belowSince = some x.1 ∧ decide (x.1 + 100000 ≤ q.dev.now) = x.2 ∧ q.dev.pow.steps = 0
           ∧ q.lim.clock < q.lim.clockLimit)
      ∧ (let q := s lim0 { elec := List.replicate 2000 900000 }
         2000 ≤ (q.dev.pow.elec.filter fun x => decide (q.dev.now < x + 100000000)).length)
      ∧ (s lim0 {}).dev.pow.credit = 0 ∧ (s lim0 {}).lim.capacity ≠ 0 ∧ (s lim0 {}).dev.rbit .powerSts 0 4 = false := by decide +kernel

theorem wit_HeatThrottlesAndTrips :
    let s (n : Nat) : State := { lim := lim0, dev := regs up [(.powerTemp, 0, n)] }
    let hot : State := { dev := { up with now := 10000000000, pow := { up.pow with inletSince := some 0 } } }
    (s 0).dev.governs = true ∧ (s 0).dev.sarking = false ∧ 550 ≤ (s 0).lim.clock ∧ (s 0).dev.pow.steps = 0
      ∧ (hot.dev.governs = true ∧ hot.dev.pow.inletSince = some 0 ∧ 0 + 10000000000 ≤ hot.dev.now)
      ∧ (let t := s (169 + 159 * 256 + 80 * 65536)
         HostUp t [0] ∧ t.dev.fd .powerTemp 0 0 8 < 170 ∧ t.dev.fd .powerTemp 0 8 8 < 160 ∧ t.dev.fd .powerTemp 0 16 8 ≤ 80) := by decide +kernel

/-! ## Witnesses: the fabric -/

/-- `linked` with port 17 in a state and as given, and registers. -/
def fab17 (st : Nat) (x : RPort) (l : List (Reg × Nat × Nat)) : Dev :=
  let d := regs (linked up) ([(.reedlinePortSts, 17, st), (.reedlinePortCtrl, 17, 1)] ++ l)
  { d with fab := { d.fab with ports := [(17, x)] } }

theorem wit_PortsAndConnections_ports :
    (∀ st ∈ [0, 1], let d := fab17 st { lock := 0x0F } []
        d.portState 17 ≤ 1 ∧ d.rbit .reedlinePortCtrl 17 0 = true ∧ d.fabricStarted = true ∧ 4 ≤ popCount 8 (d.rport 17).lock)
      ∧ (∀ st ∈ [2, 3], ∀ x ∈ [{ lock := 0xFF, lastFlit := 999000 }, { lock := 0x07, lastFlit := 999999 }, ({ lock := 0xFF, lastFlit := 999999, fails := 16 } : RPort)],
          let d := fab17 st x []
          (d.portState 17 = 2 ∨ d.portState 17 = 3) ∧ ((d.rport 17).lastFlit + 1000 ≤ d.now ∨ popCount 8 (d.rport 17).lock < 4 ∨ 16 ≤ (d.rport 17).fails))
      ∧ (HostUp { dev := fab17 2 {} [] } [0] ∧ bitAt 2 1 = true ∧ bitAt 2 0 = false ∧ bitAt 3 1 = true ∧ bitAt 3 0 = true)
      ∧ (fab17 2 { discAt := 990000 } []).portState 17 = 2 ∧ ((fab17 2 { discAt := 990000 } []).rport 17).disc = none ∧ 990000 + 10000 ≤ up.now := by decide +kernel

theorem toLe_split : ∀ m n g, toLe (m + n) g = toLe m g ++ toLe n (g / 256 ^ m)
  | 0, n, g => by simp [toLe]
  | m + 1, n, g => by
    rw [Nat.succ_add_eq_add_succ, show m + (n + 1) = (m + n) + 1 by omega, toLe, toLe, toLe_split m, Nat.div_div_eq_div_mul, List.cons_append, Nat.pow_succ']

/-- The CRC-64 register after 62 more bytes of a flit. -/
def crcPart (c g : Nat) : Nat := (toLe 62 g).foldl (fun (c : Nat) (b : BitVec 8) => crcBit 8 (Nat.xor c b.toNat)) c

theorem crc64_flit (g : Nat) : crc64 (toLe 248 g)
    = Nat.xor (crcPart (crcPart (crcPart (crcPart (2 ^ 64 - 1) g) (g / 256 ^ 62)) (g / 256 ^ 124)) (g / 256 ^ 186)) (2 ^ 64 - 1) := by
  rw [show 248 = 62 + (62 + (62 + 62)) by rfl, toLe_split, toLe_split, toLe_split, crc64]
  simp only [List.foldl_append, Nat.div_div_eq_div_mul, ← Nat.pow_add]
  rfl

/-- A flit with sequence number 4095, nothing else and its CRC-64. -/
def goodFlit : Nat := mkFields [(4, 12, 4095), (8 * 248, 64, 3763579342883502925)]

theorem crcPart_good : crcPart (2 ^ 64 - 1) goodFlit = 15664995977722126499 ∧ crcPart 15664995977722126499 (goodFlit / 256 ^ 62) = 16248550314015376174 := by
  decide +kernel
theorem crcPart_good2 : crcPart 16248550314015376174 (goodFlit / 256 ^ 124) = 17930850670249889822
    ∧ crcPart 17930850670249889822 (goodFlit / 256 ^ 186) = 14683164730826048690 := by decide +kernel
theorem crcPart_bad : crcPart (2 ^ 64 - 1) 0x10 = 677672629078466144 ∧ crcPart 677672629078466144 (0x10 / 256 ^ 62) = 5715763698376357325 := by decide +kernel
theorem crcPart_bad2 : crcPart 5715763698376357325 (0x10 / 256 ^ 124) = 10485110544877940014
    ∧ crcPart 10485110544877940014 (0x10 / 256 ^ 186) = 14539237881545180646 := by decide +kernel

theorem wit_PortsAndConnections_flits :
    (crc64 (toLe 248 goodFlit) = bytesAt goodFlit 248 8 ∧ fld goodFlit 4 12 = ((fab17 2 { rxSeq := 4095 } []).rport 17).rxSeq)
      ∧ crc64 (toLe 248 0x10) ≠ bytesAt 0x10 248 8 ∧ ((fab17 3 { rxSeq := 4095 } []).portState 17 = 3) := by
  rw [crc64_flit, crc64_flit, crcPart_good.1, crcPart_good.2, crcPart_good2.1, crcPart_good2.2, crcPart_bad.1, crcPart_bad.2, crcPart_bad2.1, crcPart_bad2.2]
  decide +kernel

theorem wit_PortsAndConnections_conns :
    let d (c : Conn) : Dev := let x := fab17 2 {} [(.ethConnSel, 0, 63), (.ethPortSts, 3, 1), (.ethPortCtrl, 3, 1)]
      { x with fab := { x.fab with conns := [(63, c)] } }
    (∀ v ∈ [(1, 0), (2, 1), (3, 2)], HostUp { dev := d { st := v.2 } } [0] ∧ fld v.1 0 2 = v.1 ∧ ((d { st := v.2 }).conn (d { st := v.2 }).connSel).st = v.2
        ∧ (d { st := v.2 }).chains = [])
      ∧ (d { st := 2 }).rbit .ethPortSts 3 0 = true ∧ ((d { st := 2 }).conn 63).st = 2 ∧ (d {}).rbit .ethPortCtrl 3 0 = true ∧ (d {}).stepDone 10 = true := by decide +kernel

/-- A DISCOVER (1) or HEARTBEAT (2) of module 9, or 5, at a LEVEL, with INCARNATION 7. -/
def hello (kind dev level : Nat) : Nat := mkFields [(0, 8, kind), (16, 16, level), (48, 15, dev), (96, 32, 7)]

theorem wit_PeersAndRoutes :
    let l := up.fd .reedlineLevel 0 0 16
    let d := fab17 2 {} []
    (d.portState 17 = 2 ∧ fld (hello 1 9 l) 0 8 = 1 ∧ d.refusal (hello 1 9 (l + 2)) = some 1 ∧ d.refusal (hello 1 up.self l) = some 2 ∧ d.refusal (hello 1 9 l) = none
        ∧ d.peer? (fld (hello 1 9 l) 48 15) = none ∧ d.fab.peers.length < 1024)
      ∧ (d.fabricStarted = true ∧ d.fab.hbAt + 10000 ≤ d.now)
      ∧ (d.portUp? 17 = true ∧ fld (hello 2 5 l) 0 8 = 2 ∧ (d.peer? (fld (hello 2 5 l) 48 15)).map (fun x => (x.st, x.inc)) = some (1, fld (hello 2 5 l) 96 32)
        ∧ d.refusal (hello 2 5 l) = none)
      ∧ (holds (d.peer? 5) (fun x => x.st == 1 && decide (x.lastRx + 30000 ≤ d.now)) = true ∧ (d.accept (from5 0) 0).2 = true)
      ∧ (HostUp { dev := d } [0] ∧ fld (9 + 65536) 16 2 = 1 ∧ fld (9 + 65536) 0 15 = 9 ∧ d.peer? 9 = none ∧ 9 ≠ d.self ∧ d.fab.ports.all (fun e => e.2.disc == none) = true)
      ∧ (fld (5 + 2 * 65536) 16 2 = 2 ∧ (d.peer? (fld (5 + 2 * 65536) 0 15)).isSome = true)
      ∧ (∀ p ∈ entryPorts 0x1F1F1100, p < 18 ∨ p = 31) := by decide +kernel

theorem wit_FramesAndTime_frames :
    let f (n : Nat) : Frame := { dst := 9, vc := 1, seq := 3, kind := 8, words := [], bytes := 16, sends := n, sentAt := 950000, waiting := false }
    let d (n : Nat) : Dev := let x := fab17 2 {} []; { x with fab := { x.fab with frames := [f n] } }
    ((d 1).portUp? 17 = true ∧ (d 1).ulSets = [])
      ∧ ∀ n ∈ [3, 4], ((d n).fab.frames.find? fun g => g.dst == 9 && g.vc == 1 && g.seq == 3) = some (f n) ∧ (f n).sentAt + 50000 ≤ (d n).now ∧ (d n).vcOpen 1 = true
        ∧ (f n).waiting = false ∧ (f n).kind ≠ 18 ∧ (f n).cmd = none ∧ (d n).routePort 9 = none := by decide +kernel

theorem wit_FramesAndTime_time :
    let d (sts : Nat) (t : TimeSt) : Dev := let x := fab17 2 { credits := [(0, 1)] } [(.purlinCtrl, 0, 16 * 17), (.purlinSts, 0, sts)]; { x with fab := { x.fab with time := t } }
    (∀ t ∈ [{}, ({ t1 := some 5, reqAt := 875000 } : TimeSt)], (d 0 t).rbit .purlinCtrl 0 0 = false ∧ (d 0 t).portUp? ((d 0 t).fd .purlinCtrl 0 4 5) = true
        ∧ ((d 0 t).fab.time.t1 = none ∨ (d 0 t).fab.time.reqAt + 125000 ≤ (d 0 t).now))
      ∧ ((d 0 {}).portUp? 17 = true ∧ ((d 0 {}).rport 17).queue = [] ∧ 1 ≤ smGet 0 ((d 0 {}).rport 17).credits 0)
      ∧ (∀ x ∈ [(0, 0), (1, 6), (4, 0)], let t : TimeSt := { t1 := some 100, close := x.2 }
          (d x.1 t).fab.time.t1 = some 100 ∧ (d x.1 t).fd .purlinCtrl 0 4 5 = 17 ∧ (d x.1 t).portUp? 17 = true ∧ (d x.1 t).rbit .purlinSts 0 2 = (x.1 == 4)
            ∧ (x.1 = 4 ∨ ((d x.1 t).fab.time.close < 7 ∧ (d x.1 t).fd .purlinSts 0 0 2 ≠ 2
                ∧ theta 100 2000 2100 200 0 0 (signed 16 ((d x.1 t).rd .reedlinePortAsym 17)) ≠ 0)))
      ∧ (∀ st ∈ [1, 2], (d st {}).fd .purlinSts 0 0 2 = st ∧ (d st {}).rbit .purlinCtrl 0 0 = false ∧ (d st {}).fab.time.okAt + 1000000 ≤ (d st {}).now)
      ∧ (let m := regs up [(.purlinCtrl, 0, 3), (.bringSts, 0, 0)]
         HostUp { dev := m } [0] ∧ m.rbit .purlinCtrl 0 0 = true ∧ m.rbit .purlinCtrl 0 1 = true ∧ m.ready = false ∧ m.stepDone 1 = true) := by decide +kernel

theorem wit_HoldsStartAndEnd :
    let h (active : Bool) (stop : Nat) : Hold := { id := 4, origin := 5, start := 1000000, stop := stop, active := active }
    let d (sts : Nat) (hs : List Hold) : Dev := let x := fab17 2 {} [(.purlinHoldSts, 0, sts)]; { x with fab := { x.fab with holds := hs, lastHold := some 4 } }
    ((d 0 []).parts = [] ∧ (d 0 []).pgood = true ∧ (d 0 []).held = false)
      ∧ (((d 3 []).fab.holds.any (·.active)) = false ∧ (d 3 []).pgood = true ∧ (d 3 []).fab.heldReqs = [] ∧ (d 3 []).bar4 = [])
      ∧ (∀ v ∈ [4 + 1, 8 + 1, 4 + 2, 8 + 2], HostUp { dev := d 0 [] } [0] ∧ 1 ≤ fld v 2 2 ∧ fld v 2 2 ≤ 2 ∧ (bitAt v 0 = true ∨ bitAt v 1 = true))
      ∧ ((d 0 []).rd .purlinHoldEnd 0 = 0 ∧ (d 0 []).rd .purlinHoldStart 0 ≤ (d 0 []).now ∧ (d 0 [h false 0]).fab.lastHold = some 4)
      ∧ (((d 0 []).accept (from5 0) 0).2 = true ∧ (d 0 []).fab.seenHolds.contains (8, 0) = false ∧ (d 0 []).fab.seenHolds.contains (8, 1) = false ∧ (d 0 []).domain = 0)
      ∧ ((d 0 [h false 0]).fab.holds = [h false 0] ∧ (h false 0).start ≤ (d 0 [h false 0]).now)
      ∧ ((d 5 [h true 1000000]).rbit .purlinHoldSts 0 1 = false ∧ ∀ x ∈ (d 5 [h true 1000000]).fab.holds, x.active = true → x.id = 4 ∧ x.stop ≠ 0 ∧ x.stop ≤ (d 5 [h true 1000000]).now) := by
  decide +kernel

/-! ## Witnesses: bring-up -/

/-- Bring-up before READY: the steps DONE and running, by their bits, beside `up`. -/
def bringing (done runs : Nat) (l : List (Reg × Nat × Nat)) : Dev :=
  regs up ([(.bringSts, 0, 0), (.bringStepDone, 0, done), (.bringStepRun, 0, runs), (.thatchArraySts, 0, 2)] ++ l)

theorem wit_BringUpSteps :
    (up.linkUp = true ∧ up.host.d3.contains 0 = false ∧ ∀ n ∈ upFrom 1 12, up.stepMayStart n = false)
      ∧ (∀ n ∈ [2, 3, 4, 5, 6, 7, 8, 9], (bringing (2 ^ n - 2) 0 []).stepMayStart n = true ∧ (bringing (2 ^ n - 2) 0 []).linkUp = true)
      ∧ ((bringing 0 0 []).stepMayStart 1 = true ∧ (bringing 0 0 []).image? = none)
      ∧ (∀ u ∈ [0x1013, 0x1F313], let d := { bringing 0xE 0 [] with bring := { defects := [(u, true)], gd1Out := true } }
          d.stepMayStart 4 = true ∧ (u ∈ d.bring.defects.map (·.1) ∧ d.bring.gd1Out = true ∧ fld u 0 8 = 0x13))
      ∧ (let d := bringing 0x1FE 0 [(.reedlinePortCtrl, 0, 1), (.reedlinePortCtrl, 17, 1), (.reedlinePortSts, 17, 3)]
         d.stepMayStart 9 = true ∧ d.rbit .reedlinePortCtrl 0 0 = true ∧ d.portState 0 = 0 ∧ d.portState 17 = 3)
      ∧ (let d := bringing 0x3FE 0 [(.nvmePortCtrl, 3, 1)]; d.stepMayStart 10 = true ∧ d.rbit .nvmePortCtrl 3 0 = true)
      ∧ (∀ x ∈ [(0, 0, true), (500, 1600, true), (65535, 65535, true), (499, 0, false), (1, 1600, false), (0, 1599, false), (0, 1, false)],
          let d := bringing 0x7FE 0 [(.bringLimitMhz, 0, x.1), (.bringLimitW, 0, x.2.1)]
          let mhz := d.fd .bringLimitMhz 0 0 16
          let w := d.fd .bringLimitW 0 0 16
          d.stepMayStart 11 = true ∧ (x.2.2 = false ↔ (mhz ≠ 0 ∧ mhz < 500) ∨ (w ≠ 0 ∧ w < 1600)))
      ∧ (let d := bringing 0xFFE 0 []
         d.stepMayStart 12 = true ∧ d.fd .thatchArraySts 0 0 2 = 2 ∧ d.rbit .thatchArraySts 0 2 = false ∧ d.rbit .thatchArraySts 0 3 = false) := by decide +kernel

/-- Bytes from the least address up, by an accumulator. -/
def put (a : Nat) (bs : List Byte) (m : List Host.Cell) : List Host.Cell := cellsAt a bs ++ m

/-- An image whose header and five sections of one byte are as Tables 17-1 and 17-2 ask: whether it is valid is then the signature's and the hashes' to say. -/
def staged (level floor : Nat) : Dev :=
  let sec (k : Nat) : List Byte := toLe 32 (mkFields [(0, 8, k), (64, 64, 4096 * k), (128, 64, 1), (192, 64, 77)])
  let head := toLe 256 (mkFields [(0, 32, 0x4947424B), (32, 16, 1), (48, 16, level), (64, 16, floor), (80, 16, 5), (96, 32, 0x6000), (128, 64, 7)])
  { up with stage := cellsAt 0 head ++ cellsAt 256 ([1, 2, 3, 4, 5].flatMap sec) }

theorem wit_ReloadsRunOrLose_refused :
    (up.linkUp = true ∧ up.host.d3.contains 0 = false ∧ (bringing 0x1FFE 0 []).ready = false ∧ (regs up [(.bringStepRun, 0, 0x2000)]).stepRuns 13 = true
        ∧ up.image? = none ∧ up.runningAll = [] ∧ up.refreshing = false ∧ up.cqs.all (fun e => e.2.waiting.isEmpty) = true) := by decide +kernel

/-- An image of every LEVEL that a reload may take has its shape; that the signature verifies is left open (Config.imageVerifies). -/
theorem wit_ReloadsRunOrLose_taken :
    ∀ n ∈ [0, 1], ((staged n 0).imageShape.map fun m => (m.level, m.floor, m.bytes)) = some (n, 0, 0x6000) ∧ (staged n 0).ready = true ∧ (staged n 0).stepRuns 13 = false
      ∧ (staged n 0).fd .reedlineLevel 0 16 16 ≤ n ∧ n ≤ (staged n 0).fd .reedlineLevel 0 0 16 + 1 ∧ (staged n 0).runningAll = [] := by decide +kernel

theorem wit_ReloadsRunOrLose_end :
    let m : TakenImage := { level := 1, floor := 0, build := 7, hash := 0, pegHash := 0 }
    let d (now : Nat) : Dev := { regs up [(.bringStepRun, 0, 0x2000)] with now := now, bring := { selfRefresh := some 1000000, image := some m } }
    ((d 8001000000).bring.selfRefresh = some 1000000 ∧ (d 8001000000).bring.image = some m ∧ (d 8001000000).stepRuns 13 = true ∧ 8001000000 ≤ 1000000 + 8000000000
        ∧ ((d 8001000000).fab.conns.all fun e => e.2.st != 1 && e.2.st != 2) = true ∧ (d 8001000000).collIn = [] ∧ (d 0).linkUp = true)
      ∧ 1000000 + 8000000000 < (d 8001000001).now ∧ (d 8001000001).stepRuns 13 = true := by decide +kernel

theorem wit_BringUpWork_late :
    ∀ n ∈ [2, 3, 4, 5, 6, 7, 8, 9, 10, 11], (∀ x ∈ [(n, false)], (bringing (2 ^ n - 2) (2 ^ x.1) []).stepRuns n = true
        ∧ { bringing (2 ^ n - 2) (2 ^ n) [] with bring := { started := [(n, 1000000)] } }.stepLate n = false)
      ∧ ({ bringing (2 ^ n - 2) (2 ^ n) [] with now := 62000000000 }.stepLate n = true ∧ workFails 8 = some 0x70 ∧ workFails 5 = some 0x40) := by decide +kernel

theorem wit_BringUpWork_done :
    let d (n : Nat) : Dev := bringing (2 ^ n - 2) (2 ^ n) [(.bringFabricWaitMs, 0, 0)]
    (∀ n ∈ [1, 2, 4, 6, 7, 8, 9, 10, 11], (d n).stepRuns n = true ∧ (d n).stepLate n = false
        ∧ (n = 1 ∨ n = 2 ∨ n = 4 ∨ n = 7 ∨ n = 11 ∨ (n = 6 ∧ (d n).allReady = true) ∨ (n = 8 ∧ (d n).pegsDone = true) ∨ (n = 9 ∧ (d n).fabricOver = true)
            ∨ (n = 10 ∧ (d n).ethOver = true)))
      ∧ (let m : TakenImage := { level := 1, floor := 0, build := 7, hash := 0, pegHash := 0 }
         ({ d 1 with bring := { image := some m } }).bring.image = some m)
      ∧ ((regs up [(.bringStepRun, 0, 512)]).stepRuns 9 = true ∧ (regs up [(.bringStepRun, 0, 512)]).ready = true ∧ (d 10).ready = false)
      ∧ ((d 3).stepLate 3 = false ∧ (d 5).stepLate 5 = false ∧ (d 5).stepRuns 5 = true ∧ (d 3).stepRuns 3 = true
        ∧ ([0xFF13, 0x101].all fun u => fld u 8 4 != 0) = true
        ∧ (([2 ^ 63, 0xAA] : List Nat).any fun l => (upFrom 0 32).any fun i => fld l (2 * i) 2 == 3) = false)
      ∧ (let e (n : Nat) : Dev := regs (d n) [(.bringStacksReady, 0, 1), (.bringPegDone, 0, 3), (.reedlinePortCtrl, 17, 1), (.reedlinePortSts, 17, 1), (.bringFabricWaitMs, 0, 5)
            , (.ethPortCtrl, 3, 1)]
         (e 6).allReady = false ∧ (e 8).pegsDone = false ∧ (e 9).fabricOver = false ∧ (e 10).ethOver = false ∧ ∀ n ∈ [6, 8, 9, 10], (e n).stepRuns n = true ∧ (e n).stepLate n = false)
      ∧ (up.stepRuns 1 = false ∧ workFails 1 = some 0x02 ∧ (d 1).stepRuns 1 = true)
      ∧ (∀ k ∈ [0, 31], (regs (d 6) [(.bringStacksReady, 0, 0x0FFFFFF0)]).stepRuns 6 = true ∧ (regs (d 6) [(.bringStacksReady, 0, 0x0FFFFFF0)]).rbit .bringStacksReady 0 k = false)
      ∧ ((d 8).stepRuns 8 = true ∧ (d 8).rbit .bringStacksReady 0 31 = true) := by decide +kernel

/-! ## Witnesses: FW_COMMIT, the Gable dies, the Batten network, and tests of units -/

theorem wit_FloorAndGable_commit :
    let c (fl time : Nat) := cmdOf 3 0xB0 [(128, 16, fl), (192, 64, time)]
    let s (l : List (Reg × Nat × Nat)) (cm : List (Nat × Nat)) (c : Cmd) : State := run { regs up ([(.reedlineLevel, 0, 5 + 2 * 65536)] ++ l) with bring := { commits := cm } } c
    (∀ x ∈ [(6, 0), (1, 0), (2, 0), (2, 2 ^ 64 - 1), (3, 1000000), (5, 1000001)], let c := c x.1 x.2
        let s := s [] [] c
        Runs s 3 0xB0 c ∧ s.dev.bring.commits.contains (3, c.order) = false ∧ c.only 1 [(16, 0, 16), (24, 0, 64)] = true ∧ s.dev.reloading = false
          ∧ s.dev.fd .reedlineLevel 0 0 16 = 5 ∧ s.dev.fd .reedlineLevel 0 16 16 = 2 ∧ c.at 16 2 = x.1 ∧ c.at 24 8 = x.2)
      ∧ (let c := c 5 1000000
         let r := s [(.bringSts, 0, 17)] [] c
         Runs r 3 0xB0 c ∧ r.dev.reloading = true)
      ∧ (let c := c 5 1000000
         let r := s [] [(3, 1)] c
         Runs r 3 0xB0 c ∧ r.dev.bring.commits.contains (3, c.order) = true ∧ c.at 24 8 ≤ r.dev.now) := by decide +kernel

theorem wit_FloorAndGable_dies :
    up.bothServe = true ∧ (∀ x ∈ [(0, 5, 5), (0, 5, 0), (1, 4, 5)], let d : Dev := { up with misses0 := x.2.1, misses1 := x.2.2 }
        d.bothServe = true ∧ ((x.1 = 0 ∧ 5 ≤ d.misses0) ∨ (x.1 = 1 ∧ d.misses0 < 5 ∧ 5 ≤ d.misses1)))
      ∧ (∀ v ∈ [5, 10], let d := regs up [(.queueGableSts, 0, v)]; d.stepDone 1 = true ∧ d.fd .queueGableSts 0 0 2 ≠ 0 ∧ d.fd .queueGableSts 0 2 2 ≠ 0) := by
  decide +kernel

theorem wit_FloorAndGable_links :
    ∀ x ∈ [(0, 0, 0, true), (0, 0, 3, true), (19, 1, 0, true), (11, 2, 4, false), (11, 2, 15, false), (18, 0, 1, false)],
      let far := ((dieLinks x.1)[x.2.1]?).getD 0
      let d : Dev := { up with linkDropped := if x.2.2.1 = 0 then [] else [(linkKey x.1 far, x.2.2.1)] }
      let narrow : Bool := 18 ≤ x.1 || 18 ≤ far
      ((dieLinks x.1)[x.2.1]?).isSome = true ∧ d.stepDone 1 = true ∧ 1 ≤ d.linkWorking x.1 far
        ∧ decide ((if narrow then 1 else 12) ≤ d.linkWorking x.1 far - 1) = x.2.2.2 ∧ narrow = decide (18 ≤ x.1) := by decide +kernel

theorem wit_TestsOfUnits_selftest :
    let c (test u : Nat) := cmdOf 3 0x90 [(128, 4, test), (160, 32, u)]
    let busy (c : Cmd) : State := let s := run up c
      { s with dev := { s.dev with sqs := s.dev.sqs ++ [(4, { bay := 0, admin := false, ring := 0x110000, log2 := 4, headAddr := 0x101000, cq := 7, run := some { cmdOf 4 0x10 [] with order := 0 } })] } }
    (∀ x ∈ [(0, unitId 11 1 255, false), (1, unitId 11 1 256, false), (5, unitId 11 1 0, false), (1, unitId 11 1 255, true), (3, unitId 19 9 1, true), (4, unitId 15 4 15, true)],
        let c := c x.1 x.2.1
        Runs (run up c) 3 0x90 c ∧ (c.only 1 [(16, 0, 4), (20, 0, 40)] && unitOk (c.at 20 4) && testAllows (c.bits 16 0 3) (c.at 20 4)) = x.2.2
          ∧ c.trapped = false ∧ (run up c).dev.enginesRun = true ∧ (run up c).dev.targetBusy (c.at 20 4) = false)
      ∧ (∀ defer ∈ [0, 1], let c := c (4 + 8 * defer) (unitId 15 4 0)
          Runs (busy c) 3 0x90 c ∧ (c.only 1 [(16, 0, 4), (20, 0, 40)] && unitOk (c.at 20 4) && testAllows (c.bits 16 0 3) (c.at 20 4)) = true ∧ c.trapped = false
            ∧ (busy c).dev.enginesRun = true ∧ c.bits 16 0 3 = 4 ∧ (busy c).dev.targetBusy (c.at 20 4) = true ∧ c.bits 16 3 1 = defer)
      ∧ (let d : Dev := { up with deferredTests := [(4, 0, 7, unitId 15 4 0), (3, 0, 8, unitId 15 4 0)], turnEnded := true }
         d.deferredTests.find? (fun x => x.1 == 3) = some (3, 0, 8, unitId 15 4 0) ∧ d.turnEnded = true ∧ d.enginesRun = true) := by decide +kernel

theorem wit_TestsOfUnits_calibrate :
    (∀ t ∈ [1, 2], let c := cmdOf 3 0x91 [(128, 2, t)]
        Runs (run up c) 3 0x91 c ∧ c.only 1 [(16, 0, 2)] = true ∧ c.bits 16 0 2 = t ∧ c.trapped = false)
      ∧ (∀ site ∈ [0x20, 0x3F], let c := cmdOf 3 0x91 [(128, 2, 3), (160, 32, unitId site 0 0)]
          let u := c.at 20 4
          Runs (run up c) 3 0x91 c ∧ c.only 1 [(16, 0, 2), (20, 0, 32)] = true ∧ c.bits 16 0 2 = 3
            ∧ (unitOk u && inRange 0x20 0x3F (fld u 0 8) && fld u 8 4 == 0) = true ∧ c.trapped = false ∧ (run up c).dev.enginesRun = true)
      ∧ (∀ lanes ∈ [0, 2 ^ 63 + 2], ((upFrom 0 32).map fun i => fld lanes (2 * i) 2).all (fun n => n != 3) = true ∧ lanes < 2 ^ 64)
      ∧ ((upFrom 0 32).map fun i => fld (3 * 2 ^ 62) (2 * i) 2).all (fun n => n != 3) = false := by decide +kernel

/-! ## Witnesses: the host -/

/-- A register access that a function answers, at an offset of PF BAR0. -/
def answered (d : Dev) (fn off : Nat) (r : Reg) (i : Nat) (hi : Bool) (o : Nat) : Bool :=
  d.answers fn && decide (off < barSize fn) && pfOffset fn off == some o && findReg o == some (r, i, hi) && (decide (o < 0x10000) || decide (0x20000 ≤ o))
    && (decide (o < 0x51000) || decide (0x52000 ≤ o)) && decide (o < 0x1000000) && (d.stepDone 1 || early0 o)

theorem wit_HostAccesses_refused :
    up.linkUp = true ∧ ({ up with host := { d3 := [5] } } : Dev).answers 5 = false ∧ barSize 5 ≤ 0x4000 ∧ barSize 0 ≤ 0x4000000 ∧ barSize 16 ≤ 0
      ∧ (∀ x ∈ [(1, 4), (2, 4), (4, 8), (0x40, 16)], breaksR6 (0x15000 + x.1) x.2 = true ∧ x.1 < barSize 5 ∧ pfOffset 5 x.1 = some (0x15000 + x.1)
          ∧ up.answers 5 = true)
      ∧ (let d := regs up [(.bringStepDone, 0, 0)]
         d.stepDone 1 = false ∧ d.linkUp = true ∧ d.answers 0 = true ∧ ∀ o ∈ [0x3000, 0xFFFFFC], early0 o = false ∧ breaksR6 o 4 = false ∧ o < barSize 0) := by decide +kernel

theorem wit_HostAccesses_write :
    let r := Reg.numstatSatwin
    (∀ v ∈ [16, 40, 15, 41], answered up 5 0x2010 r 5 false 0x65010 = true ∧ breaksR6 0x65010 (r.place.bits / 8) = false
        ∧ (r.fields.all fun f => (f.ty != .rw && f.ty != .rwl) || f.allows (fld v f.lo f.w)) = (v == 16 || v == 40))
      ∧ (let q := Reg.powerWearBudgetTb
         let d : Dev := { up with writeLatch := [(q.addr 3, 7)], readLatch := [(q.addr 3, 9)] }
         q.place.bits = 64 ∧ answered d 0 262424 q 3 false 262424 = true ∧ answered d 0 262428 q 3 true 262428 = true ∧ breaksR6 262424 8 = false ∧ breaksR6 262424 4 = false
          ∧ breaksR6 262428 4 = false ∧ smFind d.writeLatch (q.addr 3) = some 7 ∧ smFind d.readLatch (q.addr 3) = some 9)
      ∧ (let o := Reg.numstatDropped.addr 0
         answered up 0 o .numstatDropped 0 false o = true ∧ breaksR6 o 4 = false ∧ Reg.numstatDropped.place.bits = 32
          ∧ (Reg.numstatDropped.fields.any fun f => f.ty == .rc) = true) := by decide +kernel

theorem wit_HostAccesses_bar4 :
    let d (hold : Nat) : Dev := regs up [(.hostifBar4Size, 0, 30), (.hostifBar4Base, 0, 0), (.purlinHoldSts, 0, hold)]
    (d 0).host.d3.contains 0 = false ∧ (∀ x ∈ [(0, 0), (2 ^ 30 - 1, 2), (2 ^ 30, 1)], x.2 = 0 ∨ 2 ^ (d 0).fd .hostifBar4Size 0 0 6 < x.1 + x.2)
      ∧ (∀ x ∈ [(0x10FFFF, 1), (0x100000, 4)], x.1 + x.2 ≤ 2 ^ (d 0).fd .hostifBar4Size 0 0 6 ∧ (d 0).bar4Open = true ∧ (d 0).held = false ∧ (d 0).powerHold = false
          ∧ ((d 0).pieces 0 x.1 x.2).all (fun p => (d 0).bar4Serves p false) = true ∧ ((d 0).pieces 0 x.1 x.2).all (fun p => (d 0).bar4Serves p true) = true
          ∧ okay ((d 0).readVa 0 x.1 x.2) (fun bs => bs.length == x.2) = true)
      ∧ (∀ x ∈ [(0, 1), (0x10FFFF, 2)], ((d 0).pieces 0 x.1 x.2).all (fun p => (d 0).bar4Serves p false) = false
          ∧ ((d 0).pieces 0 x.1 x.2).all (fun p => (d 0).bar4Serves p true) = false)
      ∧ ((d 1).bar4Open = true ∧ (d 1).held = true) := by decide +kernel

theorem wit_HostAccesses_window :
    (∀ x ∈ [(0, 1), (stageSize - 8, 8)], x.1 + x.2 ≤ stageSize ∧ x.2 ≠ 0) ∧ up.stageBusy = false ∧ up.host.d3.contains 0 = false
      ∧ ∀ v ∈ [2, 3, 12, 13], inRange 1 6 (fld v 1 3) = true ∧ bitAt v 0 = (v == 3 || v == 13) := by decide +kernel

theorem wit_HostLink_power :
    (let d := regs up [(.hostifSideband, 0, 0x39)]; d.rbit .hostifSideband 0 0 = true ∧ d.pgood = false) ∧ up.pgood = true
      ∧ (let d := regs up [(.hostifSideband, 0, 0x3B)]; d.pgood = true ∧ d.rbit .hostifSideband 0 2 = false)
      ∧ (∀ v ∈ [0x2B, 0x3B], ((regs up [(.hostifSideband, 0, v)]).rbit .hostifSideband 0 4 = decide (v = 0x3B))) ∧ up.linkUp = true := by decide +kernel

theorem wit_HostLink_losses :
    let d (now : Nat) (l : List (Reg × Nat × Nat)) : Dev := { regs up l with now := now, host := { downAt := some 1000000 } }
    (∀ x ∈ [d 2000000 [], d 1000000 [(.bringStepDone, 0, 0)]], x.host.downAt = some 1000000 ∧ x.rbit .hostifErr 0 3 = false
        ∧ (x.stepDone 1 = false ∨ 1000000 + 1000000 ≤ x.now) ∧ (∀ c ∈ x.runningAll, c.opcode ≠ 0x21))
      ∧ (let s := admin up (fun x => { x with run := some { cmdOf 0 0x01 [] with order := 1 } }) id
         holds (smFind s.dev.sqs 0) (fun x => holds x.run (fun c => c.sq == 0) && s.dev.hostRing x && !(s.dev.parts.any fun p => p.sq == 0)
            && !(s.dev.steps.any fun p => p.sq == 0)) = true ∧ s.dev.linkUp = true)
      ∧ (let s := admin up id id
         holds (smFind s.dev.sqs 0) (fun x => x.run.isNone && x.st == 1 && s.dev.hostRing x) = true) := by decide +kernel

/-! ## Witnesses: management, and the register map -/

theorem wit_ManagementAnswers_eids :
    up.pgood = true ∧ up.linkUp = true ∧ (regs up [(.fasciaMctpEid, 0, 127 * 65536)]).fd .fasciaMctpEid 0 16 7 ≠ 0 ∧ up.fd .fasciaMctpEid 0 16 7 = 0
      ∧ (∀ e ∈ [1, 0xFE], 1 ≤ e ∧ e ≤ 0xFE) ∧ (∀ e ∈ [0, 0xFF, 0x100], e = 0 ∨ 0xFF ≤ e) := by decide +kernel

theorem wit_ManagementAnswers_spdm :
    let d (sts n : Nat) : Dev := { regs up [(.fasciaSpdmSts, 0, sts)] with host := { spdm := n } }
    (d 0 0).host.spdm = 0 ∧ (d 0 1).host.spdm ≠ 0 ∧ (d 0 1).host.spdm < 2 ∧ 2 ≤ (d 0 2).host.spdm
      ∧ (∀ x ∈ [(16, 1, true), (15, 1, false), (16, 2, false)], (bitAt x.1 4 && bitAt x.2.1 0) = x.2.2)
      ∧ (∀ x ∈ [(0, 3), (1, 2)], (d x.1 x.2).rbit .fasciaSpdmSts 0 0 = false ∨ (d x.1 x.2).host.spdm < 3)
      ∧ (d 1 3).rbit .fasciaSpdmSts 0 0 = true ∧ 3 ≤ (d 1 3).host.spdm ∧ (5 < 6 ∧ 6 ≠ 0xFF) ∧ (5 ≤ 5 ∨ 5 = 0xFF) := by decide +kernel

theorem wit_ManagementAnswers_tap : up.ready = true ∧ (bringing 0 0 []).ready = false ∧ (bringing 0 0 []).pgood = true ∧ (1 ≤ 127 ∧ 127 ≤ 127) := by decide +kernel

theorem wit_RegisterMap : 31 < Reg.eaveLaneSpares.instances ∧ Reg.eaveLaneSpares.place.bits = 64 ∧ Reg.eaveLaneSpares.addr 31 ≠ Reg.eaveLaneSpares.addr 30 := by
  decide +kernel

/-! ## Witnesses: underlays, restores and flash -/

/-- A module with its four SSDs in the stripe set and 1 GiB of underlay area, whose object 1 is an UNDERLAY object, with these sets and pages. -/
def ulDev (l : List (Reg × Nat × Nat)) (ss : List UlSet) (ps : List UlPage) : Dev :=
  { regs up ([(.tierT4Ssds, 0, 0x4F), (.tierT4Limit, 0, 2 ^ 30)] ++ l) with
    objs := up.objs.map fun o => if o.small then { o with underlay := true } else o
    ulSets := ss, ulPages := ps, ulSerial := 9 }

/-- Set 7 of bay 0 (serial 4) in a state, of object 1; a page of it in a state. -/
def ulSet (st : Nat) : UlSet :=
  { serial := 4, bay := 0, id := 7, st := st, step := 100, cut := 500000, shielded := true, bytes := 0x10000, objs := [{ id := 1, size := 0x10000, small := true, pin := false, exportMode := 0, key := 0, firstStack := 0, runLog2 := 0, maps := [], crc := 0 }] }
def ulPage (st : Nat) : UlPage := { set := 4, objBay := 0, objId := 1, page := 0, st := st }

/-- A packet of UNDERLAY_TAKE with OP `op` on set `id`. -/
def takePkt (op id maxLost interval guard time va mirror : Nat) : Cmd :=
  cmdOf 3 0x70 [(8, 8, 2), (128, 2, op), (160, 32, id), (192, 32, 100), (224, 10, maxLost), (240, 10, interval), (256, 32, 9), (288, 32, guard), (320, 64, time)
    , (384, 64, va), (448, 16, mirror)]

theorem wit_UnderlaySetsAreTakenAndStored_take :
    (∀ x ∈ [(0, 1, 1, 1000), (8, 0, 1, 1000), (8, 1001, 1, 1000), (8, 5, 6, 1000), (8, 5, 0, 1000), (8, 5, 1, 999), (8, 1, 1, 1000), (8, 1000, 1000, 100000)],
        let c := takePkt 0 x.1 x.2.1 x.2.2.1 x.2.2.2 101000000 0 0
        let s := run (ulDev [] [] []) c
        Runs s 3 0x70 c ∧ c.contribs = [] ∧ c.bits 16 0 2 = 0 ∧ calm s ∧ s.dev.turns = [] ∧ s.dev.chains = [] ∧ s.dev.parts = []
          ∧ (c.takeOnly 0 && c.at 20 4 != 0 && !(s.dev.ulSets.any fun y => y.bay == c.bay && y.id == c.at 20 4) && inRange 1 1000 (c.bits 28 0 10) && inRange 1 (c.bits 28 0 10) (c.bits 30 0 10) && inRange 1000 100000 (c.at 36 4))
              = (x == (8, 1, 1, 1000) || x == (8, 1000, 1000, 100000)))
      ∧ (∀ x ∈ [(0, 0, 0, []), (0, 0, 1, [ulSet 1]), (0x400000, 0x8001, 0, [])],
          let c := { takePkt 0 8 1 1 1000 2000000 x.1 x.2.1 with pkt := (takePkt 0 8 1 1 1000 2000000 x.1 x.2.1).pkt + x.2.2.1 * 2 ^ 130 }
          let s := run { ulDev [] x.2.2.2 [] with hbm := turnMem } c
          Runs s 3 0x70 c ∧ calm s ∧ c.takeOnly 0 = true ∧ c.trapped = false ∧ s.dev.part? c.bay (c.at 32 4) = none
            ∧ okay (s.dev.ulGroup c (c.at 48 8)) (fun g => s.dev.memberBad g.1 == none && (!bitAt c.pkt 463 || (decide (c.bits 56 0 15 < g.1.length) && c.bits 56 0 15 != g.2))
                && (x.1 == 0 || decide (2 ≤ g.1.length))) = true
            ∧ (x.1 = 0 → c.at 48 8 = 0 ∧ (c.bits 16 2 1 = 1 ∨ (s.dev.writingSet c.bay = none ∧ s.dev.cutDue c = true)))
            ∧ s.dev.cutFits c.bay = true ∧ s.dev.rbit .hostifErr 0 3 = false ∧ s.dev.now + 1000 * c.at 36 4 ≤ c.at 40 8) := by decide +kernel

theorem wit_UnderlaySetsAreTakenAndStored_ops :
    (let c := cmdOf 3 0x70 [(8, 8, 2), (128, 2, 1), (512, 64, 0x480000)]
     let s := run (ulDev [] [ulSet 2, { ulSet 2 with serial := 5, id := 3 }] []) c
     Runs s 3 0x70 c ∧ c.contribs = [] ∧ c.bits 16 0 2 = 1 ∧ c.takeOnly 1 = true ∧ c.trapped = false
      ∧ (s.dev.writeVa c.bay (c.at 64 8) ([{ ulSet 2 with serial := 5, id := 3 }, ulSet 2].flatMap fun x => toLe 64 x.record)).2 = none)
      ∧ (∀ st ∈ [1, 2, 3], let c := cmdOf 3 0x70 [(8, 8, 2), (128, 2, 2), (160, 32, 7)]
          let s := run (ulDev [] [ulSet st] []) c
          Runs s 3 0x70 c ∧ c.bits 16 0 2 = 2 ∧ c.takeOnly 2 = true ∧ c.trapped = false
            ∧ s.dev.ulSets.find? (fun x => x.bay == c.bay && x.id == c.at 20 4) = some (ulSet st))
      ∧ (let c := cmdOf 3 0x70 [(8, 8, 2), (128, 2, 2), (160, 32, 8)]
         let s := run (ulDev [] [ulSet 2] []) c
         Runs s 3 0x70 c ∧ c.bits 16 0 2 = 2 ∧ s.dev.ulSets.find? (fun x => x.bay == c.bay && x.id == c.at 20 4) = none) := by decide +kernel

/-- SQ 3 holds the part of a take that commits with a cut at 1 ms. -/
def cutting (d : Dev) (acted : Option Nat) : State :=
  let u : TurnSt := { turn0 false false with sheaf := 8, time := 1000000, crc := 100, decision := some (true, 1, 0), acted := acted }
  run { d with parts := [{ part0 0x70 [] with group := [] }], turns := [u] } (takePkt 0 8 5 1 1000 1000000 0 0)

theorem wit_UnderlaySetsAreTakenAndStored_cut :
    (let s := cutting (ulDev [] [ulSet 2] []) none
     holds (s.dev.takes.find? fun x => x.1.sq == 3) (fun x => x.2.2 == (true, false) && holds (s.dev.turn? x.1) fun u => decide (alignUp u.time 4 ≤ s.dev.now)) = true
      ∧ s.dev.rbit .hostifErr 0 3 = false)
      ∧ (let s := cutting (ulDev [] [{ ulSet 1 with shielded := false }] []) (some 0)
         (s.dev.takes.find? fun x => x.1.sq == 3).isSome = true ∧ holds (s.dev.writingSet 0) (fun u => !u.shielded) = true ∧ s.dev.bar4 = [] ∧ s.dev.fab.heldReqs = []) := by
  decide +kernel

theorem wit_UnderlaySetsAreTakenAndStored_pages :
    (let d (bad : Bool) : Dev := let x := ulDev [] [ulSet 1] [ulPage 0]; if bad then { x with hbmBad := [(0, ())] } else x
     (∀ b ∈ [false, true], (d b).writingSet 0 = some (ulSet 1) ∧ (d b).nextPage (ulSet 1) = some (ulPage 0) ∧ (d b).writerRuns = true ∧ (ulSet 1).shielded = true
        
        ∧ holds ((d b).obj? 0 1) (fun o => ((d b).objErr o 0 ((ulSet 1).pageSize 1)).isSome == b && o.underlay && o.size == 0x10000) = true)
      ∧ (ulSet 1).mirror = none ∧ (d false).members ≠ [] ∧ ((d false).members.all fun p => !(d false).nvmeFailed p) = true)
      ∧ (let d := ulDev [] [ulSet 1] [ulPage 2]
         (d.ulSets.filter fun y => y.bay == 0 && y.st == 1) = [ulSet 1] ∧ (d.ulSets.filter fun y => y.serial == 4) = [ulSet 1]
          ∧ d.ulPages.find? (fun u => u.set == 4 && u.st == 2 && u.objId == 1 && u.page == 0) = some (ulPage 2) ∧ d.nvmeBusy (.page 4 1 0) = false
          ∧ (ulSet 1).shielded = true ∧ d.mirrorPending (ulSet 1) = false ∧ (∀ w ∈ d.ulPages, w.set = 4 → w.st = 3 ∨ (w.objId = 1 ∧ w.page = 0))
          ∧ (ulSet 1).mirrored = false) := by decide +kernel

theorem wit_RestoresAndFlash_restore :
    let c := cmdOf 3 0x71 [(160, 32, 7), (192, 32, 9)]
    let s (ss : List UlSet) : State := run (ulDev [] ss []) c
    let x : UlSet := { ulSet 2 with objs := [], bytes := 0 }
    (∀ ss ∈ [[], [x], [x, { x with serial := 5, id := 8, cut := 600000 }]], Runs (s ss) 3 0x71 c ∧ (s ss).dev.parts = [] ∧ (s ss).dev.chains = []
        ∧ c.only 1 [(16, 0, 1), (20, 0, 64), (32, 0, 64)] = true ∧ bitAt c.pkt 128 = false ∧ c.at 32 8 = 0 ∧ calm (s ss)
        ∧ (s ss).dev.part? c.bay (c.at 24 4) = none ∧ ((s ss).dev.objs.any fun o => o.bay == c.bay && o.place.isSome) = false ∧ c.contribs = []
        ∧ ((s ss).dev.ownSets c.bay).find? (fun y => y.id == c.at 20 4 && y.st == 2) = (if ss = [] then none else some x)
        ∧ (s ss).dev.writingSet c.bay = none ∧ c.trapped = false ∧ (s ss).dev.passed c = false ∧ (s ss).dev.memberBad ((s ss).dev.alone c.bay) = none)
      ∧ restoreAll c 0 (s [x]).dev [] = .ok (s [x]).dev := by
  refine ⟨?_, rfl⟩
  decide +kernel

theorem wit_RestoresAndFlash_replay :
    let c (op loss tol tokens : Nat) := cmdOf 3 0x72 [(128, 1, op), (160, 32, 7), (192, 64, loss), (256, 64, tol), (320, 64, tokens)]
    let one := 0x3FF0000000000000
    let x : UlSet := { ulSet 2 with lossValid := true, loss := one, tokens := 50 }
    let near (c : Cmd) : Bool := !isZero .fp64 (c.at 32 8) && (((decode .fp64 (c.at 24 8)).add (decode .fp64 x.loss).neg).abs).le (decode .fp64 (c.at 32 8))
    ∀ y ∈ [(0, one, 0, 50, true, false), (1, one, 0, 50, true, false), (1, one + 1, 0x3CB0000000000000, 50, false, true), (1, one + 2, 0x3CB0000000000000, 50, false, false)
        , (1, one + 1, 0, 50, false, false), (1, one, 0, 51, true, false)],
      let c := c y.1 y.2.1 y.2.2.1 y.2.2.2.1
      let s := run (ulDev [] [x] []) c
      Runs s 3 0x72 c ∧ (s.dev.ownSets c.bay).find? (fun z => z.id == c.at 20 4) = some x ∧ c.only 1 [(16, 0, 1), (20, 0, 32), (24, 0, 192)] = true
        ∧ isNan .fp64 (c.at 24 8) = false ∧ isFinite .fp64 (c.at 32 8) = true ∧ c.at 32 8 ≤ 2 ^ 63 ∧ x.st = 2 ∧ c.trapped = false ∧ c.bits 16 0 1 = y.1
        ∧ (c.at 24 8 == x.loss) = y.2.2.2.2.1 ∧ near c = y.2.2.2.2.2 := by decide +kernel

theorem wit_RestoresAndFlash_mirror :
    let at5 (ss : List UlSet) : Dev := let x := ulDev [] ss []; { x with regs := (linked x).regs, fab := (linked x).fab }
    ((at5 []).accept (from5 0) 3).2 = true ∧ ((at5 []).ulSets.any fun x => x.bay == 0 && x.mirrored && x.rank == 1) = false
      ∧ ((at5 []).ulSets.filter fun x => x.bay == 0).length < 4 ∧ sumN ((ulSet 1).objs.map fun (a : UlAttr) => a.size) ≤ (at5 []).ulAreaFree ∧ (at5 []).members ≠ []
      ∧ ((at5 []).members.all fun p => !(at5 []).nvmeFailed p) = true ∧ ((at5 []).ulPages.any fun y => y.set == (at5 []).ulSerial) = false
      ∧ (let x := { ulSet 1 with mirrored := true, rank := 1 }
         ((at5 [x]).ulSets.find? fun y => y.bay == 0 && y.mirrored && y.rank == 1 && y.id == 7) = some x ∧ ((at5 [x]).ulSets.filter fun y => y.serial == 4) = [x]) := by
  decide +kernel

theorem wit_RestoresAndFlash_nvme :
    let cmd (ab : Option Nat) : NvmeCmd := { port := 3, id := 1, write := true, bytes := 0x10000, at_ := 0, aborted := ab, use := .page 4 1 0 }
    let d (now : Nat) (ab : Option Nat) : Dev := { ulDev [(.nvmePortSts, 3, 2)] [ulSet 1] [ulPage 2] with nvme := [cmd ab], now := now, nvmeResets := [(3, 0), (3, 1)] }
    ((d 0 none).nvmeCmd? 3 1 = some (cmd none) ∧ (cmd none).at_ + 1000000 * (d 0 none).fd .nvmeTimeoutMs 3 0 16 ≤ (d 70000000000 none).now)
      ∧ ((d 2000000000 (some 1000000000)).nvmeCmd? 3 1 = some (cmd (some 1000000000)) ∧ 1000000000 + 1000000000 ≤ (d 2000000000 (some 1000000000)).now
        ∧ 2 ≤ ((d 2000000000 (some 1000000000)).nvmeResets.filter fun r => decide (2000000000 < r.2 + 60000000000) && r.1 == 3).length)
      ∧ (d 0 none).fd .nvmePortSts 3 0 2 = 2 ∧ ((d 0 none).nvme.any fun c => c.port == 3) = true ∧ ((d 0 none).nvme.any fun c => c.port == 2) = false := by
  decide +kernel

/-! ## WellFormed: an ill-formed term for each kind of check -/

theorem test_wf_nop : Instr.wf (.nop 262143) = true ∧ Instr.wf (.nop 262144) = false := by decide +kernel
theorem test_wf_list : Instr.wf (.gather 0 (some 65535)) = true ∧ Instr.wf (.gather 0 (some 65536)) = false := by decide +kernel
theorem test_wf_bay : Instr.wf (.trapClear 15) = true ∧ Instr.wf (.trapClear 16) = false := by decide +kernel
theorem test_wf_cq : Instr.wf (.completionWrite 65535) = true ∧ Instr.wf (.completionWrite 65536) = false := by decide +kernel
theorem test_wf_requester : Instr.wf (.eaveRead 0 0 ⟨0, some (phyNi 3)⟩ none false) = true ∧ Instr.wf (.eaveRead 0 0 ⟨2 ^ 32, none⟩ none false) = false
    ∧ Instr.wf (.eaveRead 0 0 ⟨0, some 0x514⟩ none false) = false ∧ Instr.wf (.eaveRead 0 0 ⟨0, some (phyNi 3)⟩ none true) = false := by decide +kernel
theorem test_wf_value : Instr.wf (.sqTailWrite 0 0 (2 ^ 32 - 1) false) = true ∧ Instr.wf (.sqTailWrite 0 0 (2 ^ 32) false) = false
    ∧ Instr.wf (.sqTailWrite 0 0 (2 ^ 32) true) = true := by decide +kernel
theorem test_wf_frame : FrameHdr.wf { port := 31, src := 0, inc := 0, seq := 0 } = true ∧ FrameHdr.wf { port := 18, src := 0, inc := 0, seq := 0 } = false
    ∧ FrameHdr.wf { port := 0, src := 2 ^ 15, inc := 0, seq := 0 } = false := by decide +kernel

/-! ## Values that the spec's worked examples state -/

/-- 01, the example under R26: logical tile 37 of TD9; and the links of TD4 and TD0. -/
theorem test_unit_identifier : unitId 9 1 37 = 0x00250109 := by decide +kernel
theorem test_batten_links : dieLinks 4 = [0, 5, 8, 12, 14] := by decide +kernel
theorem test_batten_links0 : dieLinks 0 = [1, 4, 12, 18] := by decide +kernel

/-- 02, the first example: the fine scale of the block, under MSE and ABSMAX; the second: a constant block of 0.75. -/
def exampleBlock : List Nat :=
  let one := 0x3F800000
  let half := 0x3F000000
  let neg (x : Nat) : Nat := x + 2 ^ 31
  [one, neg one, one, neg one, one, neg one, one, neg one, half, neg half, half, neg half, 0x3FC00000, neg 0x3FC00000, 0x3FC00000, 0x404CCCCD]
theorem test_scale_mse : chooseScale .e2m1 false 0x3F800000 exampleBlock = 0x30 := by decide +kernel
theorem test_scale_absmax : chooseScale .e2m1 true 0x3F800000 exampleBlock = 0x31 := by decide +kernel
theorem test_scale_const : chooseScale .e2m1 false 0x3F800000 (List.replicate 16 0x3F400000) = 0x3C := by decide +kernel

/-- 04, the stochastic fold: 1 + 3 × 2^-26 with draw 0x5A3C rounds up. -/
theorem test_stochastic_fold : roundMag .fp32 (.sr 0x5A3C) (2 ^ 26 + 3) (2 ^ 26) = 0x3F800001 ∧ roundMag .fp32 (.sr 0x6000) (2 ^ 26 + 3) (2 ^ 26) = 0x3F800000 := by
  decide +kernel

/-- 05, the ACCEPT example: its first draft is accepted whatever the draw, its second is rejected. -/
theorem test_accept : rejects (2 ^ 32 - 1) 0x3F000000 0x3F19999A = false ∧ rejects 0x90000000 0x3ECCCCCD 0x3E4CCCCD = true := by decide +kernel

/-- 07, the address example: bank 3,252, row 72. -/
theorem test_bank : bankOf (0x12345678 / 64) = 3252 ∧ rowOf (0x12345678 / 64) = 72 := by decide +kernel

/-- 15, the exchange: the parent runs 12 ns ahead. -/
theorem test_theta : theta 5000000000 5000000512 5000001012 5000001496 0 0 4 = 12 := by decide +kernel

/-- 16, the host example: the BAY block and MSI-X vector 3 of bay 5 through its VF. -/
theorem test_vf_windows : pfOffset 5 0x1100 = some 0x29500 ∧ pfOffset 5 0x30 = some 0x15030 := by decide +kernel

/-- 18, the wear example: 25 GB to each SSD every 214.78 s, a year into five: every 300 steps. -/
theorem test_wear : ((Dev.wearEvaluate
      { regs up ([(.tierT4Ssds, 0, 0x4F)] ++ ([0, 1, 2, 3].flatMap fun p => [(.powerWearBudgetTb, p, 14000), (.nvmeUnitsWritten, p, 4200 * 10 ^ 12 / 512000)
          , (.powerWearLifeEnd, p, 214780000000 + 126230400 * 10 ^ 9)])) with
        now := 214780000000, wear := [(214780000000, [25 * 10 ^ 9, 25 * 10 ^ 9, 25 * 10 ^ 9, 25 * 10 ^ 9])] }
      { serial := 0, bay := 0, id := 1, step := 0, cut := 0, interval := 200, maxLost := 500 }).rd .powerWearSts 0) = 2 * 300 := by decide +kernel

/-- 08, the verify pass under a SPARSE layer: the items of Table 8-6, as (in the global table, START, END, LIMIT0, CANDS, Q_ROW), and those that the
rows of candidate 1 merge, in their order: items 1, 2, 3, 8, 10 and 11. -/
theorem test_attention_items :
    let a : AttHead := { k := { dir := 0, layers := 1, heads := 1, dim := 0, e2m1 := false, maxPos := 8192, committed := 5118 }, e := 0
                         pat := { sparse := true, window := 1024, sink := 128, gstride := 512, gcount := 8192 }, scale := 0, cq := 0, group := 8, ck := 0, cv := 0, slot := 0 }
    let is : List (List Nat) := (a.items 5118 4).map fun x =>
      [if x.2.pt = a.k.pte true 0 0 then 1 else 0, x.2.start, x.2.stop, x.2.limit, x.2.cands, x.2.qRow]
    let table : List (List Nat) :=
      [[0, 0, 128, 127, 4, 0], [1, 0, 7, 6, 4, 0], [0, 4095, 4096, 4095, 1, 8], [0, 4095, 4096, 4095, 1, 16], [0, 4095, 4096, 4095, 1, 24]
        , [0, 4095, 4096, 4097, 1, 0], [0, 4096, 4098, 4097, 1, 0], [0, 4096, 4098, 4097, 1, 8], [0, 4097, 4098, 4097, 1, 16]
        , [0, 4098, 5120, 5118, 4, 0], [0, 5120, 5122, 5118, 4, 0]]
    is.length = 11 ∧ (∀ x ∈ table, x ∈ is) ∧ sumN (is.map fun x => 8 * x.getD 4 0) = 184
      ∧ (is.filter fun x => decide (x.getD 5 0 ≤ 8) && decide (8 < x.getD 5 0 + 8 * x.getD 4 0)) = [0, 1, 2, 7, 9, 10].map (table.getD · []) := by decide +kernel

/-- 01, R17: from TD0 to TD11 along the row, then the column; from LD1 into the grid by its nearest linked die; the longest route has 7 hops. -/
theorem test_batten_routes : battenRoute 0 11 = [1, 2, 3, 7, 11] ∧ (battenRoute 18 19).length = 7 := by decide +kernel

/-- 05, R138: EXPAND after COMPRESS with the same mask restores every active lane, and the count is exact. -/
theorem test_compress_expand :
    let k : LathCore := { v := [(1, packCodes 32 (upFrom 100 128))], k := [(2, 0xF00F)] }
    let r : LathRun := { core := k, d := {}, bay := 0, cmd := cmdOf 3 0x20 [], inst := 0 }
    let r1 := r.ins (.compress .fp32 3 1 2 4)
    let r2 := r1.ins (.expand .fp32 5 3 2)
    r1.core.sreg 4 = 8 ∧ (r1.core.lanes .fp32 3).take 9 = [100, 101, 102, 103, 112, 113, 114, 115, 0]
      ∧ (r2.core.lanes .fp32 5).take 17 = [100, 101, 102, 103, 0, 0, 0, 0, 0, 0, 0, 0, 112, 113, 114, 115, 0] := by decide +kernel

end Sys2Proof.Tests
end

section
/-!
PROOF. The register map (00 R6, R9, Table 0-5): the registers' places lie apart, so an offset of PF BAR0 names one place of one register.
-/
namespace Sys2Proof.Machine

/-! ## Places -/

/-- The bytes that the members of one unit of a place span. -/
def RPlace.bytes (p : RPlace) : Nat := (p.members - 1) * p.step + p.bits / 8

/-- Is a place well formed: a 32-bit or 64-bit register, units that do not run into each other, members packed by width? -/
def RPlace.ok (p : RPlace) : Bool :=
  (p.bits == 32 || p.bits == 64) && p.members != 0 && (if p.stride = 0 then p.count == 1 else decide (p.bytes ≤ p.stride))
    && (p.members == 1 || p.step == p.bits / 8)

/-- Every unit of `p` ends before the first unit of `q`. -/
def RPlace.before (p q : RPlace) : Bool := decide (p.base + (p.count - 1) * p.stride + p.bytes ≤ q.base)

/-- Every unit of `p` lies in the gap that follows a unit of `q`: the places share their stride, or `p` has one unit. -/
def RPlace.inGaps (p q : RPlace) : Bool :=
  (decide (p.count ≤ 1) || p.stride == q.stride) && decide (q.base + q.bytes ≤ p.base) && decide (p.base + p.bytes ≤ q.base + q.stride)

/-- The places share no byte, by one of the two reasons that the register tables give. -/
def RPlace.apart (p q : RPlace) : Bool := p.before q || q.before p || p.inGaps q || q.inGaps p

/-- A byte of a unit of a place. -/
def RPlace.Covers (p : RPlace) (off : Nat) : Prop :=
  ∃ u < p.count, p.base + u * p.stride ≤ off ∧ off < p.base + u * p.stride + p.bytes

theorem RPlace.not_covers_of_before {p q : RPlace} {off : Nat} (h : p.before q = true) (hp : p.Covers off) : ¬ q.Covers off := by
  rintro ⟨v, -, hv, -⟩
  obtain ⟨u, hu, -, hlt⟩ := hp
  have hmul : u * p.stride ≤ (p.count - 1) * p.stride := Nat.mul_le_mul_right _ (by omega)
  simp only [before, decide_eq_true_eq] at h
  omega

theorem RPlace.not_covers_of_inGaps {p q : RPlace} {off : Nat} (h : p.inGaps q = true) (hp : p.Covers off) : ¬ q.Covers off := by
  rintro ⟨v, -, hv, hv'⟩
  obtain ⟨u, hu, hle, hlt⟩ := hp
  simp only [inGaps, Bool.and_eq_true, Bool.or_eq_true, decide_eq_true_eq, beq_iff_eq] at h
  obtain ⟨⟨hs, hafter⟩, hnext⟩ := h
  have hu' : u * p.stride = u * q.stride := by
    rcases hs with hs | hs
    · simp [show u = 0 by omega]
    · rw [hs]
  rcases Nat.lt_or_ge u v with huv | huv
  · have := Nat.mul_le_mul_right q.stride huv
    rw [Nat.succ_mul] at this
    omega
  · have := Nat.mul_le_mul_right q.stride huv
    omega

theorem RPlace.not_covers_of_apart {p q : RPlace} {off : Nat} (h : p.apart q = true) (hp : p.Covers off) : ¬ q.Covers off := by
  simp only [apart, Bool.or_eq_true] at h
  rcases h with ((h | h) | h) | h
  · exact not_covers_of_before h hp
  · exact fun hq => not_covers_of_before h hq hp
  · exact not_covers_of_inGaps h hp
  · exact fun hq => not_covers_of_inGaps h hq hp

/-! ## A register's own offsets -/

theorem RPlace.ok_cases {p : RPlace} (h : p.ok = true) :
    (p.bits = 32 ∨ p.bits = 64) ∧ p.members ≠ 0 ∧ (p.stride = 0 ∧ p.count = 1 ∨ p.stride ≠ 0 ∧ p.bytes ≤ p.stride)
      ∧ (p.members = 1 ∨ p.step = p.bits / 8) := by
  simp only [ok, Bool.and_eq_true, Bool.or_eq_true, beq_iff_eq, bne_iff_ne] at h
  obtain ⟨⟨⟨hb, hm⟩, hs⟩, hw⟩ := h
  refine ⟨hb, hm, ?_, hw⟩
  split at hs
  · next h0 => exact .inl ⟨h0, by simpa using hs⟩
  · next h0 => exact .inr ⟨h0, by simpa using hs⟩

/-- The upper half, where there is one, lies within the register's own bytes. -/
theorem RPlace.half_lt {p : RPlace} (hok : p.ok = true) {up : Bool} (h64 : up = true → p.bits = 64) : (if up then 4 else 0) < p.bits / 8 := by
  obtain ⟨hbits, -, -, -⟩ := ok_cases hok
  cases up with
  | true => simp [h64 rfl]
  | false => rcases hbits with h | h <;> simp [h]

/-- The bytes of a unit from its members: each has its own `bits / 8`. -/
theorem RPlace.member_in_unit {p : RPlace} {m c : Nat} (hm : m < p.members) (hc : c < p.bits / 8) : m * p.step + c < p.bytes := by
  have := Nat.mul_le_mul_right p.step (show m ≤ p.members - 1 by omega)
  unfold bytes
  omega

/-- The looked-up unit and the offset in it of byte `e` of unit `u`. -/
theorem RPlace.unit_split {p : RPlace} (hok : p.ok = true) {u e : Nat} (hu : u < p.count) (he : e < p.bytes) :
    (if p.stride = 0 then 0 else (u * p.stride + e) / p.stride) = u
      ∧ (if p.stride = 0 then u * p.stride + e else (u * p.stride + e) % p.stride) = e := by
  obtain ⟨-, -, ⟨hs, hc⟩ | ⟨hs, hle⟩, -⟩ := ok_cases hok
  · simp [hs, show u = 0 by omega]
  · have he' : e < p.stride := by omega
    rw [if_neg hs, if_neg hs, Nat.mul_comm, Nat.mul_add_div (by omega), Nat.mul_add_mod, Nat.div_eq_of_lt he', Nat.mod_eq_of_lt he']
    exact ⟨rfl, rfl⟩

/-- What an offset in a unit names, by the unit's members. -/
theorem at?_unit {r : Reg} (hok : r.place.ok = true) {u e : Nat} (hu : u < r.place.count) (he : e < r.place.bytes) :
    r.at? (r.place.base + u * r.place.stride + e) =
      if r.place.members = 1 then
        (if e = 0 then some (u, false) else if e = 4 ∧ r.place.bits = 64 then some (u, true) else none)
      else if e / r.place.step < r.place.members then
        (if e % r.place.step = 0 then some (u * r.place.members + e / r.place.step, false)
         else if e % r.place.step = 4 then some (u * r.place.members + e / r.place.step, true) else none)
      else none := by
  obtain ⟨h1, h2⟩ := RPlace.unit_split hok hu he
  unfold Reg.at?
  simp only [show ¬ r.place.base + u * r.place.stride + e < r.place.base by omega, if_false,
    show r.place.base + u * r.place.stride + e - r.place.base = u * r.place.stride + e by omega, h1, h2, hu, if_true]

/-- A register finds its own places by their first byte and, where they have one, their upper half. -/
theorem at?_addr {r : Reg} (hok : r.place.ok = true) {i : Nat} (hi : i < r.instances) (up : Bool) (h64 : up = true → r.place.bits = 64) :
    r.at? (r.addr i + if up then 4 else 0) = some (i, up) := by
  obtain ⟨hbits, hmem, -, hstep⟩ := RPlace.ok_cases hok
  have hu : i / r.place.members < r.place.count := Nat.div_lt_of_lt_mul (by rw [Nat.mul_comm]; exact hi)
  have hm : i % r.place.members < r.place.members := Nat.mod_lt _ (by omega)
  have hc := RPlace.half_lt hok h64
  have hsplit : r.addr i + (if up then 4 else 0) = r.place.base + i / r.place.members * r.place.stride
      + (i % r.place.members * r.place.step + if up then 4 else 0) := by unfold Reg.addr; dsimp only; omega
  rw [hsplit, at?_unit hok hu (RPlace.member_in_unit hm hc)]
  by_cases h1 : r.place.members = 1
  · cases up <;> simp_all [Nat.mod_one]
  · have hs : r.place.step = r.place.bits / 8 := hstep.resolve_left h1
    rw [← hs] at hc
    have hdiv : (i % r.place.members * r.place.step + if up then 4 else 0) / r.place.step = i % r.place.members := by
      rw [Nat.mul_comm, Nat.mul_add_div (by omega), Nat.div_eq_of_lt hc, Nat.add_zero]
    have hmod : (i % r.place.members * r.place.step + if up then 4 else 0) % r.place.step = if up then 4 else 0 := by
      rw [Nat.mul_comm, Nat.mul_add_mod, Nat.mod_eq_of_lt hc]
    rw [if_neg h1, hdiv, hmod, if_pos hm, Nat.mul_comm (i / _), Nat.div_add_mod]
    cases up <;> simp

/-- The offset of member `m` of unit `u`. -/
theorem addr_of_coords {r : Reg} {u m : Nat} (hm : m < r.place.members) :
    r.addr (u * r.place.members + m) = r.place.base + u * r.place.stride + m * r.place.step := by
  unfold Reg.addr
  dsimp only
  rw [Nat.mul_comm u, Nat.mul_add_div (by omega), Nat.div_eq_of_lt hm, Nat.mul_add_mod, Nat.mod_eq_of_lt hm, Nat.add_zero]

/-- What a register finds is one of its places, at its first byte or its upper half. -/
theorem at?_eq_some {r : Reg} (hok : r.place.ok = true) {off i : Nat} {up : Bool} (h : r.at? off = some (i, up)) :
    i < r.instances ∧ off = r.addr i + (if up then 4 else 0) ∧ (up = true → r.place.bits = 64) := by
  obtain ⟨hbits, hmem, hstride, hstep⟩ := RPlace.ok_cases hok
  have found : ∀ u m, u < r.place.count → m < r.place.members → u * r.place.members + m < r.instances := fun u m hu hm => by
    have := Nat.mul_le_mul_right r.place.members hu
    rw [Nat.succ_mul] at this
    unfold Reg.instances
    omega
  unfold Reg.at? at h
  dsimp only at h
  split at h
  · cases h
  next hbase =>
  generalize hu : (if r.place.stride = 0 then 0 else (off - r.place.base) / r.place.stride) = u at h
  generalize he : (if r.place.stride = 0 then off - r.place.base else (off - r.place.base) % r.place.stride) = e at h
  have hoff : off = r.place.base + u * r.place.stride + e := by
    rcases hstride with ⟨hs, -⟩ | ⟨hs, -⟩
    · simp only [hs, if_true] at hu he ⊢
      omega
    · simp only [hs, if_false] at hu he
      have := Nat.div_add_mod' (off - r.place.base) r.place.stride
      rw [hu, he] at this
      omega
  split at h
  case isFalse => cases h
  next hcount =>
  split at h
  · next h1 =>
    have hm : 0 < r.place.members := by omega
    have haddr := addr_of_coords (r := r) (u := u) hm
    have hin := found u 0 hcount hm
    simp only [h1, Nat.mul_one, Nat.add_zero, Nat.zero_mul] at haddr hin
    split at h
    · next h0 =>
      obtain ⟨rfl, rfl⟩ := Prod.mk.inj (Option.some.inj h)
      exact ⟨hin, by simp [haddr, hoff, h0], nofun⟩
    · split at h
      · next h4 =>
        obtain ⟨rfl, rfl⟩ := Prod.mk.inj (Option.some.inj h)
        exact ⟨hin, by simp [haddr, hoff, h4.1], fun _ => h4.2⟩
      · cases h
  · next h1 =>
    have hs : r.place.step = r.place.bits / 8 := hstep.resolve_left h1
    split at h
    case isFalse => cases h
    next hm =>
    have haddr := addr_of_coords (r := r) (u := u) hm
    have hin := found u _ hcount hm
    have hdm := Nat.div_add_mod' e r.place.step
    split at h
    · next h0 =>
      obtain ⟨rfl, rfl⟩ := Prod.mk.inj (Option.some.inj h)
      exact ⟨hin, by rw [haddr, hoff]; simp; omega, nofun⟩
    · split at h
      · next h4 =>
        obtain ⟨rfl, rfl⟩ := Prod.mk.inj (Option.some.inj h)
        have hlt := Nat.mod_lt e (show 0 < r.place.step by omega)
        exact ⟨hin, by rw [haddr, hoff]; simp; omega, fun _ => by omega⟩
      · cases h

/-- The offset that a register finds is one of its bytes. -/
theorem covers_of_at? {r : Reg} (hok : r.place.ok = true) {off i : Nat} {up : Bool} (h : r.at? off = some (i, up)) : r.place.Covers off := by
  obtain ⟨hi, rfl, h64⟩ := at?_eq_some hok h
  obtain ⟨-, hmem, -, -⟩ := RPlace.ok_cases hok
  have hc := RPlace.half_lt hok h64
  have := RPlace.member_in_unit (Nat.mod_lt i (by omega)) hc
  refine ⟨i / r.place.members, Nat.div_lt_of_lt_mul (by rw [Nat.mul_comm]; exact hi), ?_, ?_⟩ <;> unfold Reg.addr <;> dsimp only <;> omega

/-! ## Every register -/

theorem Reg.mem_allRegs (r : Reg) : r ∈ allRegs := by
  have h : allRegs = (List.range 335).map Reg.ofNat := by decide +kernel
  have hr : r.ctorIdx < 335 := by cases r <;> decide
  rw [h]
  exact List.mem_map.mpr ⟨r.ctorIdx, List.mem_range.mpr hr, r.ofNat_ctorIdx⟩

theorem Reg.place_ok (r : Reg) : r.place.ok = true := by
  have h : ∀ r ∈ allRegs, r.place.ok = true := by decide +kernel
  exact h r r.mem_allRegs

/-- The register tables give no byte of PF BAR0 to two registers. -/
theorem allRegs_apart : allRegs.Pairwise fun r q => r.place.apart q.place = true := by
  have h : (allRegs.map Reg.place).Pairwise fun p q => p.apart q = true := by decide +kernel
  exact List.pairwise_map.mp h

theorem findRegIn_eq_some {l : List Reg} (hl : l.Pairwise fun r q => r.place.apart q.place = true) {r : Reg} (hr : r ∈ l) {off i : Nat}
    {up : Bool} (h : r.at? off = some (i, up)) : findRegIn l off = some (r, i, up) := by
  induction l with
  | nil => cases hr
  | cons q l ih =>
    obtain ⟨hq, hl'⟩ := List.pairwise_cons.mp hl
    rcases List.mem_cons.mp hr with rfl | hr'
    · simp only [findRegIn, h]
    · have hnone : q.at? off = none := by
        refine Option.eq_none_iff_forall_ne_some.mpr fun x hx => ?_
        exact RPlace.not_covers_of_apart (hq r hr') (covers_of_at? q.place_ok hx) (covers_of_at? r.place_ok h)
      simp only [findRegIn, hnone]
      exact ih hl' hr'

theorem at?_of_findRegIn {l : List Reg} {off : Nat} {r : Reg} {i : Nat} {up : Bool} (h : findRegIn l off = some (r, i, up)) :
    r.at? off = some (i, up) := by
  induction l with
  | nil => cases h
  | cons q l ih =>
    simp only [findRegIn] at h
    split at h
    · next hq => cases h; exact hq
    · exact ih h

/-- The offset of a register's place, and that of its upper half, find it. -/
theorem findReg_addr (r : Reg) {i : Nat} (hi : i < r.instances) (up : Bool) (h64 : up = true → r.place.bits = 64) :
    findReg (r.addr i + if up then 4 else 0) = some (r, i, up) :=
  findRegIn_eq_some allRegs_apart r.mem_allRegs (at?_addr r.place_ok hi up h64)

/-- What an offset finds lies at that offset. -/
theorem findReg_eq_some {off : Nat} {r : Reg} {i : Nat} {up : Bool} (h : findReg off = some (r, i, up)) :
    i < r.instances ∧ off = r.addr i + (if up then 4 else 0) ∧ (up = true → r.place.bits = 64) :=
  at?_eq_some r.place_ok (at?_of_findRegIn h)

/-- No two registers, and no two places of one, share their offset. -/
theorem Reg.addr_inj {r q : Reg} {i j : Nat} (hi : i < r.instances) (hj : j < q.instances) (h : r.addr i = q.addr j) : r = q ∧ i = j := by
  have hr := findReg_addr r hi false nofun
  have hq := findReg_addr q hj false nofun
  simp only [Bool.false_eq_true, if_false, Nat.add_zero] at hr hq
  rw [h, hq] at hr
  simpa [eq_comm] using hr

end Sys2Proof.Machine

namespace Sys2Proof.Proofs
open Sys2Proof.Machine

/-- Settles O58: the tables' places lie apart (`allRegs_apart`), so a lookup finds the one register whose place holds the offset. -/
theorem registerMap : Obligations.RegisterMap := by
  unfold Obligations.RegisterMap
  refine ⟨fun r i hi => ⟨by simpa using findReg_addr r hi false nofun, fun h64 => by simpa using findReg_addr r hi true fun _ => h64⟩, ?_⟩
  exact fun d r q i j v => ⟨rd_wr_same d r i v, rd_wr_other d v⟩

end Sys2Proof.Proofs
end

section
/-!
PROOF. The limits of R3: which commands move the clock and power limits and the clock, and that every one of them keeps them within the
variant record.
-/
namespace Sys2Proof.Machine

/-! ## The limits of a state made from another -/

@[simp] theorem with_lim (s : State) (l : Limits) (d : Dev) : (s.with l d).lim = l := rfl
@[simp] theorem limitsEnd_lim (s : State) (q status : Nat) : (s.limitsEnd q status).lim = s.lim := rfl

/-- A clock that stays within the record may be set. -/
theorem Limits.within_clock {l : Limits} (h : l.within) {n : Nat} (hn : n ≤ l.recClock) : { l with clock := n }.within := ⟨h.1, hn, h.2.2⟩

theorem setPower_lim {s : State} {clock power : Nat} (hc : clock ≤ s.lim.recClock) (hp : power ≤ s.lim.recPower) :
    (s.setPower clock power).lim = { s.lim with clockLimit := clock, powerLimit := power } := by
  simp only [State.setPower, with_lim, Nat.min_eq_left hc, Nat.min_eq_left hp]

/-- The invariant of R3: the limits of a state lie within its variant record. -/
structure State.Bounded (s : State) : Prop where
  within : s.lim.within

namespace State.Bounded

theorem of_lim {s t : State} (hs : s.Bounded) (h : t.lim = s.lim) : t.Bounded := ⟨h ▸ hs.within⟩

theorem same {s : State} (hs : s.Bounded) (d : Dev) : (s.with s.lim d).Bounded := ⟨hs.within⟩

theorem onDev {s : State} (hs : s.Bounded) (d : Dev) : { s with dev := d }.Bounded := ⟨hs.within⟩

theorem of_clock {s t : State} (hs : s.Bounded) {n : Nat} (hn : n ≤ s.lim.recClock) (h : t.lim = { s.lim with clock := n }) : t.Bounded :=
  ⟨h ▸ Limits.within_clock hs.within hn⟩

/-- The limits before IDENTIFY are all zero. -/
theorem of_reset {t : State} (h : t.lim = {}) : t.Bounded := ⟨h ▸ ⟨Nat.le_refl _, Nat.le_refl _, Nat.le_refl _⟩⟩

theorem ite {p : Prop} [Decidable p] {s t : State} (hs : s.Bounded) (ht : t.Bounded) : (if p then s else t).Bounded := by
  split
  · exact hs
  · exact ht

/-! ### SET_LIMITS (18 R515, R519) -/

theorem setPower {s : State} (hs : s.Bounded) (clock power : Nat) : (s.setPower clock power).Bounded :=
  ⟨Nat.min_le_right _ _, hs.within.2.1, Nat.min_le_right _ _⟩

theorem limitsEnd {s : State} (hs : s.Bounded) (q status : Nat) : (s.limitsEnd q status).Bounded := hs.of_lim rfl

/-- SET_LIMITS does what its OP says, or nothing. -/
theorem limitsCmd {s : State} {q : Nat} {ok : Nat → Bool} {f : Cmd → State} (hs : s.Bounded) (hf : ∀ c, (f c).Bounded) :
    (s.limitsCmd q ok f).Bounded := by
  unfold State.limitsCmd
  split
  · exact hs
  · exact ite (hf _) hs

theorem setLimits {s : State} (hs : s.Bounded) (q : Nat) : (s.setLimits q).Bounded :=
  limitsCmd hs fun _ => ite (hs.limitsEnd _ _) (limitsEnd (same (hs.setPower _ _) _) _ _)

theorem sarkingEnter {s : State} (hs : s.Bounded) (q : Nat) : (s.sarkingEnter q).Bounded :=
  limitsCmd hs fun _ => ite (hs.limitsEnd _ _) (limitsEnd (hs.same _) _ _)

theorem sarkExit {s : State} (hs : s.Bounded) : s.sarkExit.Bounded := hs.of_clock hs.within.1 rfl

theorem sarkingExit {s : State} (hs : s.Bounded) (q : Nat) : (s.sarkingExit q).Bounded :=
  limitsCmd hs fun _ => ite (hs.limitsEnd _ _) (ite (hs.limitsEnd _ _) (limitsEnd hs.sarkExit _ _))

/-! ### The governor and the heat (18 R511 to R513) -/

theorem governorSample {s : State} (hs : s.Bounded) (mv da w : Nat) : (s.governorSample mv da w).Bounded :=
  ite hs (ite (hs.of_lim rfl) (ite (hs.of_clock (Nat.le_trans (Nat.sub_le _ 50) hs.within.2.1) rfl) (hs.of_lim rfl)))

theorem governorRaise {s : State} (hs : s.Bounded) : s.governorRaise.Bounded :=
  ite hs (hs.of_clock (Nat.le_trans (Nat.min_le_left _ _) hs.within.1) rfl)

theorem apexExhausted {s : State} (hs : s.Bounded) : s.apexExhausted.Bounded := ite hs (hs.of_lim rfl)

theorem thermalSample {s : State} (hs : s.Bounded) (junction stack inlet sensor : Nat) :
    (s.thermalSample junction stack inlet sensor).Bounded := by
  refine ite hs (hs.of_clock ?_ rfl)
  obtain ⟨hlimit, hclock, -⟩ := hs.within
  split
  · exact hclock
  split
  · omega
  split <;> omega

/-! ### Bring-up (17 R489, R497) -/

theorem limitsStep {s : State} (hs : s.Bounded) : s.limitsStep.Bounded :=
  ite (hs.same _) (of_clock (hs.setPower _ _) (hs.setPower _ _).within.1 rfl)

theorem opened {s : State} (hs : s.Bounded) : s.opened.Bounded := hs.of_clock hs.within.1 rfl

theorem identified (s : State) : s.identified.Bounded := ⟨Nat.le_refl _, Nat.le_refl _, Nat.le_refl _⟩

theorem arraySwitchEnd {s : State} (hs : s.Bounded) (failed : Option Nat) : (s.arraySwitchEnd failed).Bounded :=
  ite (hs.same _) (ite (hs.same _) (opened (hs.same _)))

theorem bringCmd {s : State} (hs : s.Bounded) (c : Nat) : (s.bringCmd c).Bounded := by
  refine ite ?_ (ite (hs.same _) ?_)
  · split <;> exact hs.same _
  · split
    case h_7 => exact limitsStep (hs.same _)
    all_goals exact hs.same _

theorem bringStepDone {s : State} (hs : s.Bounded) (c : Nat) (w : StepWork) : (s.bringStepDone c w).Bounded := by
  refine ite hs (ite (hs.same _) ?_)
  split
  case h_2 => exact same (identified s) _
  case h_5 | h_7 | h_8 | h_9 => exact ite (hs.same _) hs
  all_goals exact hs.same _

theorem hostWritesEarly {s : State} (hs : s.Bounded) (bytes : Nat) {f : State → State} (hf : ∀ s, s.Bounded → (f s).Bounded) :
    (s.hostWritesEarly bytes f).Bounded :=
  ite hs (ite (hf _ (hs.onDev _)) (hs.onDev _))

/-! ### Register accesses (00 R9): of the registers BRING_CMD alone reaches the limits -/

theorem regSet {s : State} (hs : s.Bounded) (r : Reg) (i v : Nat) : (s.regSet r i v).Bounded := by
  unfold State.regSet
  dsimp only
  split
  case h_1 => exact hs.bringCmd _
  case h_7 | h_8 | h_9 | h_14 | h_19 | h_29 => exact ite hs (hs.onDev _)
  all_goals exact hs.onDev _

theorem busPut {s : State} (hs : s.Bounded) (o size v : Nat) : (s.busPut o size v).Bounded := by
  refine ite (hs.onDev _) (ite (hs.onDev _) ?_)
  split
  · exact hs
  · exact ite (ite (regSet (hs.onDev _) _ _ _) (hs.onDev _)) (hs.regSet _ _ _)

theorem registerWrite {s : State} (hs : s.Bounded) (fn off size v : Nat) : (s.registerWrite fn off size v).Bounded := by
  refine ite hs (ite (hs.onDev _) ?_)
  split
  · exact hs.onDev _
  · exact ite (hs.onDev _) (ite (busPut (hs.onDev _) _ _ _) (hs.onDev _))

theorem registerRead {s : State} (hs : s.Bounded) (fn off size : Nat) : (s.registerRead fn off size).Bounded := by
  refine ite hs (ite (hs.onDev _) ?_)
  split
  · exact hs.onDev _
  · exact ite (hs.onDev _) (ite (hs.onDev _) (hs.onDev _))

/-! ### Resets (16 R479; 18 R508) -/

theorem railsGood {s : State} (hs : s.Bounded) (slot : Nat) : (s.railsGood slot).Bounded := ite hs (of_reset rfl)

theorem perstAssert {s : State} (hs : s.Bounded) : s.perstAssert.Bounded := ite (hs.of_lim rfl) (of_reset rfl)

theorem supplyOvervoltage {s : State} (hs : s.Bounded) (mv : Nat) : (s.supplyOvervoltage mv).Bounded := ite hs (of_reset rfl)

theorem supplyReset {s : State} (hs : s.Bounded) (mv : Nat) : (s.supplyReset mv).Bounded := ite hs (of_reset rfl)

/-! ### Every step -/

/-- A meaning that answers a bounded state. -/
theorem of_next {t u : State} (hu : u.Bounded) (h : (.next u : Out) = .next t) : t.Bounded := by
  cases h
  exact hu

/-- Every command keeps the limits within the variant record: those that are named here move them or act on a whole state, every other
acts on the module alone. -/
theorem exec {s t : State} (hs : s.Bounded) (c : Instr) (h : exec c s = .next t) : t.Bounded := by
  cases c with
  | setLimits q => exact of_next (hs.setLimits q) h
  | sarkingEnter q => exact of_next (hs.sarkingEnter q) h
  | sarkingExit q => exact of_next (hs.sarkingExit q) h
  | arraySwitchEnd failed => exact of_next (hs.arraySwitchEnd failed) h
  | registerWrite fn off size v => exact of_next (hs.registerWrite fn off size v) h
  | registerReadClear fn off => exact of_next (hs.registerRead fn off _) h
  | registerLowHalfRead fn off => exact of_next (hs.registerRead fn off 4) h
  | loadGable | identify | dieTest | flashing | memTrain | memInit | bringCalibrate | pegLoad | fabric | ethernet | limits | openStep | reload =>
    exact of_next (hs.hostWritesEarly 4 fun _ hu => hu.bringCmd _) h
  | bringStepDone c w => exact of_next (hs.bringStepDone c w) h
  | railsGood slot => exact of_next (hs.railsGood slot) h
  | pwrEnLow => exact of_next (of_reset rfl) h
  | perstAssert => exact of_next hs.perstAssert h
  | supplyOvervoltage mv => exact of_next (hs.supplyOvervoltage mv) h
  | supplyReset mv => exact of_next (hs.supplyReset mv) h
  | governorSample mv da w => exact of_next (hs.governorSample mv da w) h
  | governorRaise => exact of_next hs.governorRaise h
  | apexExhausted => exact of_next hs.apexExhausted h
  | thermalSample junction stack inlet sensor => exact of_next (hs.thermalSample junction stack inlet sensor) h
  | _ => exact of_next (hs.onDev _) h

/-- A step keeps the limits within the variant record; a beat leaves them. -/
theorem step {s t : State} (hs : s.Bounded) (h : step s = .next t) : t.Bounded := by
  unfold Machine.step at h
  split at h
  · exact of_next (hs.onDev _) h
  · next c r _ => exact exec (s := { s with pending := r }) ⟨hs.within⟩ c h

end State.Bounded

end Sys2Proof.Machine

namespace Sys2Proof.Proofs
open Sys2Proof.Machine Sys2Proof.Claims

/-- SET_LIMITS that runs does what its OP says. -/
theorem limitsCmd_of_runs {s : State} {q : Nat} {c : Cmd} (hr : Runs s q 0x82 c) {ok : Nat → Bool} (hok : ok (c.bits 16 0 2) = true)
    (f : Cmd → State) : s.limitsCmd q ok f = f c := by
  simp only [State.limitsCmd, hr.1, hok, if_true]

/-- SET_LIMITS with OP SET, where the packet and both values are in order, sets both limits. -/
theorem setLimits_lim {s : State} {q : Nat} {c : Cmd} (hr : Runs s q 0x82 c) (hop : c.bits 16 0 2 = 0)
    (honly : c.only 1 [(16, 0, 3), (20, 0, 32)] = true) (h50 : c.at 20 2 % 50 = 0) (h500 : 500 ≤ c.at 20 2) (hmax : c.at 20 2 ≤ s.lim.recClock)
    (h1600 : 1600 ≤ c.at 22 2) (hpmax : c.at 22 2 ≤ s.lim.recPower) :
    (s.setLimits q).lim = { s.lim with clockLimit := c.at 20 2, powerLimit := c.at 22 2 } := by
  have hok : (c.bits 16 0 2 == 0 && c.only 1 [(16, 0, 3), (20, 0, 32)] && c.at 20 2 % 50 == 0 && inRange 500 s.lim.recClock (c.at 20 2)
      && inRange 1600 s.lim.recPower (c.at 22 2)) = true := by simp [hop, honly, h50, inRange, h500, hmax, h1600, hpmax]
  rw [State.setLimits, limitsCmd_of_runs hr (by rw [hop]; rfl)]
  simp only [show c.at 20 2 ≠ 0 by omega, show c.at 22 2 ≠ 0 by omega, if_false, hok, Bool.not_true, Bool.false_eq_true, limitsEnd_lim, with_lim]
  exact setPower_lim hmax hpmax

/-- Settles O3: SET sets the limits it asks for (`setLimits_lim`), and every step keeps them within the record, by cases on the command
(`State.Bounded.exec`). -/
theorem limitsStayBelowRecord : Obligations.LimitsStayBelowRecord := by
  unfold Obligations.LimitsStayBelowRecord
  refine ⟨fun s q c hruns _ hop honly h50 h500 hmax h1600 hpmax => ⟨s.setLimits q, rfl, ?_⟩, fun s t hw h => (State.Bounded.step ⟨hw⟩ h).within⟩
  exact setLimits_lim hruns hop honly h50 h500 hmax h1600 hpmax

end Sys2Proof.Proofs
end

section
/-!
PROOF. SET_LIMITS of 18 R515 to R519: the statement fails for a state that no run reaches. It bounds no bay number, and the statistics of
a command of bay 160 count in NUMSTAT_DROPPED of that number, whose offset is THATCH_ARRAY_STS.
-/
namespace Sys2Proof.Proofs
open Sys2Proof.Machine Sys2Proof.Claims

/-- SET_LIMITS with OP SARKING_EXIT, on SQ 3. -/
def exitCmd : Cmd := { sq := 3, bay := 0, pkt := 0x82 + 2 * 2 ^ 128, flush := false, started := 0, order := 1 }

/-- An OBJ_PLACE on SQ 5 that names bay 160 and carries a contribution to the statistics. -/
def strayPlace : Cmd := { sq := 5, bay := 160, pkt := 0x61, flush := false, started := 0, order := 0, contribs := [{ tensorId := 0 }] }

/-- The object that it places, into flash. -/
def placedObj : Obj :=
  { bay := 0, id := 1, size := 0, small := true, home := 1, backing := 0, pool := false, pin := false, underlay := false, exportMode := 0, key := 0
    locs := []
    place := some { sq := 5, tileBytes := 0, target := 0, total := 0, left := [], moved := 0, event := 0, tier := 4, backing := 0, pool := false
                    pin := false, intoBacking := false, keepClean := false } }

/-- Sarking mode before OPEN, with no cause that keeps it, the exit on SQ 3 and the placement waiting on SQ 5. -/
def strayExit : State :=
  { dev := { regs := [(Reg.powerSts.addr 0, 2)], objs := [placedObj]
             sqs := [(3, { bay := 0, admin := false, ring := 0, log2 := 4, headAddr := 0, cq := 0, run := some exitCmd })
               , (5, { bay := 0, admin := false, ring := 0, log2 := 4, headAddr := 0, cq := 0, run := some strayPlace })] } }

/-- SARKING_EXIT leaves the array SPLIT (2) before OPEN, and then the end of the placement, counted at the same offset, makes it read JOINED. -/
theorem strayExit_config : (strayExit.sarkingExit 3).dev.fd .thatchArraySts 0 0 2 = 1 := by decide +kernel

/-- Refutes O42: in `strayExit`, which meets every hypothesis of SARKING_EXIT, the array reads JOINED before OPEN. -/
theorem not_limitCommands : ¬ Obligations.LimitCommands := by
  unfold Obligations.LimitCommands
  intro h
  obtain ⟨-, -, hexit, -⟩ := h strayExit 3 exitCmd (by decide +kernel) rfl rfl rfl (by decide +kernel)
  obtain ⟨t, ht, -, -, -, -, -, hfd⟩ := hexit (by decide +kernel) (by decide +kernel) (by decide +kernel) (by decide +kernel)
  obtain rfl : strayExit.sarkingExit 3 = t := Host.Outcome.next.inj ht
  rw [strayExit_config] at hfd
  exact absurd hfd (by decide +kernel)

end Sys2Proof.Proofs
end

section
/-!
PROOF. Layers for the host's accesses (00 R6 to R9): the fields of a register, what a write and a read of PF BAR0 come to, and what the
byte counters leave alone.
-/
namespace Sys2Proof.Machine

/-! ## Fields of a register -/

/-- The fields lie apart and within the register. -/
def RField.apart (f g : RField) : Bool := decide (f.lo + f.w ≤ g.lo) || decide (g.lo + g.w ≤ f.lo)

theorem RField.apart_comm (f g : RField) : f.apart g = g.apart f := by
  simp only [apart, Bool.or_comm]

/-- The register tables give no bit of a register to two fields. -/
theorem Reg.fields_apart (r : Reg) : r.fields.Pairwise fun f g => f.apart g = true := by
  have h : ∀ r ∈ allRegs, r.fields.Pairwise fun f g => f.apart g = true := by decide +kernel
  exact h r r.mem_allRegs

theorem Reg.field_le_bits {r : Reg} {f : RField} (hf : f ∈ r.fields) : f.lo + f.w ≤ r.place.bits := by
  have h : ∀ r ∈ allRegs, ∀ f ∈ r.fields, f.lo + f.w ≤ r.place.bits := by decide +kernel
  exact h r r.mem_allRegs f hf

theorem Reg.bits_cases (r : Reg) : r.place.bits = 32 ∨ r.place.bits = 64 := (RPlace.ok_cases r.place_ok).1

/-- A register's value with a field replaced, where `upd` names a value for it. -/
def putField (upd : RField → Option Nat) (n : Nat) (f : RField) : Nat :=
  match upd f with
  | some x => setFld n f.lo f.w x
  | none => n

/-- The same for a list of fields. -/
def putFields (upd : RField → Option Nat) (fs : List RField) (n : Nat) : Nat := fs.foldl (putField upd) n

theorem fld_putField_same (upd : RField → Option Nat) (n : Nat) (f : RField) :
    fld (putField upd n f) f.lo f.w = match upd f with | some x => x % 2 ^ f.w | none => fld n f.lo f.w := by
  unfold putField
  cases upd f with
  | none => rfl
  | some x => exact fld_setFld_same n f.lo f.w x

theorem fld_putField_apart (upd : RField → Option Nat) (n : Nat) {f g : RField} (h : f.apart g = true) :
    fld (putField upd n f) g.lo g.w = fld n g.lo g.w := by
  simp only [RField.apart, Bool.or_eq_true, decide_eq_true_eq] at h
  unfold putField
  cases upd f with
  | none => rfl
  | some x => exact h.elim (fun h => fld_setFld_above h) fun h => fld_setFld_below h

theorem fld_putFields_apart (upd : RField → Option Nat) {fs : List RField} {g : RField} (h : ∀ f ∈ fs, f.apart g = true) (n : Nat) :
    fld (putFields upd fs n) g.lo g.w = fld n g.lo g.w := by
  induction fs generalizing n with
  | nil => rfl
  | cons f fs ih =>
    obtain ⟨hf, hfs⟩ := List.forall_mem_cons.mp h
    exact (ih hfs _).trans (fld_putField_apart upd n hf)

/-- A field reads as it was put, or as before. -/
theorem fld_putFields (upd : RField → Option Nat) {fs : List RField} (hfs : fs.Pairwise fun f g => f.apart g = true) {g : RField} (hg : g ∈ fs)
    (n : Nat) : fld (putFields upd fs n) g.lo g.w = match upd g with | some x => x % 2 ^ g.w | none => fld n g.lo g.w := by
  induction fs generalizing n with
  | nil => cases hg
  | cons f fs ih =>
    obtain ⟨hf, hfs'⟩ := List.pairwise_cons.mp hfs
    rcases List.mem_cons.mp hg with rfl | hg'
    · have hlater := fld_putFields_apart upd (fun f h => (RField.apart_comm f g).trans (hf f h)) (putField upd n g)
      exact hlater.trans (fld_putField_same upd n g)
    · rw [← fld_putField_apart upd n (hf g hg')]
      exact ih hfs' hg' _

/-- What a write of `x` puts into a field, by its type (Table 0-5). -/
def fieldPut (ready : Bool) (x : Nat) (f : RField) : Option Nat :=
  match f.ty with
  | .rw => some (fld x f.lo f.w)
  | .rwl => if ready then none else some (fld x f.lo f.w)
  | .rw1c => if fld x f.lo f.w = 0 then none else some 0
  | _ => none

/-- Is every written field's value within the ranges that it states (R546)? -/
def Reg.allowsWrite (r : Reg) (x : Nat) : Bool := r.fields.all fun f => (f.ty != .rw && f.ty != .rwl) || f.allows (fld x f.lo f.w)

/-- A write of a register: all its fields by their types, or none where a value is out of its field's ranges. -/
theorem regPut_eq (d : Dev) (r : Reg) (i x : Nat) :
    d.regPut r i x = if r.allowsWrite x then d.wr r i (putFields (fieldPut d.ready x) r.fields (d.rd r i)) else d := by
  have hany : (r.fields.any fun f => (f.ty == .rw || f.ty == .rwl) && !f.allows (fld x f.lo f.w)) = !r.allowsWrite x := by
    rw [Reg.allowsWrite, List.not_all_eq_any_not]
    congr 1
    funext f
    simp [bne]
  have hstep : putField (fieldPut d.ready x) = fun n f => match f.ty with
      | .rw => setFld n f.lo f.w (fld x f.lo f.w)
      | .rwl => if d.ready then n else setFld n f.lo f.w (fld x f.lo f.w)
      | .rw1c => if fld x f.lo f.w = 0 then n else setFld n f.lo f.w 0
      | _ => n := by
    funext n f
    unfold putField fieldPut
    cases f.ty with
    | rwl => cases d.ready <;> rfl
    | rw1c => by_cases h : fld x f.lo f.w = 0 <;> simp [h]
    | _ => rfl
  unfold Dev.regPut putFields
  simp only [hany, hstep]
  cases r.allowsWrite x <;> rfl

/-- The value that a read leaves in a register: its RC fields are zero (Table 0-5). -/
def clearRc (f : RField) : Option Nat := if f.ty = .rc then some 0 else none

/-- A field of a register after a write of all its fields. -/
theorem fd_wr_putFields (d : Dev) (upd : RField → Option Nat) {r : Reg} {i : Nat} {f : RField} (hf : f ∈ r.fields) :
    (d.wr r i (putFields upd r.fields (d.rd r i))).fd r i f.lo f.w = match upd f with | some x => x % 2 ^ f.w | none => d.fd r i f.lo f.w := by
  unfold Dev.fd
  rw [rd_wr_same, fld_mod (r.field_le_bits hf), fld_putFields upd r.fields_apart hf]

end Sys2Proof.Machine
end

section
/-!
PROOF. The host's requests to the module: who answers them, and what a write or a read of PF BAR0 comes to (00 R6, R7; 16 R454, R456, R460).
-/
namespace Sys2Proof.Machine

/-! ## The byte counters change nothing that decides an access -/

theorem fd_rx (d : Dev) (n : Nat) {r : Reg} {i : Nat} (lo w : Nat) (h : r.addr i ≠ Reg.hostifRxBytes.addr 0) :
    (d.rx n).fd r i lo w = d.fd r i lo w := fd_wr_other d _ lo w h

theorem rbit_rx (d : Dev) (n : Nat) {r : Reg} {i : Nat} (lo : Nat) (h : r.addr i ≠ Reg.hostifRxBytes.addr 0) :
    (d.rx n).rbit r i lo = d.rbit r i lo := rbit_wr_other d _ lo h

@[simp] theorem ready_rx (d : Dev) (n : Nat) : (d.rx n).ready = d.ready := rbit_rx d n 0 (by decide)
@[simp] theorem linkUp_rx (d : Dev) (n : Nat) : (d.rx n).linkUp = d.linkUp := rbit_rx d n 9 (by decide)
@[simp] theorem held_rx (d : Dev) (n : Nat) : (d.rx n).held = d.held := rbit_rx d n 0 (by decide)
@[simp] theorem powerState_rx (d : Dev) (n : Nat) : (d.rx n).powerState = d.powerState := fd_rx d n 0 2 (by decide)
@[simp] theorem powerHold_rx (d : Dev) (n : Nat) : (d.rx n).powerHold = d.powerHold := by simp only [Dev.powerHold, powerState_rx]
@[simp] theorem bar4Open_rx (d : Dev) (n : Nat) : (d.rx n).bar4Open = d.bar4Open := by
  simp only [Dev.bar4Open, Dev.sarking, Dev.reloading, powerState_rx, rbit_rx d n 4 (r := .bringSts) (i := 0) (by decide)]
@[simp] theorem stageBusy_rx (d : Dev) (n : Nat) : (d.rx n).stageBusy = d.stageBusy := by
  simp only [Dev.stageBusy, rbit_rx d n _ (r := .bringStepRun) (i := 0) (by decide), rbit_rx d n 1 (r := .bringStageSts) (i := 0) (by decide)]

/-- A register's place is not the byte counter's, unless it is the byte counter. -/
theorem addr_ne_of_ne {r q : Reg} {i j : Nat} (hi : i < r.instances) (hj : j < q.instances) (h : r ≠ q) : r.addr i ≠ q.addr j :=
  fun ha => h (Reg.addr_inj hi hj ha).1

/-! ## Who answers -/

theorem hostTakes_of_answers {d : Dev} (hl : d.linkUp = true) {fn : Nat} (ha : d.answers fn = true) (f : Dev → Dev) : d.hostTakes [fn] f = f d := by
  simp [Dev.hostTakes, hl, ha]

theorem answers_zero {d : Dev} (h : d.host.d3.contains 0 = false) : d.answers 0 = true := by
  unfold Dev.answers Dev.functionThere
  rw [h]
  rfl

/-- No function answers, or the offset lies outside the function's BAR0 (R456). -/
def Dev.outside (d : Dev) (fn off : Nat) : Prop := d.answers fn = false ∨ barSize fn ≤ off

theorem Dev.outside_iff (d : Dev) (fn off : Nat) : d.outside fn off ↔ (!d.answers fn || decide (off ≥ barSize fn)) = true := by
  simp [outside]

theorem registerWrite_outside {s : State} (hl : s.dev.linkUp = true) {fn off : Nat} (h : s.dev.outside fn off) (size v : Nat) :
    s.registerWrite fn off size v = { s with dev := s.dev.unsupported } := by
  unfold State.registerWrite
  dsimp only
  rw [if_neg (by simp [hl]), if_pos ((Dev.outside_iff _ _ _).mp h)]

theorem registerRead_outside {s : State} (hl : s.dev.linkUp = true) {fn off : Nat} (h : s.dev.outside fn off) (size : Nat) :
    s.registerRead fn off size = { s with dev := s.dev.unsupported } := by
  unfold State.registerRead
  dsimp only
  rw [if_neg (by simp [hl]), if_pos ((Dev.outside_iff _ _ _).mp h)]

/-- A function answers at an offset of its BAR0, which is offset `o` of PF BAR0. -/
structure Dev.Takes (d : Dev) (fn off o : Nat) : Prop where
  link : d.linkUp = true
  answers : d.answers fn = true
  inside : off < barSize fn
  offset : pfOffset fn off = some o

theorem Dev.Takes.not_outside {d : Dev} {fn off o : Nat} (h : d.Takes fn off o) : ¬ (!d.answers fn || decide (off ≥ barSize fn)) = true := by
  have := h.inside
  simp [h.answers, this]

/-- What a write that a function takes comes to. -/
theorem Dev.Takes.registerWrite {s : State} {fn off o : Nat} (h : s.dev.Takes fn off o) (size v : Nat) :
    s.registerWrite fn off size v =
      if breaksR6 o size then { s with dev := s.dev.unsupported }
      else if s.dev.stepDone 1 || early0 o then { s with dev := s.dev.rx size }.busPut o size v else { s with dev := s.dev.rx size } := by
  unfold State.registerWrite
  dsimp only
  rw [if_neg (by simp [h.link]), if_neg h.not_outside, h.offset]

/-- The answer to a read: its bytes are counted, and go to the host. -/
def State.answered (s : State) (d : Dev) (size v : Nat) : State := { s with dev := { (d.tx size).send .host 2 [v] with reply := [v] } }

/-- What a read that a function takes comes to. -/
theorem Dev.Takes.registerRead {s : State} {fn off o : Nat} (h : s.dev.Takes fn off o) (size : Nat) :
    s.registerRead fn off size =
      if breaksR6 o size then { s with dev := s.dev.unsupported }
      else if !s.dev.stepDone 1 && !early0 o then s.answered s.dev size 0
      else s.answered (s.readDone o size) size (s.busGet o size) := by
  unfold State.registerRead
  dsimp only
  rw [if_neg (by simp [h.link]), if_neg h.not_outside, h.offset]
  rfl

/-! ## The bus: offsets that name registers -/

/-- An offset of PF BAR0 that names a register and is awake: not of the MSI-X tables, of the error ring or of the window. -/
structure Dev.AtReg (d : Dev) (o : Nat) (r : Reg) (i : Nat) (hi : Bool) : Prop where
  found : findReg o = some (r, i, hi)
  notMsix : o < 0x10000 ∨ 0x20000 ≤ o
  notRing : o < 0x51000 ∨ 0x52000 ≤ o
  notStage : o < 0x1000000
  awake : d.stepDone 1 = true ∨ early0 o = true

namespace Dev.AtReg

variable {d : Dev} {o i : Nat} {r : Reg} {hi : Bool}

theorem inst (h : d.AtReg o r i hi) : i < r.instances := (findReg_eq_some h.found).1

theorem wide (h : d.AtReg o r i true) : r.place.bits = 64 := (findReg_eq_some h.found).2.2 rfl

theorem ne_rx (h : d.AtReg o r i hi) (hr : r ≠ .hostifRxBytes) : r.addr i ≠ Reg.hostifRxBytes.addr 0 := addr_ne_of_ne h.inst (by decide) hr

theorem ne_tx (h : d.AtReg o r i hi) (hr : r ≠ .hostifTxBytes) : r.addr i ≠ Reg.hostifTxBytes.addr 0 := addr_ne_of_ne h.inst (by decide) hr

theorem not_stage (h : d.AtReg o r i hi) : ¬ 0x1000000 ≤ o := Nat.not_le.mpr h.notStage

theorem not_msix (h : d.AtReg o r i hi) : ¬ (0x10000 ≤ o ∧ o < 0x20000) := by have := h.notMsix; omega

theorem not_ring (h : d.AtReg o r i hi) : ¬ (0x51000 ≤ o ∧ o < 0x52000) := by have := h.notRing; omega

end Dev.AtReg

/-- Registers are whole where they are accessed in their own width. -/
theorem Reg.not_half (r : Reg) : ¬ (r.place.bits = 64 ∧ r.place.bits / 8 = 4) := by omega

/-- A write of a register in its own width. -/
theorem busPut_whole {s : State} {o i : Nat} {r : Reg} (h : s.dev.AtReg o r i false) (v : Nat) :
    s.busPut o (r.place.bits / 8) v = s.regSet r i (v % 2 ^ r.place.bits) := by
  have h8 : 8 * (r.place.bits / 8) = r.place.bits := by rcases r.bits_cases with h | h <;> rw [h]
  unfold State.busPut
  dsimp only
  rw [if_neg h.not_stage, if_neg h.not_msix, h.found]
  simp only [if_neg r.not_half, h8]

/-- A write of the lower half waits for the upper one. -/
theorem busPut_low {s : State} {o i : Nat} {r : Reg} (h : s.dev.AtReg o r i false) (h64 : r.place.bits = 64) (v : Nat) :
    s.busPut o 4 v = { s with dev := { s.dev with writeLatch := smPut s.dev.writeLatch (r.addr i) (v % 2 ^ 32) } } := by
  unfold State.busPut
  dsimp only
  rw [if_neg h.not_stage, if_neg h.not_msix, h.found]
  simp only [h64, and_self, if_true, Bool.false_eq_true, if_false]

/-- A write of the upper half takes the lower one that waits. -/
theorem busPut_high {s : State} {o i : Nat} {r : Reg} (h : s.dev.AtReg o r i true) {low : Nat} (hl : smFind s.dev.writeLatch (r.addr i) = some low)
    (v : Nat) : s.busPut o 4 v =
      { s with dev := { s.dev with writeLatch := smDel s.dev.writeLatch (r.addr i) } }.regSet r i (low + v % 2 ^ 32 * 2 ^ 32) := by
  unfold State.busPut
  dsimp only
  rw [if_neg h.not_stage, if_neg h.not_msix, h.found]
  simp only [h.wide, and_self, if_true, hl, Option.getD_some]

/-- The registers whose write means more than their fields. -/
def actingRegs : List Reg := [.bringCmd, .bayTrapCtrl, .numstatCtrl, .pfstatCtrl, .thatchArrayCtrl, .bayAdminCtrl, .bayAdminSqAddr, .bayAdminCqAddr
  , .bayAdminHeadAddr, .bayEvqCtrl, .eaveHotThresh, .bayEvqHead, .queueInspectSel, .tierT4Bytes, .reedlineRouteData, .reedlinePeerOp, .reedlinePortCtrl
  , .ethConnCtrl, .ethConnCfg, .ethConnRemoteQpn, .ethConnPsn, .ethConnGidLo, .ethConnGidHi, .ethPortCtrl, .purlinCtrl, .purlinSet, .purlinHoldCtrl
  , .hostifLinkCtrl, .hostifBar4Base, .hostifErr, .powerTripCtrl]

/-- A write of any other register stores its fields. -/
theorem regSet_fields {r : Reg} (h : r ∉ actingRegs) (s : State) (i v : Nat) : s.regSet r i v = { s with dev := s.dev.regPut r i v } := by
  unfold State.regSet
  split
  case h_32 => rfl
  all_goals exact absurd (by decide) h

/-! ## Reads -/

theorem busGet_whole {s : State} {o i : Nat} {r : Reg} (h : s.dev.AtReg o r i false) :
    s.busGet o (r.place.bits / 8) = s.regView r i % 2 ^ r.place.bits := by
  have h8 : 8 * (r.place.bits / 8) = r.place.bits := by rcases r.bits_cases with h | h <;> rw [h]
  unfold State.busGet
  dsimp only
  rw [if_neg h.not_stage, if_neg h.not_msix, if_neg h.not_ring, h.found]
  simp only [Bool.false_eq_true, if_false, h8]

theorem busGet_low {s : State} {o i : Nat} {r : Reg} (h : s.dev.AtReg o r i false) : s.busGet o 4 = s.regView r i % 2 ^ 32 := by
  unfold State.busGet
  dsimp only
  rw [if_neg h.not_stage, if_neg h.not_msix, if_neg h.not_ring, h.found]
  rfl

theorem busGet_high {s : State} {o i : Nat} {r : Reg} (h : s.dev.AtReg o r i true) {up : Nat} (hl : smFind s.dev.readLatch (r.addr i) = some up) :
    s.busGet o 4 = up := by
  unfold State.busGet
  dsimp only
  rw [if_neg h.not_stage, if_neg h.not_msix, if_neg h.not_ring, h.found]
  simp only [if_true, hl, Option.getD_some]

/-- The module after a read of a register cleared its RC fields. -/
def Dev.rcCleared (d : Dev) (r : Reg) (i : Nat) : Dev :=
  if r.fields.any (fun f => f.ty == .rc) then d.wr r i (putFields clearRc r.fields (d.rd r i)) else d

theorem readDone_eq {s : State} {o i : Nat} {r : Reg} {hi : Bool} (h : s.dev.AtReg o r i hi) (size : Nat) :
    s.readDone o size =
      if r.place.bits = 64 ∧ size = 4 then
        (if hi then { s.dev.rcCleared r i with readLatch := smDel s.dev.readLatch (r.addr i) }
         else { s.dev.rcCleared r i with readLatch := smPut s.dev.readLatch (r.addr i) (s.regView r i / 2 ^ 32) })
      else s.dev.rcCleared r i := by
  have hstep : putField clearRc = fun n f => if f.ty == .rc then setFld n f.lo f.w 0 else n := by
    funext n f
    unfold putField clearRc
    by_cases h : f.ty = .rc <;> simp [h]
  have hlatch : (s.dev.rcCleared r i).readLatch = s.dev.readLatch := by
    unfold Dev.rcCleared
    split <;> rfl
  unfold State.readDone
  dsimp only
  rw [if_neg h.not_stage, h.found, ← hlatch]
  unfold Dev.rcCleared putFields
  rw [hstep]

theorem fd_rcCleared (d : Dev) {r : Reg} (i : Nat) {f : RField} (hf : f ∈ r.fields) :
    (d.rcCleared r i).fd r i f.lo f.w = if f.ty = .rc then 0 else d.fd r i f.lo f.w := by
  unfold Dev.rcCleared
  split
  · rw [fd_wr_putFields d clearRc hf]
    unfold clearRc
    by_cases h : f.ty = .rc <;> simp [h]
  · next hany =>
    have hne : f.ty ≠ .rc := fun h => hany (List.any_eq_true.mpr ⟨f, hf, by simp [h]⟩)
    rw [if_neg hne]

theorem rd_rcCleared_other (d : Dev) {r q : Reg} {i j : Nat} (h : q.addr j ≠ r.addr i) : (d.rcCleared r i).rd q j = d.rd q j := by
  unfold Dev.rcCleared
  split
  · exact rd_wr_other d _ h
  · rfl

/-- Clearing RC fields changes the registers alone. -/
theorem rcCleared_frame (d : Dev) (r : Reg) (i : Nat) : d.rcCleared r i = { d with regs := (d.rcCleared r i).regs } := by
  unfold Dev.rcCleared
  split <;> rfl

end Sys2Proof.Machine
end

section
/-!
PROOF. The host's accesses as the statement has them (00 R6 to R9; 16 R454, R456, R460, R462, R463; 17 R487).
-/
namespace Sys2Proof.Proofs
open Sys2Proof.Machine Sys2Proof.Claims

/-! ## Frames of the accesses -/

/-- The request is an Unsupported Request: counted in HOSTIF_ERR, answered so, and nothing else happens (R456). -/
def Refused (s t : State) : Prop :=
  t.dev.rbit .hostifErr 0 2 = true ∧ RegsKept s t [(.hostifErr, 0)] ∧ t.dev.sent = s.dev.sent ++ [⟨.host, 3, []⟩]
    ∧ t = { s with dev := { s.dev with regs := t.dev.regs, sent := t.dev.sent } }

theorem refused_unsupported (s : State) : Refused s { s with dev := s.dev.unsupported } :=
  ⟨rbit_sb_same s.dev .hostifErr 0 true (by decide), fun _ _ h => rd_wr_other s.dev _ (h _ (List.mem_singleton.mpr rfl)), rfl, rfl⟩

/-- The listed registers' places, taken apart. -/
theorem ne_of_pair {r q p : Reg} {i j k : Nat} (h : ∀ e ∈ [(q, j), (p, k)], r.addr i ≠ e.1.addr e.2) : r.addr i ≠ q.addr j ∧ r.addr i ≠ p.addr k :=
  ⟨h (q, j) (by simp), h (p, k) (by simp)⟩

theorem regsKept_rx (s : State) (n : Nat) : RegsKept s { s with dev := s.dev.rx n } [(.hostifRxBytes, 0)] :=
  fun _ _ h => rd_rx _ _ (h _ (List.mem_singleton.mpr rfl))

/-! ## Register writes -/

/-- The fields of a register after a write of `x`, by their types (Table 0-5). -/
def Stored (s : State) (r : Reg) (i x : Nat) (t : State) : Prop :=
  ∀ f ∈ r.fields, t.dev.fd r i f.lo f.w = match f.ty with
    | .rw => fld x f.lo f.w
    | .rwl => if s.dev.ready then s.dev.fd r i f.lo f.w else fld x f.lo f.w
    | .rw1c => if fld x f.lo f.w = 0 then s.dev.fd r i f.lo f.w else 0
    | _ => s.dev.fd r i f.lo f.w

theorem fld_lt (n lo w : Nat) : fld n lo w < 2 ^ w := Nat.mod_lt _ (Nat.two_pow_pos w)

/-- A write that every field allows stores the fields. -/
theorem stored_regPut {s : State} {d : Dev} {r : Reg} {i x : Nat} (hok : r.allowsWrite x = true) (hr : d.ready = s.dev.ready)
    (hd : d.rd r i = s.dev.rd r i) : Stored s r i x { s with dev := d.regPut r i x } := by
  intro f hf
  have hfd : d.fd r i f.lo f.w = s.dev.fd r i f.lo f.w := by unfold Dev.fd; rw [hd]
  rw [regPut_eq, if_pos hok]
  refine (fd_wr_putFields d (fieldPut d.ready x) hf).trans ?_
  rw [hr, hfd]
  unfold fieldPut
  cases f.ty with
  | rw => exact Nat.mod_eq_of_lt (fld_lt _ _ _)
  | rwl =>
    cases s.dev.ready with
    | true => rfl
    | false => exact Nat.mod_eq_of_lt (fld_lt _ _ _)
  | rw1c => by_cases h : fld x f.lo f.w = 0 <;> simp [h]
  | _ => rfl

theorem rd_regPut_other (d : Dev) {r q : Reg} {i j : Nat} (x : Nat) (h : q.addr j ≠ r.addr i) : (d.regPut r i x).rd q j = d.rd q j := by
  rw [regPut_eq]
  split
  · exact rd_wr_other d _ h
  · rfl

theorem regPut_frame (d : Dev) (r : Reg) (i x : Nat) : d.regPut r i x = { d with regs := (d.regPut r i x).regs } := by
  rw [regPut_eq]
  split <;> rfl

/-- Bits beyond a register's width say nothing about its fields. -/
theorem allowsWrite_mod (r : Reg) (x : Nat) : r.allowsWrite (x % 2 ^ r.place.bits) = r.allowsWrite x := by
  rw [Bool.eq_iff_iff, Reg.allowsWrite, Reg.allowsWrite, List.all_eq_true, List.all_eq_true]
  exact forall₂_congr fun f hf => by rw [fld_mod (r.field_le_bits hf)]

theorem stored_mod {s t : State} {r : Reg} {i x : Nat} (h : Stored s r i (x % 2 ^ r.place.bits) t) : Stored s r i x t := by
  intro f hf
  rw [h f hf, fld_mod (r.field_le_bits hf)]

/-- The function answers there, and the offset names a register that is awake. -/
def Reaches (s : State) (fn off : Nat) (r : Reg) (i : Nat) (hi : Bool) (o : Nat) : Prop :=
  s.dev.answers fn = true ∧ off < barSize fn ∧ pfOffset fn off = some o ∧ findReg o = some (r, i, hi) ∧ (o < 0x10000 ∨ 0x20000 ≤ o)
    ∧ (o < 0x51000 ∨ 0x52000 ≤ o) ∧ o < 0x1000000 ∧ (s.dev.stepDone 1 = true ∨ early0 o = true)

theorem Reaches.takes {s : State} {fn off o i : Nat} {r : Reg} {hi : Bool} (h : Reaches s fn off r i hi o) (hl : s.dev.linkUp = true) :
    s.dev.Takes fn off o := by
  obtain ⟨ha, hb, ho, -⟩ := h
  exact ⟨hl, ha, hb, ho⟩

theorem Reaches.atReg {s : State} {fn off o i : Nat} {r : Reg} {hi : Bool} (h : Reaches s fn off r i hi o) : s.dev.AtReg o r i hi := by
  obtain ⟨-, -, -, hf, hm, hr, hs, ha⟩ := h
  exact ⟨hf, hm, hr, hs, ha⟩

theorem atReg_rx {d : Dev} {o i : Nat} {r : Reg} {hi : Bool} (h : d.AtReg o r i hi) (n : Nat) : (d.rx n).AtReg o r i hi :=
  ⟨h.found, h.notMsix, h.notRing, h.notStage, (stepDone_rx d n 1).symm ▸ h.awake⟩

/-- A write that reaches a register is one of the bus. -/
theorem Reaches.registerWrite {s : State} {fn off o i : Nat} {r : Reg} {hi : Bool} (h : Reaches s fn off r i hi o) (hl : s.dev.linkUp = true)
    {size : Nat} (h6 : breaksR6 o size = false) (v : Nat) : s.registerWrite fn off size v = { s with dev := s.dev.rx size }.busPut o size v := by
  have ha : (s.dev.stepDone 1 || early0 o) = true := by simpa using h.atReg.awake
  rw [(h.takes hl).registerWrite, h6, ha]
  rfl

theorem registerWrite_fields {s : State} {fn off o i : Nat} {r : Reg} (h : Reaches s fn off r i false o) (hl : s.dev.linkUp = true)
    (hr : r ∉ actingRegs) (hrx : r ≠ .hostifRxBytes) (h6 : breaksR6 o (r.place.bits / 8) = false) (v : Nat) :
    Does (.registerWrite fn off (r.place.bits / 8) v) s fun t => (r.allowsWrite v = true → Stored s r i v t)
      ∧ (r.allowsWrite v = false → t.dev.rd r i = s.dev.rd r i) ∧ RegsKept s t [(r, i), (.hostifRxBytes, 0)]
      ∧ t = { s with dev := { s.dev with regs := t.dev.regs } } := by
  have hrd := rd_rx s.dev (r.place.bits / 8) (h.atReg.ne_rx hrx)
  have heq : s.registerWrite fn off (r.place.bits / 8) v
      = { s with dev := (s.dev.rx (r.place.bits / 8)).regPut r i (v % 2 ^ r.place.bits) } := by
    rw [h.registerWrite hl h6, busPut_whole (atReg_rx h.atReg _), regSet_fields hr]
  refine ⟨_, congrArg Host.Outcome.next heq, fun hok => ?_, fun hbad => ?_, fun q j hq => ?_, ?_⟩
  · exact stored_mod (stored_regPut ((allowsWrite_mod r v).trans hok) (ready_rx _ _) hrd)
  · rw [regPut_eq, allowsWrite_mod, hbad]
    exact hrd
  · obtain ⟨hq1, hq2⟩ := ne_of_pair hq
    exact (rd_regPut_other _ _ hq1).trans (rd_rx _ _ hq2)
  · rw [regPut_frame]
    rfl

theorem registerWrite_low {s : State} {fn off o i : Nat} {r : Reg} (h : Reaches s fn off r i false o) (hl : s.dev.linkUp = true)
    (h64 : r.place.bits = 64) (h6 : breaksR6 o 4 = false) (v : Nat) :
    Does (.registerWrite fn off 4 v) s fun t => smFind t.dev.writeLatch (r.addr i) = some (v % 2 ^ 32) ∧ RegsKept s t [(.hostifRxBytes, 0)]
      ∧ t = { s with dev := { s.dev with regs := t.dev.regs, writeLatch := t.dev.writeLatch } } := by
  have heq := h.registerWrite hl h6 v
  rw [busPut_low (atReg_rx h.atReg _) h64] at heq
  exact ⟨_, congrArg Host.Outcome.next heq, smFind_smPut_same _ _ _, regsKept_rx s 4, rfl⟩

theorem registerWrite_high {s : State} {fn off o i : Nat} {r : Reg} (h : Reaches s fn off r i true o) (hl : s.dev.linkUp = true)
    (hr : r ∉ actingRegs) (hrx : r ≠ .hostifRxBytes) (h6 : breaksR6 o 4 = false) {low : Nat}
    (hlow : smFind s.dev.writeLatch (r.addr i) = some low) (v : Nat) :
    Does (.registerWrite fn off 4 v) s fun t =>
      (r.allowsWrite (low + v % 2 ^ 32 * 2 ^ 32) = true → Stored s r i (low + v % 2 ^ 32 * 2 ^ 32) t)
      ∧ smFind t.dev.writeLatch (r.addr i) = none ∧ RegsKept s t [(r, i), (.hostifRxBytes, 0)] := by
  have heq := h.registerWrite hl h6 v
  rw [busPut_high (s := { s with dev := s.dev.rx 4 }) (atReg_rx h.atReg 4) hlow, regSet_fields hr] at heq
  refine ⟨_, congrArg Host.Outcome.next heq, fun hok => stored_regPut hok (ready_rx _ _) (rd_rx s.dev 4 (h.atReg.ne_rx hrx)), ?_, fun q j hq => ?_⟩
  · rw [regPut_frame]
    exact smFind_smDel_same _ _
  · obtain ⟨hq1, hq2⟩ := ne_of_pair hq
    exact (rd_regPut_other _ _ hq1).trans (rd_rx _ _ hq2)

/-- A block that does not answer yet ignores a write (R460). -/
theorem registerWrite_asleep {s : State} {fn off o : Nat} (h : s.dev.Takes fn off o) {size : Nat} (h6 : breaksR6 o size = false)
    (h1 : s.dev.stepDone 1 = false) (h0 : early0 o = false) (v : Nat) :
    Does (.registerWrite fn off size v) s fun t => RegsKept s t [(.hostifRxBytes, 0)] ∧ t = { s with dev := { s.dev with regs := t.dev.regs } } := by
  have heq : s.registerWrite fn off size v = { s with dev := s.dev.rx size } := by
    rw [h.registerWrite, h6, h1, h0]
    rfl
  exact ⟨_, congrArg Host.Outcome.next heq, regsKept_rx s size, rfl⟩

/-! ## Register reads -/

/-- A read that reaches a register is answered by the bus. -/
theorem Reaches.registerRead {s : State} {fn off o i : Nat} {r : Reg} {hi : Bool} (h : Reaches s fn off r i hi o) (hl : s.dev.linkUp = true)
    {size : Nat} (h6 : breaksR6 o size = false) : s.registerRead fn off size = s.answered (s.readDone o size) size (s.busGet o size) := by
  have ha : (!s.dev.stepDone 1 && !early0 o) = false := by rcases h.atReg.awake with h | h <;> simp [h]
  rw [(h.takes hl).registerRead, h6, ha]
  rfl

theorem rd_tx (d : Dev) (n : Nat) {r : Reg} {i : Nat} (h : r.addr i ≠ Reg.hostifTxBytes.addr 0) : (d.tx n).rd r i = d.rd r i :=
  rd_wr_other d _ h

/-- A read changes beside RC fields and the byte counter no register, and no memory. -/
theorem answered_rcCleared (s : State) {d : Dev} {r : Reg} {i : Nat} (latch : SMap Nat) (hd : d = { s.dev.rcCleared r i with readLatch := latch })
    (size v : Nat) : RegsKept s (s.answered d size v) [(r, i), (.hostifTxBytes, 0)] ∧ MemoryKept s (s.answered d size v) := by
  subst hd
  refine ⟨fun q j hq => ?_, ?_⟩
  · obtain ⟨hq1, hq2⟩ := ne_of_pair hq
    exact (rd_tx _ _ hq2).trans (rd_rcCleared_other _ hq1)
  · rw [rcCleared_frame]
    exact fun _ => ⟨rfl, rfl, rfl, rfl, rfl⟩

theorem readDone_whole {s : State} {o i : Nat} {r : Reg} (h : s.dev.AtReg o r i false) : s.readDone o (r.place.bits / 8) = s.dev.rcCleared r i := by
  rw [readDone_eq h, if_neg r.not_half]

theorem readDone_low {s : State} {o i : Nat} {r : Reg} (h : s.dev.AtReg o r i false) (h64 : r.place.bits = 64) :
    s.readDone o 4 = { s.dev.rcCleared r i with readLatch := smPut s.dev.readLatch (r.addr i) (s.regView r i / 2 ^ 32) } := by
  rw [readDone_eq h, if_pos ⟨h64, rfl⟩]
  rfl

theorem readDone_high {s : State} {o i : Nat} {r : Reg} (h : s.dev.AtReg o r i true) :
    s.readDone o 4 = { s.dev.rcCleared r i with readLatch := smDel s.dev.readLatch (r.addr i) } := by
  rw [readDone_eq h, if_pos ⟨h.wide, rfl⟩]
  rfl

/-- REGISTER_READ_CLEAR reads in the register's own width. -/
theorem Reaches.registerReadClear {s : State} {fn off o i : Nat} {r : Reg} (h : Reaches s fn off r i false o) :
    s.registerReadClear fn off = s.registerRead fn off (r.place.bits / 8) := by
  obtain ⟨-, -, ho, hf, -⟩ := h
  unfold State.registerReadClear
  rw [ho, Option.bind_some, hf]
  show s.registerRead fn off (if (r.place.bits == 64) = true then 8 else 4) = _
  rcases r.bits_cases with hb | hb <;> rw [hb] <;> rfl

theorem registerReadClear_does {s : State} {fn off o i : Nat} {r : Reg} (h : Reaches s fn off r i false o) (hl : s.dev.linkUp = true)
    (htx : r ≠ .hostifTxBytes) (h6 : breaksR6 o (r.place.bits / 8) = false) :
    Does (.registerReadClear fn off) s fun t => t.dev.reply = [s.regView r i % 2 ^ r.place.bits] ∧ t.lim = s.lim
      ∧ (∀ f ∈ r.fields, t.dev.fd r i f.lo f.w = if f.ty = .rc then 0 else s.dev.fd r i f.lo f.w)
      ∧ RegsKept s t [(r, i), (.hostifTxBytes, 0)] ∧ MemoryKept s t := by
  have heq : s.registerReadClear fn off = s.answered (s.dev.rcCleared r i) (r.place.bits / 8) (s.regView r i % 2 ^ r.place.bits) := by
    rw [h.registerReadClear, h.registerRead hl h6, busGet_whole h.atReg, readDone_whole h.atReg]
  obtain ⟨hregs, hmem⟩ := answered_rcCleared s (r := r) (i := i) s.dev.readLatch (d := s.dev.rcCleared r i) (by rw [rcCleared_frame])
    (r.place.bits / 8) (s.regView r i % 2 ^ r.place.bits)
  refine ⟨_, congrArg Host.Outcome.next heq, rfl, rfl, fun f hf => ?_, hregs, hmem⟩
  exact (fd_wr_other (s.dev.rcCleared r i) _ _ _ (h.atReg.ne_tx htx)).trans (fd_rcCleared s.dev i hf)

theorem registerLowHalfRead_low {s : State} {fn off o i : Nat} {r : Reg} (h : Reaches s fn off r i false o) (hl : s.dev.linkUp = true)
    (h64 : r.place.bits = 64) (h6 : breaksR6 o 4 = false) :
    Does (.registerLowHalfRead fn off) s fun t => t.dev.reply = [s.regView r i % 2 ^ 32] ∧ t.lim = s.lim
      ∧ smFind t.dev.readLatch (r.addr i) = some (s.regView r i / 2 ^ 32) ∧ RegsKept s t [(r, i), (.hostifTxBytes, 0)] ∧ MemoryKept s t := by
  have heq := h.registerRead hl h6
  rw [busGet_low h.atReg] at heq
  obtain ⟨hregs, hmem⟩ := answered_rcCleared s _ (readDone_low h.atReg h64) 4 (s.regView r i % 2 ^ 32)
  refine ⟨_, congrArg Host.Outcome.next heq, rfl, rfl, ?_, hregs, hmem⟩
  rw [readDone_low h.atReg h64]
  exact smFind_smPut_same _ _ _

theorem registerLowHalfRead_high {s : State} {fn off o i : Nat} {r : Reg} (h : Reaches s fn off r i true o) (hl : s.dev.linkUp = true)
    (h6 : breaksR6 o 4 = false) {up : Nat} (hup : smFind s.dev.readLatch (r.addr i) = some up) :
    Does (.registerLowHalfRead fn off) s fun t => t.dev.reply = [up] ∧ t.lim = s.lim ∧ smFind t.dev.readLatch (r.addr i) = none ∧ MemoryKept s t := by
  have heq := h.registerRead hl h6
  rw [busGet_high h.atReg hup] at heq
  obtain ⟨-, hmem⟩ := answered_rcCleared s _ (readDone_high h.atReg) 4 up
  refine ⟨_, congrArg Host.Outcome.next heq, rfl, rfl, ?_, hmem⟩
  rw [readDone_high h.atReg]
  exact smFind_smDel_same _ _

end Sys2Proof.Proofs
end

section
/-!
PROOF. BAR4, the staging window and the link's retraining, and with them O55 (00 R6 to R9, R546; 16 R454 to R464, R482; 17 R487).
-/
namespace Sys2Proof.Machine
open Sys2Proof.Claims

/-! ## BAR4 -/

/-- Whether a piece may be written does not hang on the byte counters; the error of a lost one may. -/
theorem pieceWritable_rx (d : Dev) (n b : Nat) {p : Piece} (h : p.lost = false) : (d.rx n).pieceWritable b p = d.pieceWritable b p := by
  unfold Dev.pieceWritable
  rw [h]
  rfl

theorem pieceWritable_lost (d : Dev) (b : Nat) {p : Piece} (h : p.lost = true) : d.pieceWritable b p = .error (d.lostErr p.peer) := by
  unfold Dev.pieceWritable
  rw [h]
  rfl

theorem bar4Serves_rx (d : Dev) (n : Nat) (p? : Option Piece) (w : Bool) : (d.rx n).bar4Serves p? w = d.bar4Serves p? w := by
  cases p? with
  | none => rfl
  | some p =>
    unfold Dev.bar4Serves
    cases hl : p.lost with
    | false =>
      simp only [pieceWritable_rx d n 0 hl]
      rfl
    | true =>
      simp only [pieceWritable_lost _ 0 hl]
      rfl

theorem bar4Request_outside {d : Dev} (hl : d.linkUp = true) (ha : d.answers 0 = true) {off n : Nat}
    (h : n = 0 ∨ 2 ^ d.fd .hostifBar4Size 0 0 6 < off + n) (v : Option Nat) : d.bar4Request off n v = d.unsupported := by
  unfold Dev.bar4Request
  rw [hostTakes_of_answers hl ha, if_pos (by simpa using h)]

/-- An access within the window reaches bay 0's space. -/
theorem bar4Request_inside {d : Dev} (hl : d.linkUp = true) (ha : d.answers 0 = true) {off n : Nat} (hn : n ≠ 0)
    (h : off + n ≤ 2 ^ d.fd .hostifBar4Size 0 0 6) (v : Option Nat) :
    d.bar4Request off n v = (if v.isSome then d.rx n else d).bar4Access (d.rd .hostifBar4Base 0 + off) n v := by
  unfold Dev.bar4Request
  rw [hostTakes_of_answers hl ha, if_neg (by simpa [hn] using h)]

/-- In a hold an access waits (R463). -/
theorem bar4Access_held {d : Dev} (ho : d.bar4Open = true) (hh : d.held = true ∨ d.powerHold = true) (va n : Nat) (v : Option Nat) :
    d.bar4Access va n v = { d with bar4 := d.bar4 ++ [(va, n, v)] } := by
  unfold Dev.bar4Access
  rw [if_pos (by simpa [ho] using hh)]

theorem bar4Access_read {d : Dev} (hh : d.held = false) (hp : d.powerHold = false) (va n : Nat) : d.bar4Access va n none = d.bar4ReadNow va n := by
  unfold Dev.bar4Access
  rw [if_neg (by simp [hh, hp])]

theorem bar4Access_write {d : Dev} (hh : d.held = false) (hp : d.powerHold = false) (va n v : Nat) :
    d.bar4Access va n (some v) = d.bar4WriteNow va n v := by
  unfold Dev.bar4Access
  rw [if_neg (by simp [hh, hp])]

theorem bar4ReadNow_ok {d : Dev} (ho : d.bar4Open = true) {va n : Nat} (hs : (d.pieces 0 va n).all (fun p => d.bar4Serves p false) = true)
    {bs : List Byte} (hr : d.readVa 0 va n = .ok bs) :
    d.bar4ReadNow va n = { (d.tx n).send .host 1 [ofLe bs] with reply := [ofLe bs] } := by
  unfold Dev.bar4ReadNow
  dsimp only
  rw [if_neg (by simp only [ho, hs]; decide), hr]

/-- A read that no page serves: ones, and a fault counted. -/
theorem bar4ReadNow_unserved {d : Dev} {va n : Nat} (hs : (d.pieces 0 va n).all (fun p => d.bar4Serves p false) = false) :
    d.bar4ReadNow va n = { (d.bar4Fault.tx n).send .host 1 [2 ^ (8 * n) - 1] with reply := [2 ^ (8 * n) - 1] } := by
  unfold Dev.bar4ReadNow
  dsimp only
  rw [if_pos (by simp only [hs, Bool.not_false, Bool.or_true])]

theorem bar4WriteNow_ok {d : Dev} (ho : d.bar4Open = true) {va n : Nat} (hs : (d.pieces 0 va n).all (fun p => d.bar4Serves p true) = true) (v : Nat) :
    d.bar4WriteNow va n v = (d.writeVa 0 va (toLe n v)).1 := by
  unfold Dev.bar4WriteNow
  rw [if_neg (by simp only [ho, hs]; decide)]

theorem bar4WriteNow_unserved {d : Dev} {va n : Nat} (hs : (d.pieces 0 va n).all (fun p => d.bar4Serves p true) = false) (v : Nat) :
    d.bar4WriteNow va n v = d.bar4Fault := by
  unfold Dev.bar4WriteNow
  rw [if_pos (by simp only [hs, Bool.not_false, Bool.or_true])]

/-- A fault of BAR4 counts, to the width of its counter. -/
theorem rd_bar4Fault (d : Dev) : d.bar4Fault.rd .hostifBar4Faults 0 = min (d.rd .hostifBar4Faults 0 + 1) (2 ^ 32 - 1) := by
  unfold Dev.bar4Fault
  rw [addS_eq, rd_wr_same]
  exact Nat.mod_eq_of_lt (by unfold addSat; exact Nat.lt_of_le_of_lt (Nat.min_le_right _ _) (by decide))

/-! ## The staging window -/

theorem length_toLe (n x : Nat) : (toLe n x).length = n := by
  induction n generalizing x with
  | zero => rfl
  | succ n ih => exact congrArg (· + 1) (ih _)

theorem length_upFrom (a n : Nat) : (upFrom a n).length = n := by
  induction n generalizing a with
  | zero => rfl
  | succ n ih => exact congrArg (· + 1) (ih _)

theorem bytesAt_succ (x j : Nat) : bytesAt (x / 256) j 1 = bytesAt x (j + 1) 1 := by
  unfold bytesAt fld
  rw [Nat.div_div_eq_div_mul, show 8 * (j + 1) = 8 + 8 * j by omega, Nat.pow_add]

/-- Byte `j` of a number's little-endian bytes. -/
theorem getElem?_toLe {n j : Nat} (x : Nat) (h : j < n) : (toLe n x)[j]? = some (BitVec.ofNat 8 (bytesAt x j 1)) := by
  induction n generalizing x j with
  | zero => omega
  | succ n ih =>
    cases j with
    | zero => exact congrArg some (BitVec.eq_of_toNat_eq (by simp [bytesAt, fld]))
    | succ j =>
      rw [← bytesAt_succ]
      exact ih (x / 256) (by omega)

/-- A byte inside the written range reads as it was written. -/
theorem smGet_writeBytes_inside (m : List Host.Cell) (a : Nat) {bs : List Byte} {j : Nat} {x : Byte} (h : bs[j]? = some x) :
    smGet 0 (writeBytes m a bs) (a + j) = x := by
  induction bs generalizing m a j with
  | nil => cases h
  | cons y r ih =>
    unfold writeBytes
    cases j with
    | zero =>
      cases h
      rw [smGet_writeBytes_outside _ _ _ (by omega), Nat.add_zero, smGet_smSet_same]
    | succ j =>
      rw [show a + (j + 1) = a + 1 + j by omega]
      exact ih _ _ h

/-- A write of the window puts bytes there: the host's own, where the window is not in use. -/
theorem stageWrite_eq (d : Dev) {off n : Nat} (data : Nat) (h : off + n ≤ stageSize) (hn : n ≠ 0) :
    ∃ bs k, bs.length = n ∧ (d.stageBusy = false → bs = toLe n data) ∧ d.stageWrite off n data = { d.stagePut off bs with free := k } := by
  unfold Dev.stageWrite
  rw [if_neg (by simpa [hn] using h)]
  cases hb : d.stageBusy with
  | false => exact ⟨toLe n data, _, length_toLe n data, fun _ => rfl, rfl⟩
  | true => exact ⟨_, _, (List.length_map _).trans (length_upFrom 0 n), Bool.noConfusion, rfl⟩

/-- VALID is 0 after a write of the window. -/
theorem valid_stagePut (d : Dev) (off : Nat) (bs : List Byte) : (d.stagePut off bs).rbit .bringStageSts 0 0 = false := by
  unfold Dev.stagePut
  rw [rbit_wr_other _ _ _ (by decide), rbit_eq, fd_sf_other _ _ _ _ (by decide) (by decide), ← rbit_eq, rbit_sb_same _ _ _ _ (by decide)]

theorem rd_stagePut_other (d : Dev) (off : Nat) (bs : List Byte) {r : Reg} {i : Nat} (h1 : r.addr i ≠ Reg.bringStageSts.addr 0)
    (h2 : r.addr i ≠ Reg.bringStageFloor.addr 0) : (d.stagePut off bs).rd r i = d.rd r i := by
  unfold Dev.stagePut
  rw [rd_wr_other _ _ h2, sf_eq, rd_wr_other _ _ h1, sb_eq, rd_wr_other _ _ h1]
  rfl

/-! ## The link's retraining -/

/-- Retraining up to a speed that R482 allows. -/
theorem hostLinkRetrain_eq (d : Dev) (hl : d.linkUp = true) {v : Nat} (h : inRange 1 6 (fld v 1 3) = true) :
    d.hostLinkRetrain v = if bitAt v 0 then
      ((d.sf .hostifLinkCtrl 0 1 3 (fld v 1 3)).sf .hostifLinkSts 0 0 3 (min d.host.common (fld v 1 3))).sb .hostifLinkSts 0 8
        (min d.host.common (fld v 1 3) == 6)
      else d.sf .hostifLinkCtrl 0 1 3 (fld v 1 3) := by
  unfold Dev.hostLinkRetrain
  dsimp only
  rw [if_neg (by simp [h]), hl]
  cases bitAt v 0 <;> rfl

theorem fd_sb_other (d : Dev) (r : Reg) (i : Nat) (b : Bool) {lo lo' w' : Nat} (hb : lo' + w' ≤ r.place.bits) (h : lo + 1 ≤ lo' ∨ lo' + w' ≤ lo) :
    (d.sb r i lo b).fd r i lo' w' = d.fd r i lo' w' := fd_sf_other d r i _ hb h

theorem linkUp_eq (d : Dev) : d.linkUp = (d.fd .hostifLinkSts 0 9 1 == 1) := rbit_eq d .hostifLinkSts 0 9

section
variable {d : Dev} {v : Nat} (hl : d.linkUp = true) (h : inRange 1 6 (fld v 1 3) = true)
include hl h

theorem fd_ctrl_hostLinkRetrain : (d.hostLinkRetrain v).fd .hostifLinkCtrl 0 1 3 = fld v 1 3 := by
  have hset : (d.sf .hostifLinkCtrl 0 1 3 (fld v 1 3)).fd .hostifLinkCtrl 0 1 3 = fld v 1 3 :=
    (fd_sf_same d .hostifLinkCtrl 0 _ (by decide)).trans (Nat.mod_eq_of_lt (Nat.mod_lt _ (by decide)))
  rw [hostLinkRetrain_eq d hl h]
  split
  · rw [sb_eq, fd_wr_other _ _ _ _ (by decide), sf_eq, fd_wr_other _ _ _ _ (by decide), hset]
  · exact hset

theorem linkUp_hostLinkRetrain : (d.hostLinkRetrain v).linkUp = true := by
  have hset : (d.sf .hostifLinkCtrl 0 1 3 (fld v 1 3)).linkUp = true := (rbit_wr_other d _ 9 (by decide)).trans hl
  rw [hostLinkRetrain_eq d hl h]
  split
  · rw [linkUp_eq, fd_sb_other _ _ _ _ (by decide) (by decide), fd_sf_other _ _ _ _ (by decide) (by decide), ← linkUp_eq, hset]
  · exact hset

/-- The link's speed is the highest common one up to the target, where a write retrains it. -/
theorem speed_hostLinkRetrain : (d.hostLinkRetrain v).fd .hostifLinkSts 0 0 3
    = if bitAt v 0 = true then min d.host.common (fld v 1 3) else d.fd .hostifLinkSts 0 0 3 := by
  have h8 : min d.host.common (fld v 1 3) < 2 ^ 3 := Nat.lt_of_le_of_lt (Nat.min_le_right _ _) (Nat.mod_lt _ (by decide))
  rw [hostLinkRetrain_eq d hl h]
  split
  · rw [fd_sb_other _ _ _ _ (by decide) (by decide), fd_sf_same _ _ _ _ (by decide), Nat.mod_eq_of_lt h8]
  · exact fd_wr_other d _ _ _ (by decide)

theorem rd_hostLinkRetrain_other {r : Reg} {i : Nat} (h1 : r.addr i ≠ Reg.hostifLinkCtrl.addr 0) (h2 : r.addr i ≠ Reg.hostifLinkSts.addr 0) :
    (d.hostLinkRetrain v).rd r i = d.rd r i := by
  have hset : (d.sf .hostifLinkCtrl 0 1 3 (fld v 1 3)).rd r i = d.rd r i := rd_wr_other d _ h1
  rw [hostLinkRetrain_eq d hl h]
  split
  · rw [sb_eq, rd_wr_other _ _ h2, sf_eq, rd_wr_other _ _ h2, hset]
  · exact hset

theorem hostLinkRetrain_frame : d.hostLinkRetrain v = { d with regs := (d.hostLinkRetrain v).regs } := by
  rw [hostLinkRetrain_eq d hl h]
  split <;> rfl

end

end Sys2Proof.Machine

namespace Sys2Proof.Proofs
open Sys2Proof.Machine Sys2Proof.Claims

/-- A command that acts on the module alone answers the module it comes to. -/
theorem go_eq {s : State} {f : Dev → Dev} {d : Dev} (h : f s.dev = d) : s.go f = .next { s with dev := d } := h ▸ rfl

/-! ## Requests refused -/

theorem unsupportedRequest_refused {s : State} (hl : s.dev.linkUp = true) : Does .unsupportedRequest s (Refused s) :=
  ⟨_, go_eq (f := (·.unsupportedRequest)) (if_pos hl), refused_unsupported s⟩

section
variable {s : State} (hl : s.dev.linkUp = true) {fn off : Nat}
include hl

theorem registerWrite_refused (h : s.dev.outside fn off) (size v : Nat) : Does (.registerWrite fn off size v) s (Refused s) :=
  ⟨_, congrArg Host.Outcome.next (registerWrite_outside hl h size v), refused_unsupported s⟩

theorem registerReadClear_refused (h : s.dev.outside fn off) : Does (.registerReadClear fn off) s (Refused s) :=
  ⟨_, congrArg Host.Outcome.next (registerRead_outside hl h _), refused_unsupported s⟩

theorem registerLowHalfRead_refused (h : s.dev.outside fn off) : Does (.registerLowHalfRead fn off) s (Refused s) :=
  ⟨_, congrArg Host.Outcome.next (registerRead_outside hl h 4), refused_unsupported s⟩

end

section
variable {s : State} {fn off o : Nat} (h : s.dev.Takes fn off o)
include h

theorem registerWrite_breaksR6 {size : Nat} (h6 : breaksR6 o size = true) (v : Nat) : Does (.registerWrite fn off size v) s (Refused s) :=
  ⟨_, congrArg Host.Outcome.next ((h.registerWrite size v).trans (if_pos h6)), refused_unsupported s⟩

theorem registerLowHalfRead_breaksR6 (h6 : breaksR6 o 4 = true) : Does (.registerLowHalfRead fn off) s (Refused s) :=
  ⟨_, congrArg Host.Outcome.next ((h.registerRead 4).trans (if_pos h6)), refused_unsupported s⟩

end

/-! ## BAR4 -/

/-- A BAR4 access that comes to `d`. -/
theorem does_bar4Read {s : State} {off n : Nat} {d : Dev} (h : s.dev.bar4Request off n none = d) {P : State → Prop} (hp : P { s with dev := d }) :
    Does (.bar4Read off n) s P := ⟨_, go_eq (f := (·.bar4Read off n)) h, hp⟩

theorem does_bar4Write {s : State} {off n v : Nat} {d : Dev} (h : s.dev.bar4Request off n (some v) = d) {P : State → Prop}
    (hp : P { s with dev := d }) : Does (.bar4Write off n v) s P := ⟨_, go_eq (f := (·.bar4Write off n v)) h, hp⟩

theorem bar4_outside {s : State} (hl : s.dev.linkUp = true) (ha : s.dev.answers 0 = true) {off n : Nat}
    (h : n = 0 ∨ 2 ^ s.dev.fd .hostifBar4Size 0 0 6 < off + n) (v : Nat) :
    Does (.bar4Read off n) s (Refused s) ∧ Does (.bar4Write off n v) s (Refused s) :=
  ⟨does_bar4Read (bar4Request_outside hl ha h none) (refused_unsupported s), does_bar4Write (bar4Request_outside hl ha h _) (refused_unsupported s)⟩

/-- An access of BAR4 lies within the window, at VA `va` of bay 0. -/
structure Bar4At (s : State) (off n va : Nat) : Prop where
  link : s.dev.linkUp = true
  answers : s.dev.answers 0 = true
  ne : n ≠ 0
  inside : off + n ≤ 2 ^ s.dev.fd .hostifBar4Size 0 0 6
  base : va = s.dev.rd .hostifBar4Base 0 + off

namespace Bar4At

variable {s : State} {off n va : Nat}

theorem read (h : Bar4At s off n va) : s.dev.bar4Request off n none = s.dev.bar4Access va n none := by
  rw [bar4Request_inside h.link h.answers h.ne h.inside, h.base]
  rfl

theorem write (h : Bar4At s off n va) (v : Nat) : s.dev.bar4Request off n (some v) = (s.dev.rx n).bar4Access va n (some v) := by
  rw [bar4Request_inside h.link h.answers h.ne h.inside, h.base]
  rfl

theorem waits (h : Bar4At s off n va) (ho : s.dev.bar4Open = true) (hh : s.dev.held = true ∨ s.dev.powerHold = true) (v : Nat) :
    Does (.bar4Read off n) s (fun t => t = { s with dev := { s.dev with bar4 := s.dev.bar4 ++ [(va, n, none)] } })
    ∧ Does (.bar4Write off n v) s (fun t => t.dev.bar4 = s.dev.bar4 ++ [(va, n, some v)] ∧ RegsKept s t [(.hostifRxBytes, 0)] ∧ MemoryKept s t) := by
  have hw : (s.dev.rx n).held = true ∨ (s.dev.rx n).powerHold = true := by simpa using hh
  exact ⟨does_bar4Read (h.read.trans (bar4Access_held ho hh va n none)) rfl,
    does_bar4Write ((h.write v).trans (bar4Access_held ((bar4Open_rx _ _).trans ho) hw va n _))
      ⟨rfl, regsKept_rx s n, fun _ => ⟨rfl, rfl, rfl, rfl, rfl⟩⟩⟩

variable (h : Bar4At s off n va) (hh : s.dev.held = false) (hp : s.dev.powerHold = false)
include h hh hp

theorem readNow : s.dev.bar4Request off n none = s.dev.bar4ReadNow va n := h.read.trans (bar4Access_read hh hp va n)

theorem writeNow (v : Nat) : s.dev.bar4Request off n (some v) = (s.dev.rx n).bar4WriteNow va n v :=
  (h.write v).trans (bar4Access_write ((held_rx _ _).trans hh) ((powerHold_rx _ _).trans hp) va n v)

theorem read_served (ho : s.dev.bar4Open = true) (hs : (s.dev.pieces 0 va n).all (fun p => s.dev.bar4Serves p false) = true) {bs : List Byte}
    (hr : s.dev.readVa 0 va n = .ok bs) :
    Does (.bar4Read off n) s fun t => t.dev.reply = [ofLe bs] ∧ RegsKept s t [(.hostifTxBytes, 0)] ∧ MemoryKept s t ∧ t.lim = s.lim :=
  does_bar4Read ((h.readNow hh hp).trans (bar4ReadNow_ok ho hs hr))
    ⟨rfl, fun _ _ hq => rd_tx _ _ (hq _ (List.mem_singleton.mpr rfl)), fun _ => ⟨rfl, rfl, rfl, rfl, rfl⟩, rfl⟩

theorem read_unserved (hs : (s.dev.pieces 0 va n).all (fun p => s.dev.bar4Serves p false) = false) :
    Does (.bar4Read off n) s fun t => t.dev.reply = [2 ^ (8 * n) - 1]
      ∧ t.dev.rd .hostifBar4Faults 0 = min (s.dev.rd .hostifBar4Faults 0 + 1) (2 ^ 32 - 1) ∧ MemoryKept s t :=
  does_bar4Read ((h.readNow hh hp).trans (bar4ReadNow_unserved hs))
    ⟨rfl, (rd_tx s.dev.bar4Fault n (by decide)).trans (rd_bar4Fault s.dev), fun _ => ⟨rfl, rfl, rfl, rfl, rfl⟩⟩

theorem write_served (ho : s.dev.bar4Open = true) (hs : (s.dev.pieces 0 va n).all (fun p => s.dev.bar4Serves p true) = true) (v : Nat) :
    Does (.bar4Write off n v) s fun t => t = { s with dev := ((s.dev.rx n).writeVa 0 va (toLe n v)).1 } := by
  have hs' : ((s.dev.rx n).pieces 0 va n).all (fun p => (s.dev.rx n).bar4Serves p true) = true := by
    simp only [bar4Serves_rx]
    exact hs
  exact does_bar4Write ((h.writeNow hh hp v).trans (bar4WriteNow_ok ((bar4Open_rx _ _).trans ho) hs' v)) rfl

theorem write_unserved (hs : (s.dev.pieces 0 va n).all (fun p => s.dev.bar4Serves p true) = false) (v : Nat) :
    Does (.bar4Write off n v) s fun t => MemoryKept s t
      ∧ t.dev.rd .hostifBar4Faults 0 = min (s.dev.rd .hostifBar4Faults 0 + 1) (2 ^ 32 - 1) := by
  have hs' : ((s.dev.rx n).pieces 0 va n).all (fun p => (s.dev.rx n).bar4Serves p true) = false := by
    simp only [bar4Serves_rx]
    exact hs
  have hcount := rd_bar4Fault (s.dev.rx n)
  rw [rd_rx s.dev n (by decide)] at hcount
  exact does_bar4Write ((h.writeNow hh hp v).trans (bar4WriteNow_unserved hs' v)) ⟨fun _ => ⟨rfl, rfl, rfl, rfl, rfl⟩, hcount⟩

end Bar4At

/-! ## The window and the link -/

/-- A write of a register or the window that PF answers at once. -/
theorem hostWritesEarly_next {s : State} (hl : s.dev.linkUp = true) (hd : s.dev.host.d3.contains 0 = false) (n : Nat) (f : Dev → Dev) :
    s.go (·.hostWritesEarly n f) = .next { s with dev := f (s.dev.rx n) } :=
  go_eq (hostWritesEarly_up hl hd n f)

theorem stageWrite_does {s : State} (hl : s.dev.linkUp = true) (hd : s.dev.host.d3.contains 0 = false) {off n : Nat} (data : Nat)
    (hin : off + n ≤ stageSize) (hn : n ≠ 0) :
    Does (.stageWrite off n data) s fun t => t.dev.rbit .bringStageSts 0 0 = false ∧ t.lim = s.lim
      ∧ RegsKept s t [(.bringStageSts, 0), (.bringStageFloor, 0), (.hostifRxBytes, 0)]
      ∧ (∀ a, a < off ∨ off + n ≤ a → smGet 0 t.dev.stage a = smGet 0 s.dev.stage a)
      ∧ (s.dev.stageBusy = false → ∀ j, j < n → smGet 0 t.dev.stage (off + j) = BitVec.ofNat 8 (bytesAt data j 1)) := by
  obtain ⟨bs, k, hlen, hbs, heq⟩ := stageWrite_eq (s.dev.rx n) data hin hn
  have hnext := hostWritesEarly_next hl hd n fun d => d.stageWrite off n data
  rw [heq] at hnext
  refine ⟨_, hnext, valid_stagePut _ off bs, rfl, fun r i h => ?_, fun a ha => ?_, fun hfree j hj => ?_⟩
  · have hsts := h (.bringStageSts, 0) (by simp)
    have hfloor := h (.bringStageFloor, 0) (by simp)
    have hrx := h (.hostifRxBytes, 0) (by simp)
    exact (rd_stagePut_other _ off bs hsts hfloor).trans (rd_rx s.dev n hrx)
  · exact smGet_writeBytes_outside s.dev.stage off bs (by omega)
  · rw [hbs ((stageBusy_rx _ _).trans hfree)]
    exact smGet_writeBytes_inside s.dev.stage off (getElem?_toLe data hj)

theorem hostLinkRetrain_does {s : State} (hl : s.dev.linkUp = true) (hd : s.dev.host.d3.contains 0 = false) {v : Nat}
    (h : inRange 1 6 (fld v 1 3) = true) :
    Does (.hostLinkRetrain v) s fun t => t.dev.fd .hostifLinkCtrl 0 1 3 = fld v 1 3
      ∧ RegsKept s t [(.hostifLinkCtrl, 0), (.hostifLinkSts, 0), (.hostifRxBytes, 0)] ∧ MemoryKept s t ∧ t.dev.linkUp = true
      ∧ t.dev.fd .hostifLinkSts 0 0 3 = (if bitAt v 0 = true then min s.dev.host.common (fld v 1 3) else s.dev.fd .hostifLinkSts 0 0 3) := by
  have hl' : (s.dev.rx 4).linkUp = true := (linkUp_rx _ _).trans hl
  have hspeed := speed_hostLinkRetrain hl' h
  rw [fd_rx s.dev 4 0 3 (by decide)] at hspeed
  refine ⟨_, hostWritesEarly_next hl hd 4 fun d => d.hostLinkRetrain v, fd_ctrl_hostLinkRetrain hl' h, fun r i hr => ?_, ?_,
    linkUp_hostLinkRetrain hl' h, hspeed⟩
  · have hctrl := hr (.hostifLinkCtrl, 0) (by simp)
    have hsts := hr (.hostifLinkSts, 0) (by simp)
    have hrx := hr (.hostifRxBytes, 0) (by simp)
    exact (rd_hostLinkRetrain_other hl' h hctrl hsts).trans (rd_rx s.dev 4 hrx)
  · rw [hostLinkRetrain_frame hl' h]
    exact fun _ => ⟨rfl, rfl, rfl, rfl, rfl⟩

/-! ## The statement -/

/-- Settles O55: each kind of request by the lemma about it. -/
theorem hostAccesses : Obligations.HostAccesses := by
  unfold Obligations.HostAccesses
  intro s hl
  refine ⟨unsupportedRequest_refused hl, fun fn off size v hout => ?outside, fun fn off size v o ha hb ho => ?taken,
    fun fn off v o r i h hr => ?writes, fun fn off o r i h htx => ?reads, fun hd => ⟨fun off n v => ?bar4, ?stage, ?retrain⟩⟩
  case outside => exact ⟨registerWrite_refused hl hout size v, registerReadClear_refused hl hout, registerLowHalfRead_refused hl hout⟩
  case taken =>
    have ht : s.dev.Takes fn off o := ⟨hl, ha, hb, ho⟩
    exact ⟨fun h6 => registerWrite_breaksR6 ht h6 v, registerLowHalfRead_breaksR6 ht, fun h6 h1 h0 => registerWrite_asleep ht h6 h1 h0 v⟩
  case writes =>
    have hr' : r ∉ actingRegs ++ [.hostifRxBytes] := hr
    obtain ⟨hact, hrx⟩ : r ∉ actingRegs ∧ r ≠ .hostifRxBytes := by simpa only [List.mem_append, List.mem_singleton, not_or] using hr'
    exact ⟨fun h6 => registerWrite_fields h hl hact hrx h6 v, fun h64 h6 => registerWrite_low h hl h64 h6 v,
      fun low hlow _ hup h6 => registerWrite_high hup hl hact hrx h6 hlow v⟩
  case reads =>
    exact ⟨registerReadClear_does h hl htx, registerLowHalfRead_low h hl, fun up hup _ hhi h6 => registerLowHalfRead_high hhi hl h6 hup⟩
  case bar4 =>
    have ha := answers_zero hd
    refine ⟨fun hout => bar4_outside hl ha hout v, fun hn hin => ?_⟩
    have h : Bar4At s off n (s.dev.rd .hostifBar4Base 0 + off) := ⟨hl, ha, hn, hin, rfl⟩
    exact ⟨fun ho hh => h.waits ho hh v, fun ho hh hp => ⟨fun bs hs hr => h.read_served hh hp ho hs hr, fun hs => h.write_served hh hp ho hs v,
      h.read_unserved hh hp, fun hs => h.write_unserved hh hp hs v⟩⟩
  case stage => exact fun off n data hin hn => stageWrite_does hl hd data hin hn
  case retrain => exact fun v hv => hostLinkRetrain_does hl hd hv

end Sys2Proof.Proofs
end

section
/-!
PROOF. Layers for the statistics commands (03 R91 to R94): intervals of slots and a bay's own state, what a write to bay memory leaves
alone, and the slots of a table after a reset and after a close.
-/
namespace Sys2Proof.Machine

/-! ## Intervals, and a bay after a change -/

theorem upFrom_eq_range' (a n : Nat) : upFrom a n = List.range' a n := by
  induction n generalizing a with
  | zero => rfl
  | succ n ih => rw [upFrom, ih, List.range'_succ]

theorem mem_upFrom {a n i : Nat} : i ∈ upFrom a n ↔ a ≤ i ∧ i < a + n := by
  rw [upFrom_eq_range', List.mem_range'_1]

theorem nodup_upFrom (a n : Nat) : (upFrom a n).Nodup := by
  rw [upFrom_eq_range']
  exact List.nodup_range'

theorem length_modAt {α : Type} (l : List α) (i : Nat) (f : α → α) : (modAt l i f).length = l.length := by
  induction l generalizing i with
  | nil => rfl
  | cons x r ih =>
    cases i with
    | zero => rfl
    | succ i => exact congrArg (· + 1) (ih i)

theorem getElem?_modAt_same {α : Type} (l : List α) (i : Nat) (f : α → α) : (modAt l i f)[i]? = l[i]?.map f := by
  induction l generalizing i with
  | nil => rfl
  | cons x r ih =>
    cases i with
    | zero => rfl
    | succ i => exact ih i

theorem bay_modBay_same {d : Dev} {b : Nat} (h : b < d.bays.length) (f : Bay → Bay) : (d.modBay b f).bay b = f (d.bay b) := by
  unfold Dev.bay Dev.modBay
  simp only [getElem?_modAt_same, List.getElem?_eq_getElem h, Option.map_some, Option.getD_some]

/-! ## A write to bay memory -/

theorem firstTouch_frame (d : Dev) (o : Obj) (off len : Nat) :
    d.firstTouch o off len = { d with regs := (d.firstTouch o off len).regs, ulPages := (d.firstTouch o off len).ulPages } := by
  unfold Dev.firstTouch; dsimp only; split
  · rfl
  · split <;> rfl

theorem writePiece_frame (d : Dev) (p : Piece) (bs : List Byte) :
    d.writePiece p bs = { d with regs := (d.writePiece p bs).regs, hbm := (d.writePiece p bs).hbm, hbmBad := (d.writePiece p bs).hbmBad
                                 objs := (d.writePiece p bs).objs, peerMem := (d.writePiece p bs).peerMem
                                 sent := (d.writePiece p bs).sent, ulPages := (d.writePiece p bs).ulPages } := by
  unfold Dev.writePiece; split
  · rfl
  · split
    · rfl
    · dsimp only; rw [firstTouch_frame]; split <;> rfl

theorem writePieces_frame (d : Dev) (b : Nat) (ps : List (Option Piece)) (bs : List Byte) :
    (writePieces d b ps bs).1 =
      { d with regs := (writePieces d b ps bs).1.regs, hbm := (writePieces d b ps bs).1.hbm, hbmBad := (writePieces d b ps bs).1.hbmBad
               objs := (writePieces d b ps bs).1.objs, peerMem := (writePieces d b ps bs).1.peerMem
               sent := (writePieces d b ps bs).1.sent, ulPages := (writePieces d b ps bs).1.ulPages } := by
  induction ps generalizing d bs with
  | nil => rfl
  | cons p? r ih =>
    cases p? with
    | none => rfl
    | some p =>
      unfold writePieces; split
      · rfl
      · split
        · exact writePiece_frame d p _
        · rw [ih, writePiece_frame]

theorem writeVa_frame {d d1 : Dev} {b va : Nat} {bs : List Byte} {e : Option MemErr} (h : d.writeVa b va bs = (d1, e)) :
    d1 = { d with regs := d1.regs, hbm := d1.hbm, hbmBad := d1.hbmBad, objs := d1.objs, peerMem := d1.peerMem, sent := d1.sent
                  ulPages := d1.ulPages } := by
  have hframe := writePieces_frame d b (d.pieces b va bs.length) bs
  rwa [show writePieces d b (d.pieces b va bs.length) bs = (d1, e) from h] at hframe

/-! ## Slots made fresh -/

theorem smGet_smPut_same {α : Type} (d : α) (m : SMap α) (a : Nat) (x : α) : smGet d (smPut m a x) a = x := by
  rw [smGet, smFind_smPut_same, Option.getD_some]

theorem smGet_smPut_other {α : Type} (d : α) (m : SMap α) {a b : Nat} (x : α) (h : b ≠ a) : smGet d (smPut m a x) b = smGet d m b := by
  rw [smGet, smFind_smPut_other m x h, smGet]

/-- Each entry of an interval is replaced once, from what it held before. -/
theorem smGet_foldl_smPut {α : Type} (d : α) (f : α → α) (m : SMap α) (a n i : Nat) :
    smGet d ((upFrom a n).foldl (fun m i => smPut m i (f (smGet d m i))) m) i
      = if a ≤ i ∧ i < a + n then f (smGet d m i) else smGet d m i := by
  induction n generalizing a m with
  | zero => rw [if_neg (by omega)]; rfl
  | succ n ih =>
    rw [upFrom, List.foldl_cons, ih]
    by_cases hi : i = a
    · subst hi
      rw [if_neg (by omega), if_pos (by omega), smGet_smPut_same]
    · have hin : (a + 1 ≤ i ∧ i < a + 1 + n) ↔ (a ≤ i ∧ i < a + (n + 1)) := by omega
      rw [smGet_smPut_other d m _ hi]
      simp only [hin]

theorem rec_mapSlots (t : StatTable) (first n : Nat) (f : StatRec → StatRec) (g : LayerSlot → LayerSlot) (i : Nat) :
    (t.mapSlots false first n f g).rec_ i = if first ≤ i ∧ i < first + n then f (t.rec_ i) else t.rec_ i :=
  smGet_foldl_smPut ({} : StatRec) f t.recs first n i

@[simp] theorem layers_mapSlots_records (t : StatTable) (first n : Nat) (f : StatRec → StatRec) (g : LayerSlot → LayerSlot) :
    (t.mapSlots false first n f g).layers = t.layers := rfl

@[simp] theorem log2_mapSlots_records (t : StatTable) (first n : Nat) (f : StatRec → StatRec) (g : LayerSlot → LayerSlot) :
    (t.mapSlots false first n f g).log2 = t.log2 := rfl

/-! ## Layer slots closed (R79) -/

theorem length_bays_event (d : Dev) (b code data extra : Nat) : (d.event b code data extra).bays.length = d.bays.length := by
  unfold Dev.event; dsimp only; split
  · exact length_modAt _ _ _
  · rw [hostWriteOf_frame]; exact length_modAt _ _ _

theorem closeLayer_frame (d : Dev) (b l : Nat) (s : LayerSlot) :
    (d.closeLayer b l s).1 = { d with regs := (d.closeLayer b l s).1.regs, hostMem := (d.closeLayer b l s).1.hostMem
                                      bays := (d.closeLayer b l s).1.bays } := by
  unfold Dev.closeLayer; dsimp only; split
  · rw [event_frame]
  · rfl

theorem length_bays_closeLayer (d : Dev) (b l : Nat) (s : LayerSlot) : (d.closeLayer b l s).1.bays.length = d.bays.length := by
  unfold Dev.closeLayer; dsimp only; split
  · exact length_bays_event _ _ _ _ _
  · rfl

@[simp] theorem isOpen_closeLayer (d : Dev) (b l : Nat) (s : LayerSlot) : (d.closeLayer b l s).2.isOpen = s.isOpen := rfl

/-- Table `t` after the open step of slot `l` is closed, on module `d` of bay `b`. -/
def StatTable.closed (t : StatTable) (d : Dev) (b l : Nat) : StatTable :=
  { t with layers := smSet {} t.layers l (d.closeLayer b l { t.layer l with isOpen := false }).2 }

theorem isOpen_closed_same (t : StatTable) (d : Dev) (b l : Nat) : ((t.closed d b l).layer l).isOpen = false := by
  unfold StatTable.layer StatTable.closed
  rw [smGet_smSet_same, isOpen_closeLayer]

theorem layer_closed_other (t : StatTable) (d : Dev) (b : Nat) {l i : Nat} (h : i ≠ l) : (t.closed d b l).layer i = t.layer i :=
  smGet_smSet_other ({} : LayerSlot) t.layers _ h

theorem closeLayers_of_closed (b : Nat) (d : Dev) {t : StatTable} {l : Nat} (r : List Nat) (h : (t.layer l).isOpen = false) :
    closeLayers b d t (l :: r) = closeLayers b d t r := by
  rw [closeLayers]
  exact if_pos (by rw [h]; rfl)

theorem closeLayers_of_open (b : Nat) (d : Dev) {t : StatTable} {l : Nat} (r : List Nat) (h : (t.layer l).isOpen = true) :
    closeLayers b d t (l :: r) =
      let e := closeLayers b (d.closeLayer b l { t.layer l with isOpen := false }).1 (t.closed d b l) r
      (e.1, e.2.1, e.2.2 + 1) := by
  rw [closeLayers]
  exact if_neg (by rw [h]; decide)

theorem closeLayers_frame (b : Nat) (d : Dev) (t : StatTable) (ls : List Nat) :
    (closeLayers b d t ls).1 = { d with regs := (closeLayers b d t ls).1.regs, hostMem := (closeLayers b d t ls).1.hostMem
                                        bays := (closeLayers b d t ls).1.bays } := by
  induction ls generalizing d t with
  | nil => rfl
  | cons l r ih =>
    cases h : (t.layer l).isOpen with
    | false => rw [closeLayers_of_closed b d r h]; exact ih d t
    | true => rw [closeLayers_of_open b d r h]; dsimp only; rw [ih, closeLayer_frame]

theorem length_bays_closeLayers (b : Nat) (d : Dev) (t : StatTable) (ls : List Nat) :
    (closeLayers b d t ls).1.bays.length = d.bays.length := by
  induction ls generalizing d t with
  | nil => rfl
  | cons l r ih =>
    cases h : (t.layer l).isOpen with
    | false => rw [closeLayers_of_closed b d r h]; exact ih d t
    | true => rw [closeLayers_of_open b d r h]; exact (ih _ _).trans (length_bays_closeLayer _ _ _ _)

theorem recs_closeLayers (b : Nat) (d : Dev) (t : StatTable) (ls : List Nat) : (closeLayers b d t ls).2.1.recs = t.recs := by
  induction ls generalizing d t with
  | nil => rfl
  | cons l r ih =>
    cases h : (t.layer l).isOpen with
    | false => rw [closeLayers_of_closed b d r h]; exact ih d t
    | true => rw [closeLayers_of_open b d r h]; exact ih _ _

theorem layer_closeLayers_other (b : Nat) (d : Dev) (t : StatTable) {ls : List Nat} {i : Nat} (hi : i ∉ ls) :
    (closeLayers b d t ls).2.1.layer i = t.layer i := by
  induction ls generalizing d t with
  | nil => rfl
  | cons l r ih =>
    obtain ⟨hl, hr⟩ : i ≠ l ∧ i ∉ r := by simpa using hi
    cases h : (t.layer l).isOpen with
    | false => rw [closeLayers_of_closed b d r h]; exact ih d t hr
    | true => rw [closeLayers_of_open b d r h]; exact (ih _ _ hr).trans (layer_closed_other t d b hl)

theorem isOpen_closeLayers (b : Nat) (d : Dev) (t : StatTable) {ls : List Nat} (hls : ls.Nodup) {i : Nat} (hi : i ∈ ls) :
    ((closeLayers b d t ls).2.1.layer i).isOpen = false := by
  induction ls generalizing d t with
  | nil => cases hi
  | cons l r ih =>
    obtain ⟨hl, hr⟩ := List.nodup_cons.mp hls
    cases h : (t.layer l).isOpen with
    | false =>
      rw [closeLayers_of_closed b d r h]
      rcases List.mem_cons.mp hi with rfl | hi
      · rw [layer_closeLayers_other b d t hl, h]
      · exact ih d t hr hi
    | true =>
      rw [closeLayers_of_open b d r h]
      rcases List.mem_cons.mp hi with rfl | hi
      · exact (congrArg _ (layer_closeLayers_other b _ _ hl)).trans (isOpen_closed_same t d b i)
      · exact ih _ _ hr hi

/-- Each open step is counted once: closing one slot opens and closes no other. -/
theorem count_closeLayers (b : Nat) (d : Dev) (t : StatTable) {ls : List Nat} (hls : ls.Nodup) :
    (closeLayers b d t ls).2.2 = (ls.filter fun i => (t.layer i).isOpen).length := by
  induction ls generalizing d t with
  | nil => rfl
  | cons l r ih =>
    obtain ⟨hl, hr⟩ := List.nodup_cons.mp hls
    cases h : (t.layer l).isOpen with
    | false => rw [closeLayers_of_closed b d r h, ih d t hr, List.filter_cons_of_neg (by simp [h])]
    | true =>
      have hkept : (r.filter fun i => ((t.closed d b l).layer i).isOpen) = r.filter fun i => (t.layer i).isOpen :=
        List.filter_congr fun i hi => by rw [layer_closed_other t d b (ne_of_mem_of_not_mem hi hl)]
      rw [closeLayers_of_open b d r h, List.filter_cons_of_pos (p := fun i => (t.layer i).isOpen) h, List.length_cons, ← hkept]
      exact congrArg (· + 1) (ih _ _ hr)

/-! ## The commands where their checks pass (Table 3-9) -/

/-- The module with `x` as the statistics table of bay `b`. -/
def Dev.putStats (d : Dev) (b : Nat) (x : StatTable) : Dev := d.modBay b fun y => { y with stats := some x }

theorem stats_putStats {d : Dev} {b : Nat} (h : b < d.bays.length) (x : StatTable) : ((d.putStats b x).bay b).stats = some x := by
  unfold Dev.putStats
  rw [bay_modBay_same h]

/-- A table after STAT_READ of record slots by command `c`: with CLEAR they keep CLASS, HIST_BASE and LAYER alone (R92). -/
def StatTable.recordsRead (x : StatTable) (c : Cmd) : StatTable :=
  if bitAt c.pkt 130 then
    x.mapSlots false (c.at 20 4) (c.at 24 4) (fun r => StatRec.fresh r.cls r.histBase r.layer) LayerSlot.cleared
  else x

theorem layers_recordsRead (x : StatTable) (c : Cmd) : (x.recordsRead c).layers = x.layers := by
  unfold StatTable.recordsRead
  split
  · exact layers_mapSlots_records x _ _ _ _
  · rfl

theorem rec_recordsRead (x : StatTable) (c : Cmd) (i : Nat) :
    (x.recordsRead c).rec_ i = if bitAt c.pkt 130 = true ∧ c.at 20 4 ≤ i ∧ i < c.at 20 4 + c.at 24 4 then
      StatRec.fresh (x.rec_ i).cls (x.rec_ i).histBase (x.rec_ i).layer else x.rec_ i := by
  unfold StatTable.recordsRead
  cases h : bitAt c.pkt 130 with
  | false => simp
  | true => simp [rec_mapSlots]

theorem statReadCmd_records {d d1 : Dev} {q : Nat} {c : Cmd} {x : StatTable} (hrun : d.running? q 0x80 = some c)
    (hx : (d.bay c.bay).stats = some x) (hpkt : c.only 1 [(16, 0, 3), (20, 0, 64), (32, 0, 48)] = true) (htable : c.bits 16 0 2 = 0)
    (hn : 1 ≤ c.at 24 4) (hle : c.at 20 4 + c.at 24 4 ≤ 2 ^ x.log2) (hbad : x.badSlot false (c.at 20 4) (c.at 24 4) = none)
    (herr : d.writeErr c.bay (c.at 32 8) (c.at 24 4 * 512) = none)
    (hw : d.writeVa c.bay (c.at 32 8) ((upFrom (c.at 20 4) (c.at 24 4)).flatMap fun i => toLe 512 (x.rec_ i).bytes) = (d1, none)) :
    d.statReadCmd q = (d1.putStats c.bay (x.recordsRead c)).complete c stOk (c.at 24 4) := by
  have hchecks : ¬ (!c.only 1 [(16, 0, 3), (20, 0, 64), (32, 0, 48)] || decide (c.bits 16 0 2 > 1) || decide (c.at 24 4 = 0)
      || decide (c.at 20 4 + c.at 24 4 > x.slots (c.bits 16 0 2 == 1))) = true := by
    simp [hpkt, htable, StatTable.slots, StatTable.size]
    omega
  unfold Dev.statReadCmd
  rw [hrun]; dsimp only
  rw [hx]; dsimp only
  rw [if_neg hchecks]
  simp only [htable, Nat.reduceBEq, Bool.false_eq_true, if_false, herr, hbad, hw]
  rfl

theorem statResetCmd_records {d : Dev} {q : Nat} {c : Cmd} {x : StatTable} (hrun : d.running? q 0x81 = some c)
    (hx : (d.bay c.bay).stats = some x) (haction : c.bits 16 2 2 = 0) (hok : Dev.statResetOk c x = true) (htable : c.bits 16 0 2 = 0)
    (hbad : x.badSlot false (c.at 20 4) (c.at 24 4) = none) :
    d.statResetCmd q = (d.putStats c.bay (x.mapSlots false (c.at 20 4) (c.at 24 4)
      (fun _ => StatRec.fresh (c.bits 17 0 2) (c.at 18 1) (c.at 28 2)) fun _ => {})).complete c stOk (c.at 24 4) := by
  unfold Dev.statResetCmd
  simp only [hrun, haction, hx, hok, htable, hbad, Nat.reduceEqDiff, Nat.reduceBEq, Bool.not_true, Bool.false_eq_true, if_false]
  rfl

theorem statCloseCmd_ok {d : Dev} {q : Nat} {c : Cmd} {x : StatTable} (hrun : d.running? q 0x81 = some c)
    (hx : (d.bay c.bay).stats = some x) (haction : c.bits 16 2 2 = 1) (hok : Dev.statResetOk c x = true)
    (hbad : x.badSlot true (c.at 20 4) (c.at 24 4) = none) :
    d.statCloseCmd q =
      let e := closeLayers c.bay d x (upFrom (c.at 20 4) (c.at 24 4))
      (e.1.putStats c.bay e.2.1).complete c stOk e.2.2 := by
  unfold Dev.statCloseCmd
  simp only [hrun, haction, hx, hok, hbad, ne_eq, not_true_eq_false, Bool.not_true, Bool.false_eq_true, if_false]
  rfl

end Sys2Proof.Machine
end

section
/-!
PROOF. STAT_READ, STAT_RESET and STAT_CLOSE (03 R92, R93): each command comes to a new table in the bay and a completion, so its statement
joins what the table holds with what a completion does.
-/
namespace Sys2Proof.Proofs
open Sys2Proof.Machine Sys2Proof.Claims

section
variable {s : State} {q : Nat} {c : Cmd} {x : StatTable} (hbay : c.bay < s.dev.bays.length) (hx : (s.dev.bay c.bay).stats = some x)
include hbay hx

theorem statRead_does {d1 : Dev} (hr : Runs s q 0x80 c) (hpkt : c.only 1 [(16, 0, 3), (20, 0, 64), (32, 0, 48)] = true)
    (htable : c.bits 16 0 2 = 0) (hn : 1 ≤ c.at 24 4) (hle : c.at 20 4 + c.at 24 4 ≤ 2 ^ x.log2)
    (hbad : x.badSlot false (c.at 20 4) (c.at 24 4) = none) (herr : s.dev.writeErr c.bay (c.at 32 8) (c.at 24 4 * 512) = none)
    (hw : s.dev.writeVa c.bay (c.at 32 8) ((upFrom (c.at 20 4) (c.at 24 4)).flatMap fun i => toLe 512 (x.rec_ i).bytes) = (d1, none)) :
    Does (.statRead q) s fun t => Ended s t q c stOk (c.at 24 4) ∧ t.dev.hbm = d1.hbm ∧ t.dev.loft = s.dev.loft ∧ t.dev.objs = d1.objs
      ∧ ∃ y, (t.dev.bay c.bay).stats = some y ∧ y.layers = x.layers
        ∧ ∀ i, y.rec_ i = if bitAt c.pkt 130 = true ∧ c.at 20 4 ≤ i ∧ i < c.at 20 4 + c.at 24 4 then
            StatRec.fresh (x.rec_ i).cls (x.rec_ i).histBase (x.rec_ i).layer else x.rec_ i := by
  obtain ⟨hrun, hq⟩ := hr
  have hframe := writeVa_frame hw
  have hsqs : d1.sqs = s.dev.sqs := by rw [hframe]
  have hcqs : d1.cqs = s.dev.cqs := by rw [hframe]
  have hloft : d1.loft = s.dev.loft := by rw [hframe]
  have hbays : d1.bays = s.dev.bays := by rw [hframe]
  refine ⟨_, go_eq (f := (·.statReadCmd q)) (statReadCmd_records hrun hx hpkt htable hn hle hbad herr hw), ?_⟩
  refine ⟨ended_complete (d := d1.putStats c.bay _) hq (congrArg (smFind · q) hsqs) (fun k _ => congrArg (smFind · k.cq) hcqs) rfl, ?_⟩
  dsimp only
  rw [complete_frame]
  exact ⟨rfl, hloft, rfl, _, stats_putStats (hbays ▸ hbay) _, layers_recordsRead x c, rec_recordsRead x c⟩

theorem statReset_does (hr : Runs s q 0x81 c) (haction : c.bits 16 2 2 = 0) (hok : Dev.statResetOk c x = true) (htable : c.bits 16 0 2 = 0)
    (hbad : x.badSlot false (c.at 20 4) (c.at 24 4) = none) :
    Does (.statReset q) s fun t => Ended s t q c stOk (c.at 24 4) ∧ Clean s t q c
      ∧ (∃ y, (t.dev.bay c.bay).stats = some y ∧ y.log2 = x.log2 ∧ y.layers = x.layers
        ∧ (∀ i, c.at 20 4 ≤ i → i < c.at 20 4 + c.at 24 4 → y.rec_ i = StatRec.fresh (c.bits 17 0 2) (c.at 18 1) (c.at 28 2))
        ∧ ∀ i, (i < c.at 20 4 ∨ c.at 20 4 + c.at 24 4 ≤ i) → y.rec_ i = x.rec_ i)
      ∧ t = { s with dev := { s.dev with regs := t.dev.regs, sqs := t.dev.sqs, cqs := t.dev.cqs, bays := t.dev.bays } } := by
  obtain ⟨hrun, hq⟩ := hr
  refine ⟨_, go_eq (f := (·.statResetCmd q)) (statResetCmd_records hrun hx haction hok htable hbad), ?_⟩
  refine ⟨ended_complete (d := s.dev.putStats c.bay _) hq rfl (fun _ _ => rfl) rfl,
    clean_complete (d := s.dev.putStats c.bay _) hq rfl rfl (fun _ _ _ => rfl) rfl, ?_⟩
  dsimp only
  rw [complete_frame]
  refine ⟨⟨_, stats_putStats hbay _, log2_mapSlots_records .., layers_mapSlots_records .., fun i hle hlt => ?_, fun i hout => ?_⟩, rfl⟩
  · rw [rec_mapSlots, if_pos ⟨hle, hlt⟩]
  · rw [rec_mapSlots, if_neg (by omega)]

theorem statClose_does (hr : Runs s q 0x81 c) (haction : c.bits 16 2 2 = 1) (hok : Dev.statResetOk c x = true)
    (hbad : x.badSlot true (c.at 20 4) (c.at 24 4) = none) :
    Does (.statClose q) s fun t =>
      Ended s t q c stOk ((upFrom (c.at 20 4) (c.at 24 4)).filter fun i => (x.layer i).isOpen).length
      ∧ (∃ y, (t.dev.bay c.bay).stats = some y ∧ y.recs = x.recs
        ∧ (∀ i, c.at 20 4 ≤ i → i < c.at 20 4 + c.at 24 4 → (y.layer i).isOpen = false)
        ∧ ∀ i, (i < c.at 20 4 ∨ c.at 20 4 + c.at 24 4 ≤ i) → y.layer i = x.layer i)
      ∧ t = { s with dev := { s.dev with regs := t.dev.regs, hostMem := t.dev.hostMem, sqs := t.dev.sqs, cqs := t.dev.cqs
                                         bays := t.dev.bays } } := by
  obtain ⟨hrun, hq⟩ := hr
  have hnodup := nodup_upFrom (c.at 20 4) (c.at 24 4)
  have hframe := closeLayers_frame c.bay s.dev x (upFrom (c.at 20 4) (c.at 24 4))
  have hbays := length_bays_closeLayers c.bay s.dev x (upFrom (c.at 20 4) (c.at 24 4))
  have hcmd := statCloseCmd_ok hrun hx haction hok hbad
  dsimp only at hcmd
  rw [count_closeLayers c.bay s.dev x hnodup] at hcmd
  refine ⟨_, go_eq (f := (·.statCloseCmd q)) hcmd, ?_⟩
  refine ⟨ended_complete hq (congrArg (smFind ·.sqs q) hframe) (fun k _ => congrArg (smFind ·.cqs k.cq) hframe) rfl, ?_⟩
  dsimp only
  rw [complete_frame]
  refine ⟨⟨_, stats_putStats (hbays ▸ hbay) _, recs_closeLayers .., fun i hle hlt => ?_, fun i hout => ?_⟩, ?_⟩
  · exact isOpen_closeLayers c.bay s.dev x hnodup (mem_upFrom.mpr ⟨hle, hlt⟩)
  · exact layer_closeLayers_other c.bay s.dev x (mt mem_upFrom.mp (by omega))
  · unfold Dev.putStats Dev.modBay
    rw [hframe]

end

/-- Settles O12: each of the three commands by the lemma about it. -/
theorem statisticsCommands : Obligations.StatisticsCommands := by
  unfold Obligations.StatisticsCommands
  intro s q c x hbay hx
  refine ⟨fun d1 => ?read, ?reset, ?close⟩
  case read => exact statRead_does hbay hx
  case reset => exact statReset_does hbay hx
  case close => exact statClose_does hbay hx

end Sys2Proof.Proofs
end
